-- ==== Sys2Proof/Word.lean ====
section
/-!
DEFINITION. The word types of the part and their plainest arithmetic.
A vector row is 4,096 bits (spec/01 R24), a mask 1,024 bits (R28), a scalar register 64 bits (R26).
-/
namespace Sys2Proof

/-- A byte. -/
abbrev Byte := BitVec 8

/-- A scalar register, a control and status register, an instruction word (spec/01 R26, R34; spec/03 R72). -/
abbrev Word64 := BitVec 64

/-- A 32-bit word: a literal of a bundle's pool, a path mask (spec/03 R80; spec/01 R32). -/
abbrev Word32 := BitVec 32

/-- A vector register: 512 bytes (spec/01 R24). -/
abbrev Row := BitVec 4096

/-- A mask register: one bit per granule of a vector register (spec/01 R28). -/
abbrev MaskBits := BitVec 1024

/-- An accumulator tile: 32 by 128 words of 32 bits (spec/01 R42). -/
abbrev TileBits := BitVec 131072

end Sys2Proof
end

