-- ==== Sys2Proof/Syntax.lean ====
section
/-!
DEFINITION. The abstract syntax: operands, the instruction word, and one constructor of `Instr` for each row of the opcode table.
A row that is a form of the instruction word carries an `IWord`. A row that is an event of the part carries what comes from outside the rule
(which core, which queue, the bytes a host writes).
-/
namespace Sys2Proof

/-- The types a type code names (spec/03 R77). -/
inductive Ty where
  | f64 | f32 | bf16 | f16 | f8e4 | f8e5 | f6e3 | f4e2
  | i64 | i32 | i16 | i8 | i4
  | n64 | n32 | n16 | n8 | n4
  | b128 | b64 | ld4 | cb2 | e8m0 | f6e3p
deriving DecidableEq, Repr

/-- An operand specifier that is not reserved (spec/03 R79). `vec k n` is class 00 with bits 7:6 equal to `k`; `special i` is index 16 + i;
`small` holds the 7-bit pattern; `lit` is a literal reference with its PAIR bit and index. -/
inductive Operand where
  | vec (k : Fin 4) (n : Fin 64)
  | sreg (n : Fin 64)
  | mask (i : Fin 16)
  | special (i : Fin 8)
  | small (n : BitVec 7)
  | lit (pair : Bool) (j : Fin 64)
deriving DecidableEq, Repr

/-- The fields of an instruction word but OP, which the constructor of `Instr` stands for (spec/03 R72).
`lits` are the literal words it may name: the two halves of the trailing literal word when W = 1, the bundle's pool in a slot (R80). -/
structure IWord where
  ext : BitVec 6
  stall : BitVec 4
  pred : BitVec 5
  d : Operand
  a : Operand
  b : Operand
  c : Operand
  lits : List Word32
deriving DecidableEq, Repr

/-- The slots of a bundle in slot order (spec/03 R83). -/
inductive Slot where
  | s0 | s1 | v0 | v1 | v2 | v3 | f | m0 | m1 | t | p
deriving DecidableEq, Repr

/-- Who issues: a path of a SIMT warp, a VLIW thread, a lane group's service context, or a block's matrix sequencer
(spec/01 R23; spec/19 R437; spec/08 R217). `group` is 2 x core + lane group; `slot` the warp slot. -/
inductive Party where
  | path (group slot path : Nat)
  | thread (group slot : Nat)
  | service (group : Nat)
  | seq (core : Nat)
deriving DecidableEq, Repr

/-- A queue of launch records: host queue `q`, or the device-side queue of partition `p` (spec/09 R271). -/
inductive LaunchQueue where
  | host (q : Nat)
  | device (p : Nat)
deriving DecidableEq, Repr

/-- A host AtomicOp (spec/18 R397). -/
inductive HostAtomicOp where
  | fetchAdd | swap | cas (compare : Word64)
deriving DecidableEq, Repr

/-- An operation from a peer over a Runner link (spec/18 R414). -/
inductive RemoteOp where
  | store (address : Nat) (bytes : List Byte)
  /-- A store of some bits of a byte: a sub-byte element of a copy (spec/12 R328). -/
  | bits (address : Nat) (mask value : Byte)
  | atomic (address op : Nat) (wide : Bool) (operand : Word64)
  | cas (address : Nat) (wide : Bool) (compare operand : Word64)
  /-- An add-on-store of one element: the drain's format and kind, and the tile element. -/
  | addOn (address df kind : Nat) (value : Word64)
  | signal (counter amount : Nat)
deriving DecidableEq, Repr

/-- What the cache evicts of itself (spec/10 R294; spec/22 R476): tile `i` of a core, a line of a core's L1, or the L2 state of a line. -/
inductive Evicted where
  | tile (core i : Nat)
  | l1 (core line : Nat)
  | l2 (line : Nat)
deriving DecidableEq, Repr

/-- Where a save or the resume of PARTITION op 4 meets an uncorrectable error in shadow storage, if anywhere (spec/19 R434). -/
inductive ShadowLoss where
  | no | saving | resuming
deriving DecidableEq, Repr

/-- The rows of the opcode table. -/
inductive Instr where
  /-- MODULE_RESET (R452): Module reset checks and applies the configuration image, clears the storage arrays, releases ccnt on every die and sets BOOTSTAT ready. -/
  | moduleReset (readable : Bool)
  /-- IADD (R122): Adds integers element by element, wrapping to the type width. -/
  | iadd (w : IWord)
  /-- ISUB (R122): Subtracts integers element by element, wrapping to the type width. -/
  | isub (w : IWord)
  /-- IMUL (R122): Multiplies integers and keeps the low w bits of the product. -/
  | imul (w : IWord)
  /-- IMULH (R122): Multiplies integers and keeps the upper w bits of the exact product. -/
  | imulh (w : IWord)
  /-- IMAD (R122): Computes a times b plus c with a single final wrap. -/
  | imad (w : IWord)
  /-- IDIV (R123): Divides integers with truncation toward zero; division by zero and overflow saturate and set SATF.SAT. -/
  | idiv (w : IWord)
  /-- IREM (R123): Returns the remainder of truncating division, with the sign of the dividend and the borderline cases given. -/
  | irem (w : IWord)
  /-- IMIN (R122): Writes the smaller of two integers under the signedness of the type. -/
  | imin (w : IWord)
  /-- IMAX (R122): Writes the larger of two integers under the signedness of the type. -/
  | imax (w : IWord)
  /-- IABS (R122): Writes the absolute value of a signed integer, saturating the most negative value. -/
  | iabs (w : IWord)
  /-- ISAT (R122): Clamps an integer to a k-bit range of the same signedness as T. -/
  | isat (w : IWord)
  /-- AND (R122): Writes the bitwise AND of a and b. -/
  | and (w : IWord)
  /-- OR (R122): Writes the bitwise OR of a and b. -/
  | or (w : IWord)
  /-- XOR (R122): Writes the bitwise exclusive OR of a and b. -/
  | xor (w : IWord)
  /-- ANDN (R122): Writes a AND NOT b, bit by bit. -/
  | andn (w : IWord)
  /-- SHL (R122): Shifts left by k, giving 0 when k is at least the width. -/
  | shl (w : IWord)
  /-- SHR (R122): Shifts right logically by k for every type. -/
  | shr (w : IWord)
  /-- SAR (R122): Shifts right arithmetically by k for every type. -/
  | sar (w : IWord)
  /-- ROTL (R122): Rotates left by k mod w. -/
  | rotl (w : IWord)
  /-- CLZ (R122): Counts the leading zero bits of each element. -/
  | clz (w : IWord)
  /-- POPC (R122): Counts the one bits of each element. -/
  | popc (w : IWord)
  /-- BREV (R122): Reverses the bit order of each element. -/
  | brev (w : IWord)
  /-- BFX (R124): Extracts a bit field at a position and length given by a control value, extending it by the signedness of T. -/
  | bfx (w : IWord)
  /-- BFI (R124): Inserts the low bits of b into a bit field of a. -/
  | bfi (w : IWord)
  /-- LEA (R125): Computes a plus b shifted left by a small immediate c. -/
  | lea (w : IWord)
  /-- MOV (R125): Copies a pattern, an immediate or mask bits into the destination. -/
  | mov (w : IWord)
  /-- MOVL (R125): Writes a plus e times b into element e. -/
  | movl (w : IWord)
  /-- RSHR (R122): Shifts right by k with rounding half toward plus infinity. -/
  | rshr (w : IWord)
  /-- ICMP (R126): Compares integers under a condition and writes the result into the granule bits of a mask. -/
  | icmp (w : IWord)
  /-- FCMP (R127): Compares floats under an ordered or unordered condition and writes a mask. -/
  | fcmp (w : IWord)
  /-- FCLASS (R128): Tests each element for membership of a selected set of float classes and writes a mask. -/
  | fclass (w : IWord)
  /-- SEL (R129): Selects a or b for each element by a mask bit. -/
  | sel (w : IWord)
  /-- PLOG (R130): Combines two masks bit by bit through a 4-bit truth table. -/
  | plog (w : IWord)
  /-- PMOV_MM (R131): Copies granule bits from one mask to another. -/
  | pmovMm (w : IWord)
  /-- PMOV_MV (R131): Widens each mask granule bit into a 4-bit vector field. -/
  | pmovMv (w : IWord)
  /-- PMOV_VM (R131): Sets each mask granule bit when the matching 4 vector bits are nonzero. -/
  | pmovVm (w : IWord)
  /-- PCNT (R132): Counts the candidate set bits of a mask into an s register. -/
  | pcnt (w : IWord)
  /-- PFIRST (R132): Writes the index of the lowest candidate set bit of a mask, or 32 or 1,024 if there is none. -/
  | pfirst (w : IWord)
  /-- FADD (R155): Adds floats with one rounding, saturating on overflow. -/
  | fadd (w : IWord)
  /-- FSUB (R155): Subtracts floats with one rounding. -/
  | fsub (w : IWord)
  /-- FMUL (R155): Multiplies floats with one rounding. -/
  | fmul (w : IWord)
  /-- FFMA (R155): Computes a times b plus c with a single rounding. -/
  | ffma (w : IWord)
  /-- FMIN (R155): Writes the smaller float, ordering -0 below +0 and preferring a non-NaN operand. -/
  | fmin (w : IWord)
  /-- FMAX (R155): Writes the larger float, ordering -0 below +0 and preferring a non-NaN operand. -/
  | fmax (w : IWord)
  /-- FNEG (R155): Inverts the sign bit and keeps a NaN payload unquieted. -/
  | fneg (w : IWord)
  /-- FABS (R155): Clears the sign bit. -/
  | fabs (w : IWord)
  /-- FRND (R155): Rounds a float to an integer value of T in the chosen mode. -/
  | frnd (w : IWord)
  /-- FSCALE (R156): Multiplies a by 2^n, with n read as a w-bit integer. -/
  | fscale (w : IWord)
  /-- FDOT2 (R157): Adds a two-term 16-bit dot product to an f32 value with one rounding. -/
  | fdot2 (w : IWord)
  /-- FDOT4 (R157): Adds a four-term 8-bit float dot product to an f32 value with one rounding. -/
  | fdot4 (w : IWord)
  /-- FCVT (R160): Converts between float formats, widening or narrowing through register pairs or quads. -/
  | fcvt (w : IWord)
  /-- ICVT (R161): Converts to or from an integer type, with rounding and saturation. -/
  | icvt (w : IWord)
  /-- PACK (R162): Narrows two registers into one with saturation, or packs f6e3 containers. -/
  | pack (w : IWord)
  /-- UNPK (R164): Widens packed integers into a pair, or unpacks packed f6e3 into containers. -/
  | unpk (w : IWord)
  /-- BSCALE (R165): Converts elements while applying e8m0 block scales chosen by a byte select. -/
  | bscale (w : IWord)
  /-- PERM (R167): Permutes bytes within each thread slot under a selector. -/
  | perm (w : IWord)
  /-- SHUF (R168): Moves slots or words between lanes in idx, up, down or xor mode. -/
  | shuf (w : IWord)
  /-- BCAST (R169): Broadcasts one indexed element of a register to every participating element. -/
  | bcast (w : IWord)
  /-- BALLOT (R171): Gathers the condition bit of each thread into an s register. -/
  | ballot (w : IWord)
  /-- VOTE (R172): Combines a thread condition across participating threads by any, all or uni into a mask. -/
  | vote (w : IWord)
  /-- REDX (R174): Reduces participating elements across lanes through a fixed tree and writes the root to every participating lane. -/
  | redx (w : IWord)
  /-- MAXI (R176): Reduces to the largest value together with its index, breaking ties by index and then by lane. -/
  | maxi (w : IWord)
  /-- MINI (R176): Reduces to the smallest value together with its index. -/
  | mini (w : IWord)
  /-- SCANX (R175): Scans participating elements in ascending lane order, inclusive or exclusive. -/
  | scanx (w : IWord)
  /-- XMOV (R170): Moves a cluster register from one VLIW cluster to another. -/
  | xmov (w : IWord)
  /-- EXP2 (R177): Writes the correctly rounded value of 2^a. -/
  | exp2 (w : IWord)
  /-- LOG2 (R177): Writes the correctly rounded value of log2 a. -/
  | log2 (w : IWord)
  /-- RCP (R177): Writes the correctly rounded value of 1/a. -/
  | rcp (w : IWord)
  /-- RSQ (R177): Writes the correctly rounded value of 1/sqrt(a). -/
  | rsq (w : IWord)
  /-- SQRT (R177): Writes the correctly rounded square root. -/
  | sqrt (w : IWord)
  /-- SINP (R177): Writes the correctly rounded value of sin(2 pi a). -/
  | sinp (w : IWord)
  /-- COSP (R177): Writes the correctly rounded value of cos(2 pi a). -/
  | cosp (w : IWord)
  /-- ACT (R181): Evaluates the piecewise quadratic of the bound activation table and waits while the bank is busy. -/
  | act (w : IWord)
  /-- SFTLOAD (R182): Requests the load of a 1 KiB activation table from global memory into a bank. -/
  | sftload (w : IWord)
  /-- SFTLOAD_TABLE_WRITE (R183): Once no other warp is bound to the bank and earlier ACTs have finished, the loaded table is written whole and the bank is freed. -/
  | sftloadTableWrite (core : Nat)
  /-- RNDW (R184): Draws Whisk random words from a counter register and a key. -/
  | rndw (w : IWord)
  /-- LDS (R192): Loads from the scratchpad; the .take and .peek forms wait for full granules. -/
  | lds (w : IWord)
  /-- STS (R192): Stores to the scratchpad; the .fill form sets the full/empty bits. -/
  | sts (w : IWord)
  /-- LDSX (R194): Loads one, two or four whole registers from contiguous scratchpad rows. -/
  | ldsx (w : IWord)
  /-- STSX (R194): Stores one, two or four whole registers to contiguous scratchpad rows. -/
  | stsx (w : IWord)
  /-- FULL_EMPTY_WAIT_SATISFIED (R193): A waiting .take or .peek action is performed as one action once every granule it touches is full, and a .take clears them. -/
  | fullEmptyWaitSatisfied (core i : Nat)
  /-- FESET (R195): Sets the full/empty bit of every granule that a byte range overlaps. -/
  | feset (w : IWord)
  /-- FECLR (R195): Clears the full/empty bit of every granule that a byte range overlaps. -/
  | feclr (w : IWord)
  /-- LD (R196): Loads from global memory, plain or as an acquire at a scope. -/
  | ld (w : IWord)
  /-- ST (R196): Stores to global memory, plain or as a release; a store to the weight store in READ state raises WSWRITE. -/
  | st (w : IWord)
  /-- LDB (R197): Loads elements through a buffer record with padding and views. -/
  | ldb (w : IWord)
  /-- STB (R197): Stores elements through a buffer record and drops elements outside the extents. -/
  | stb (w : IWord)
  /-- PREF (R198): Brings a line into L1 or L2 without faulting. -/
  | pref (w : IWord)
  /-- CINV_LINE (R198): Discards the core's L1 copy of each addressed line. -/
  | cinvLine (w : IWord)
  /-- CINV_TILES (R198): Discards every transformed tile in the core's L1. -/
  | cinvTiles (w : IWord)
  /-- CINV_ALL (R198): Discards every L1 line and tile of the core. -/
  | cinvAll (w : IWord)
  /-- ATOM (R199): Performs a read-modify-write at a memory-side atomic unit and optionally returns the old value. -/
  | atom (w : IWord)
  /-- CAS (R200): Compares and swaps as one atomic action and returns the old value. -/
  | cas (w : IWord)
  /-- ULA (R201): Moves a Pantry sequence record from its list to the tail of a target list as one action. -/
  | ula (w : IWord)
  /-- FENCE (R202): Waits until the issuer's earlier accesses are performed or returned at a scope. -/
  | fence (w : IWord)
  /-- VARIABLE_LATENCY_RESULT (R115): A global load, atomic, ULA or SQREC result returns, and its pending destination register is written. -/
  | variableLatencyResult (i : Nat)
  /-- ASYNC_WRITE_PERFORMED (R268): An asynchronous write is performed at its scope, and its launch-slot counter falls. -/
  | asyncWritePerformed (i : Nat)
  /-- BAR_ARRIVE (R204): Sets the issuer's arrived flag; the last arrival completes the phase and wakes every waiter. -/
  | barArrive (w : IWord)
  /-- BAR_WAIT (R204): Waits until the barrier's phase differs from e. -/
  | barWait (w : IWord)
  /-- BAR_SYNC (R204): Records the phase, arrives and then waits for the phase to change. -/
  | barSync (w : IWord)
  /-- BARQ (R206): Reads a barrier's arrived count and phase into an s register. -/
  | barq (w : IWord)
  /-- RACQ_P (R209): A producer waits until its ring stage is empty for its lap. -/
  | racqP (w : IWord)
  /-- RACQ_C (R209): A consumer waits until its ring stage is filled in its lap. -/
  | racqC (w : IWord)
  /-- RCOMMIT (R209): Arrives at the stage's full barrier and advances the producer cursor. -/
  | rcommit (w : IWord)
  /-- RREL (R209): Arrives at the stage's empty barrier and advances the consumer cursor. -/
  | rrel (w : IWord)
  /-- WARPSYNC (R207): Waits until every live path waits at a WARPSYNC, and then merges the paths waiting at the same address. -/
  | warpsync (w : IWord)
  /-- CPY (R210): Checks a copy command block and enters a copy of it into the core's time-sorted buffer in the open batch. -/
  | cpy (w : IWord)
  /-- CPY_WAIT_ENTER (R211): A CPY that waited for a full copy buffer enters its command once an entry is free, in order of waiting. -/
  | cpyWaitEnter (core : Nat)
  /-- CSEAL (R212): Seals the open batch, or merges it into the last sealed batch when 8 are unfinished, and returns the seal count. -/
  | cseal (w : IWord)
  /-- CWAIT (R213): Waits until at most n of the issuer's sealed batches are unfinished. -/
  | cwait (w : IWord)
  /-- CTABLE (R215): Enters a command that replaces the block's codebook table when it runs. -/
  | ctable (w : IWord)
  /-- CQUERY (R216): Reads copy-engine batch or buffer state into an s register. -/
  | cquery (w : IWord)
  /-- COPY_COMMAND_START (R337): The eligible command with the smallest key starts moving: it reads its stencil table, translates its pages and moves its elements. -/
  | copyCommandStart (core i : Nat)
  /-- COPY_COMMAND_FINISH (R342): A command finishes once its writes and fills are done, ORs its flags into the issuer's SATF and may finish its batch. -/
  | copyCommandFinish (core i : Nat)
  /-- MLOAD (R221): Queues the load of a 64 K by 128 N tile into B slots and records their type tags. -/
  | mload (w : IWord)
  /-- MPERM (R222): Queues the load or derivation of a ladder panel of 128 groups into a slot pair. -/
  | mperm (w : IWord)
  /-- MZERO (R224): Queues the zeroing of one accumulator tile or a pair. -/
  | mzero (w : IWord)
  /-- MMA (R225): Queues the addition of an A tile times a B tile into an accumulator tile in groups of 16 along K. -/
  | mma (w : IWord)
  /-- MLADR (R228): Queues a ladder-path product of an activation tile with a panel into an FP32 tile. -/
  | mladr (w : IWord)
  /-- MSCALE (R227): Queues the load of a 640-byte scale image into the engine's scale state. -/
  | mscale (w : IWord)
  /-- MSCALE_CLR (R227): Queues the setting of every scale to 127. -/
  | mscaleClr (w : IWord)
  /-- MDRAIN (R229): Queues the conversion of a tile and its write to memory, plain or as an add-on-store. -/
  | mdrain (w : IWord)
  /-- MATRIX_OP_START (R346): A queued engine operation starts on its path once its dependences have completed and its pages have translated. -/
  | matrixOpStart (core path : Nat)
  /-- MATRIX_OP_COMPLETE (R346): An engine operation completes after its cycle count, freeing its path and its dependants. -/
  | matrixOpComplete (core path : Nat)
  /-- MWAIT (R231): Holds the stream until every earlier matrix operation has completed. -/
  | mwait (w : IWord)
  /-- MBAR_ARRIVE (R232): The sequencer arrives at a block barrier. -/
  | mbarArrive (w : IWord)
  /-- MBAR_WAIT (R232): The sequencer waits for a barrier phase. -/
  | mbarWait (w : IWord)
  /-- MBAR_SYNC (R232): The sequencer arrives and waits for the phase to change. -/
  | mbarSync (w : IWord)
  /-- MBAR_RACQ_P (R232): The sequencer acquires a ring stage as producer. -/
  | mbarRacqP (w : IWord)
  /-- MBAR_RACQ_C (R232): The sequencer acquires a ring stage as consumer. -/
  | mbarRacqC (w : IWord)
  /-- MBAR_RCOMMIT (R232): The sequencer commits a ring stage. -/
  | mbarRcommit (w : IWord)
  /-- MBAR_RREL (R232): The sequencer releases a ring stage. -/
  | mbarRrel (w : IWord)
  /-- MEND (R234): Waits as MWAIT does, leaves every membership and ends the sequencer. -/
  | mend (w : IWord)
  /-- TRN (R236): Transposes 8 by 8 blocks across the lanes of a VLIW cluster. -/
  | trn (w : IWord)
  /-- TRNW (R236): Transposes 32-bit or 64-bit elements held across register pairs or quads. -/
  | trnw (w : IWord)
  /-- BRA (R135): Branches; in SIMT it may split the path into taken and fall-through entries. -/
  | bra (w : IWord)
  /-- BRX (R135): Branches to an address held in an s register. -/
  | brx (w : IWord)
  /-- CALL (R139): Writes the return address into a link register and transfers control. -/
  | call (w : IWord)
  /-- RET (R139): Transfers control to the address in an s register. -/
  | ret (w : IWord)
  /-- JOIN (R137): Makes paths whose RPC is this address wait, and merges them when all have arrived. -/
  | join (w : IWord)
  /-- EXIT (R140): Ends threads, or the whole VLIW thread, and frees the warp when none remain. -/
  | exit (w : IWord)
  /-- LOOP_DEC (R142): Decrements a count register and branches while it is nonzero. -/
  | loopDec (w : IWord)
  /-- LOOP_PUSH (R143): Pushes a software-pipelined loop entry and sets the stage predicates. -/
  | loopPush (w : IWord)
  /-- LBREAK (R147): Pops the innermost loop entry and continues after its END. -/
  | lbreak (w : IWord)
  /-- LBREAK_Z (R147): Branches uniformly when an s register is zero. -/
  | lbreakZ (w : IWord)
  /-- LBREAK_NZ (R147): Branches uniformly when an s register is nonzero. -/
  | lbreakNz (w : IWord)
  /-- MODE_VLIW (R148): Checks the conditions and collapses a converged warp into a VLIW thread. -/
  | modeVliw (w : IWord)
  /-- MODE_VLIW_CONTEXT_TAKEN (R150): A warp waiting for a VLIW context takes the first one freed, in age order. -/
  | modeVliwContextTaken (group slot : Nat)
  /-- MODE_SIMT (R149): Checks the conditions and expands a VLIW thread back into a warp. -/
  | modeSimt (w : IWord)
  /-- NOP (R141): Does nothing but occupy an issue and apply its STALL. -/
  | nop (w : IWord)
  /-- SLEEP (R141): Waits until ccnt reaches a relative or absolute limit. -/
  | sleep (w : IWord)
  /-- SLEEP_EXPIRY (R141): ccnt reaches a SLEEP limit, and the sleeper continues, waking a gated core. -/
  | sleepExpiry (party : Party)
  /-- GETSR (R237): Reads a control and status register into an s register. -/
  | getsr (w : IWord)
  /-- SETSR (R238): Writes a control and status register under its field access codes. -/
  | setsr (w : IWord)
  /-- TRAP (R240): Raises a software trap with a chosen cause. -/
  | trap (w : IWord)
  /-- SVC (R240): Raises a service-call trap. -/
  | svc (w : IWord)
  /-- BKPT (R240): Raises a breakpoint trap. -/
  | bkpt (w : IWord)
  /-- TRET_RETRY (R241): Ends a handler and resumes at the trapping instruction. -/
  | tretRetry (w : IWord)
  /-- TRET_NEXT (R241): Ends a handler and resumes after the trapping instruction. -/
  | tretNext (w : IWord)
  /-- LOGW (R242): Appends a user record to the partition's log buffer. -/
  | logw (w : IWord)
  /-- CLK (R239): Reads ccnt, core cycles or committed instructions into an s register. -/
  | clk (w : IWord)
  /-- LAUNCH (R266): Reserves a device-side queue entry, copies the record with its stamp and sends a tail notify. -/
  | launch (w : IWord)
  /-- TAIL_NOTIFY (R267): The scheduler takes a tail notify, updates TMAX and consumes stamped entries in index order. -/
  | tailNotify (partition : Nat)
  /-- SQREC_LD (R244): Reads one 64-bit word of a sequence record. -/
  | sqrecLd (w : IWord)
  /-- SQREC_ST (R244): Writes one record word, refusing list links and the state. -/
  | sqrecSt (w : IWord)
  /-- SQREC_HIST (R359): Pushes a token into the history ring and advances HHEAD. -/
  | sqrecHist (w : IWord)
  /-- SQREC_CINC (R360): Increments or inserts a token count in the count table. -/
  | sqrecCinc (w : IWord)
  /-- SQREC_CGET (R360): Returns a token's count from the count table. -/
  | sqrecCget (w : IWord)
  /-- SQREC_WCHK (R363): Checks a speculative write position against the window and advances SHEAD, or raises SQWIN. -/
  | sqrecWchk (w : IWord)
  /-- SQACC (R245): Adds accepted and proposed counts for a drafter stage, halving both as needed. -/
  | sqacc (w : IWord)
  /-- SQBIND (R246): Checks a logit-program region and binds it to a record, or raises LPILL. -/
  | sqbind (w : IWord)
  /-- LPCALL (R247): Enters the bound logit program in LP mode with the record and window in s1 to s3. -/
  | lpcall (w : IWord)
  /-- LPRET (R248): Leaves LP mode and continues at the saved return address. -/
  | lpret (w : IWord)
  /-- BUNDLE_ISSUE (R92): A VLIW bundle, possibly merged with a secondary, issues and commits all its slots, or raises ILLBUNDLE. -/
  | bundleIssue (header : Word64) (slots : List Word64) (pool : List Word32)
  /-- EMPTY_RUN (R83): Each bundle of an empty run occupies one issue slot. -/
  | emptyRun (header : Word64)
  /-- REPLAY_RETRY (R429): A replay entry whose recorded REV differs walks again and proceeds, refaults or traps. -/
  | replayRetry (core i : Nat)
  /-- DISCARD (R421): The discard unit takes a discarding trap, ends the partition's in-flight work and completes its launches with STATUS 0x04. -/
  | discard (partition : Nat)
  /-- BLOCK_PLACE (R254): The launch scheduler places an eligible block, cluster or whole resident grid with all its resources. -/
  | blockPlace (launch : Nat) (cores : List Nat)
  /-- LAUNCH_ADMISSION (R253): A head record is checked once; a failing record is refused and completed with its status and detail. -/
  | launchAdmission (queue : LaunchQueue)
  /-- RECORD_AGING (R274): A head record whose AGELIMIT has passed becomes aged and blocks lower work in its partition. -/
  | recordAging (queue : LaunchQueue)
  /-- LAUNCH_COMPLETE (R269): A launch with every block retired and its counters at zero writes its completion record, signals SEV and counts its job. -/
  | launchComplete (launch : Nat)
  /-- QTAIL (R404): A doorbell write of the queue tail is a release at .sys and lets the device consume entries. -/
  | qtail (port q : Nat) (value : Word64)
  /-- HOST_QUEUE_CONSUME (R405): The device reads the head entry, checks its sequence number and dispatches or rejects the command. -/
  | hostQueueConsume (q : Nat)
  /-- LAUNCH_COMMAND (R406): Host command 0x01 passes its launch record to the launch scheduler as the queue's head. -/
  | launchCommand (q : Nat)
  /-- HCOPY (R406): Host command 0x02 starts a copy of bytes between physical ranges. -/
  | hcopy (q : Nat)
  /-- HCOPY_DONE (R406): Every byte of an HCOPY has been written at .sys, and the command completes. -/
  | hcopyDone (q : Nat)
  /-- SIGNAL (R406): Host command 0x03 adds an amount to an event counter. -/
  | signal (q : Nat)
  /-- WAIT (R406): Host command 0x04 holds its queue until an event counter meets a count. -/
  | wait (q : Nat)
  /-- BIND (R406): Host command 0x05 sets a partition's device-side launch queue and zeroes its counters. -/
  | bind (q : Nat)
  /-- WSMODE (R283): Host command 0x06 requests a weight-store state change for a die and stops placement there. -/
  | wsmode (q : Nat)
  /-- WSMODE_APPLY (R456): Once no block is placed on the die and its copy engines are empty, the weight-store state changes and placement resumes. -/
  | wsmodeApply (die : Nat)
  /-- LOGCTL (R473): Host command 0x07 sets or disables a partition's log buffer of a kind. -/
  | logctl (q : Nat)
  /-- PARTITION_CREATE (R430): PARTITION op 0 reads the descriptor, loads the locked store and makes the partition ACTIVE. -/
  | partitionCreate (q : Nat)
  /-- PARTITION_DESTROY (R430): PARTITION op 1 destroys an idle or saved partition, discarding saved work with STATUS 0x05. -/
  | partitionDestroy (q : Nat)
  /-- PARTITION_SAVE (R432): PARTITION op 2 stops placement and sends a pre-emption request to halt the partition. -/
  | partitionSave (q : Nat)
  /-- PARTITION_RESUME (R435): PARTITION op 3 restores a saved partition onto a quarter-die set. -/
  | partitionResume (q : Nat) (lost : Bool)
  /-- PARTITION_SAVE_RESUME (R430): PARTITION op 4 saves the partition and resumes it on a disjoint set. -/
  | partitionSaveResume (q : Nat)
  /-- PARTITION_HALT_COMPLETE (R432): Once every warp, context, sequencer and copy engine has stopped and accesses are performed, the save writes shadow storage. -/
  | partitionHaltComplete (partition : Nat) (loss : ShadowLoss)
  /-- CLAIM (R402): A CLAIM write with the key takes a lapsed lease and disables every queue. -/
  | claim (port : Nat) (value : Word64)
  /-- LEASE_WRITE (R401): The owner's write of LEASE while live renews EXPIRY up to 10 s ahead. -/
  | leaseWrite (port : Nat) (value : Word64)
  /-- LEASE_WARNING (R412): EXPIRY minus ccnt falls below 3,000,000 and vector 65 is sent to the owner. -/
  | leaseWarning
  /-- LEASE_EXPIRY (R401): ccnt reaches EXPIRY and LEASE.LIVE falls to 0. -/
  | leaseExpiry
  /-- HOST_BAR2_WRITE (R284): A host BAR2 write is performed at its home slice, or dropped whole into the weight store in READ state, setting WSDROP. -/
  | hostBar2Write (port offset : Nat) (bytes : List Byte)
  /-- HOST_ATOMIC (R318): A host AtomicOp on device memory is performed at the line's atomic unit. -/
  | hostAtomic (port offset : Nat) (op : HostAtomicOp) (wide : Bool) (operand : Word64)
  /-- REMOTE_OP_ARRIVE (R414): A Runner remote store, atomic or signal arrives at the peer and is performed at its home slice or event counter. -/
  | remoteOpArrive (port peer : Nat) (op : RemoteOp)
  /-- REMOTE_ACK (R415): The peer's acknowledgement of a remote operation lets its launch-slot counter fall. -/
  | remoteAck (i : Nat) (values : List Word64)
  /-- REMOTE_TIMEOUT (R415): A remote operation not acknowledged in 30,000,000 ccnt is abandoned and the issuer takes UE. -/
  | remoteTimeout (i : Nat)
  /-- SERVICE_RUN_START (R437): At a yield point, a pending service request runs its entry in the service context until TRET. -/
  | serviceRunStart (group : Nat)
  /-- SERVICE_RUN_LIMIT (R437): A service run reaches 4,096 issue slots without TRET and the partition is discarded with UE. -/
  | serviceRunLimit (group : Nat)
  /-- DEADLINE_EXPIRY (R439): DEADLINE reaches 0 and forces a yield point before the running context's next header. -/
  | deadlineExpiry (group : Nat)
  /-- CORE_WAKE (R431): A gated core makes its first issue 40 cycles after a waking event and records WAKEREASON. -/
  | coreWake (core cause : Nat)
  /-- REFRESH_WINDOW_OPEN (R285): A weight-store bank enters its refresh window and scrubs 32 lines. -/
  | refreshWindowOpen (die : Nat)
  /-- REFRESH_WINDOW_END (R285): A bank's refresh window ends and the accesses waiting on it are served. -/
  | refreshWindowEnd (die : Nat)
  /-- PATROL_SCRUB (R464): The patrol reads a near or far memory line, correcting it or poisoning it on a UE. -/
  | patrolScrub (line : Nat)
  /-- DRAM_ROW_REPAIR (R467): A failing DRAM row is copied to a spare row, with the data corrected. -/
  | dramRowRepair (line : Nat) (spare : Option Nat)
  /-- WEIGHT_STORE_BANK_REPAIR (R467): A bank with no spare row moves its units to a spare bank one at a time. -/
  | weightStoreBankRepair (die bank : Nat)
  /-- RUNNER_LANE_SPARE (R467): A failing Runner lane is replaced by the spare and the port retrains. -/
  | runnerLaneSpare (port lane : Nat)
  /-- WINDOW_BOUNDARY (R459): At each 3,000,000-ccnt boundary a die updates its thermal state, throttles and releases cores. -/
  | windowBoundary (die temperature energy : Nat)
  /-- SAMPLE_PERIOD (R451): Each 2^SPER ccnt a lane group writes a sample record naming the issuing path. -/
  | samplePeriod (core : Nat)
  /-- DCMD_HALT (R444): Holds the named paths, or the context at its next yield point. -/
  | dcmdHalt (i : Nat)
  /-- DCMD_RELEASE (R444): Makes the named held paths ready or waiting again. -/
  | dcmdRelease (i : Nat)
  /-- DCMD_STEP1 (R444): Runs one instruction or VLIW item of a held path and holds it again. -/
  | dcmdStep1 (i : Nat)
  /-- DCMD_STEPY (R444): Runs a held context to its next yield point and holds it there. -/
  | dcmdStepy (i : Nat)
  /-- DEBUG_WINDOW_WRITE (R443): A store into the debug window takes effect only on fully held warps, or is dropped and sets WREJ. -/
  | debugWindowWrite (i : Nat)
  /-- CORESPARE_GO (R468): A GO write maps a logical core to a spare physical core, or sets ERR. -/
  | corespareGo (port die : Nat) (value : Word64)
  /-- FMCTL_DRAIN (R469): A drain command moves a far-memory pair's units into the reserve. -/
  | fmctlDrain (port pair : Nat)
  /-- FMCTL_RESTORE (R469): A restore command moves a drained pair's units back to the seated module. -/
  | fmctlRestore (port pair : Nat)
  /-- FAR_MEMORY_UNIT_MOVE (R469): One 4 KiB unit moves as one action; the last move ends the drain or restore and sends vector 66. -/
  | farMemoryUnitMove (pair : Nat)
  /-- FAR_MEMORY_MODULE_REMOVED (R469): Removing a far-memory module not in DRAINED state makes later accesses to its channels raise UE. -/
  | farMemoryModuleRemoved (pair : Nat)
  /-- TDCTL_SNAP (R472): Copies every top-down counter in one tick for reading. -/
  | tdctlSnap (port : Nat)
  /-- TDCTL_LIVE (R472): Returns reads to the running counters and clears SNAP. -/
  | tdctlLive (port : Nat)
  /-- TDCTL_CLEAR (R472): Zeroes every top-down counter in one tick. -/
  | tdctlClear (port : Nat)
  /-- REGISTER_WRITE (R9): A write to a device register with no behaviour of its own changes its fields under their access codes. -/
  | registerWrite (port offset : Nat) (value : Word64)
  /-- FIXED_LATENCY_RESULT (R113): A fixed-latency result lands in its destination L cycles or issue slots after issue, ending interlocks on it. -/
  | fixedLatencyResult (group slot : Nat)
  /-- EVICTION (R294): The cache evicts, of itself, a transformed tile, an L1 line or a line's L2 state, which changes later snapshots and drops the line's last ordering party. -/
  | eviction (what : Evicted)
  /-- FAR_MEMORY_MODULE_SEATED (R469): A far-memory module is seated in a pair and FMCTL.PRESENT becomes 1, which admits a restore. -/
  | farMemoryModuleSeated (pair : Nat)
  /-- LOG_BUFFER_ROOM (R476): The device rereads RP at its home slice, finds room, and lets a host, peer, copy or engine access waiting on a full ordering buffer proceed. -/
  | logBufferRoom (partition kind : Nat)
  /-- FLIT_REPLAY (R414): A Runner flit arrives with a CRC error and is replayed at link level, and the class-7 replay count rises. -/
  | flitReplay (port : Nat)
deriving DecidableEq, Repr

end Sys2Proof
end

