-- ==== Sys2Proof/Machine/Bits.lean ====
section
/-!
DEFINITION. Bit fields, two's complement and byte order, and the widths of the types. Elements are handled as natural numbers below 2^w
(spec/01 R24; spec/02 R48). Byte order is little-endian (spec/00 R6).
-/
namespace Sys2Proof.Machine

open Sys2Proof

/-- Bits `lo + w - 1` down to `lo` of a number. -/
def bits (x lo w : Nat) : Nat := (x >>> lo) % 2 ^ w

/-- One bit of a number. -/
def bit (x i : Nat) : Bool := x.testBit i

/-- The pattern of a truth value. -/
def b2n (b : Bool) : Nat := if b then 1 else 0

/-- A number with bits `lo + w - 1` down to `lo` replaced. -/
def putBits (x lo w v : Nat) : Nat := x - (bits x lo w <<< lo) + ((v % 2 ^ w) <<< lo)

/-- Bits of a bit vector, as a number. -/
def vbits {n : Nat} (x : BitVec n) (lo w : Nat) : Nat := bits x.toNat lo w

/-- Two's complement reading of a `w`-bit pattern (spec/02 R48). -/
def sInt (w x : Nat) : Int := if x < 2 ^ (w - 1) then (x : Int) else (x : Int) - (2 ^ w : Nat)

/-- The `w`-bit pattern of an exact integer: Wrap of spec/05 R122. -/
def wrap (w : Nat) (v : Int) : Nat := (v % ((2 ^ w : Nat) : Int)).toNat

/-- The value of a pattern under a signedness: Int of spec/05 R122. -/
def iInt (signed : Bool) (w x : Nat) : Int := if signed then sInt w x else (x : Int)

/-- Least value of an integer type. -/
def intMin (signed : Bool) (w : Nat) : Int := if signed then -((2 ^ (w - 1) : Nat) : Int) else 0

/-- Greatest value of an integer type. -/
def intMax (signed : Bool) (w : Nat) : Int := if signed then ((2 ^ (w - 1) : Nat) : Int) - 1 else ((2 ^ w : Nat) : Int) - 1

/-- SatTo (spec/00 R12): the clamped pattern and whether it was clamped. -/
def satTo (signed : Bool) (w : Nat) (v : Int) : Nat × Bool :=
  if v < intMin signed w then (wrap w (intMin signed w), true)
  else if intMax signed w < v then (wrap w (intMax signed w), true)
  else (wrap w v, false)

/-- A list of bytes read little-endian. -/
def leNat : List Byte → Nat
  | [] => 0
  | b :: r => b.toNat + 256 * leNat r

/-- The `n` low bytes of a number, little-endian. -/
def natLe : Nat → Nat → List Byte
  | 0, _ => []
  | n + 1, v => BitVec.ofNat 8 v :: natLe n (v / 256)

/-- Ones in the `n` low bits of a number. -/
def popCount : Nat → Nat → Nat
  | 0, _ => 0
  | n + 1, x => x % 2 + popCount n (x / 2)

/-- Number of bits of a number: 0 for 0, else Floor(log2) + 1. -/
def bitLen (x : Nat) : Nat := if x = 0 then 0 else x.log2 + 1

/-- Index of the lowest set bit below `n`, starting at `i`. -/
def lowestSet : Nat → Nat → Nat → Option Nat
  | 0, _, _ => none
  | n + 1, i, x => if x % 2 = 1 then some i else lowestSet n (i + 1) (x / 2)

/-- The bits of a `w`-bit pattern in reverse. -/
def reverseBits : Nat → Nat → Nat
  | 0, _ => 0
  | n + 1, x => (x % 2) <<< n ||| reverseBits n (x / 2)

/-- Rounds down to a multiple. -/
def roundDown (x m : Nat) : Nat := x - x % m

/-- Rounds up to a multiple. -/
def roundUp (x m : Nat) : Nat := roundDown (x + m - 1) m

/-- The ceiling of a quotient. -/
def ceilDiv (x m : Nat) : Nat := (x + m - 1) / m

/-- Writes a word at each of some bit offsets: the value and the mask of a row write. -/
def gatherBits : List (Nat × Nat × Nat) → Nat × Nat
  | [] => (0, 0)
  | (off, w, v) :: r =>
    let t := gatherBits r
    (t.1 ||| (v % 2 ^ w) <<< off, t.2 ||| (2 ^ w - 1) <<< off)

end Sys2Proof.Machine

namespace Sys2Proof

/-- The type of a type code (spec/03 R77). -/
def Ty.ofCode : Nat → Option Ty
  | 0x00 => some .f64 | 0x01 => some .f32 | 0x02 => some .bf16 | 0x03 => some .f16
  | 0x04 => some .f8e4 | 0x05 => some .f8e5 | 0x06 => some .f6e3 | 0x07 => some .f4e2
  | 0x08 => some .i64 | 0x09 => some .i32 | 0x0A => some .i16 | 0x0B => some .i8 | 0x0C => some .i4
  | 0x0D => some .n64 | 0x0E => some .n32 | 0x0F => some .n16 | 0x10 => some .n8 | 0x11 => some .n4
  | 0x12 => some .b128 | 0x13 => some .b64 | 0x14 => some .ld4 | 0x15 => some .cb2 | 0x16 => some .e8m0 | 0x17 => some .f6e3p
  | _ => none

/-- Element width in registers (spec/00 R17; spec/02 R49). The weight encodings have no element of their own; 0. -/
def Ty.width : Ty → Nat
  | .f64 => 64 | .f32 => 32 | .bf16 => 16 | .f16 => 16 | .f8e4 => 8 | .f8e5 => 8 | .f6e3 => 8 | .f4e2 => 4
  | .i64 => 64 | .i32 => 32 | .i16 => 16 | .i8 => 8 | .i4 => 4
  | .n64 => 64 | .n32 => 32 | .n16 => 16 | .n8 => 8 | .n4 => 4
  | .b128 => 128 | .b64 => 64 | .ld4 => 4 | .cb2 => 16 | .e8m0 => 8 | .f6e3p => 8

/-- i64 to i4. -/
def Ty.isSigned : Ty → Bool
  | .i64 | .i32 | .i16 | .i8 | .i4 => true
  | _ => false

/-- n64 to n4. -/
def Ty.isUnsigned : Ty → Bool
  | .n64 | .n32 | .n16 | .n8 | .n4 => true
  | _ => false

/-- i64 to i4 and n64 to n4. -/
def Ty.isInt (t : Ty) : Bool := t.isSigned || t.isUnsigned

/-- The float types (spec/02 R44). -/
def Ty.isFloat : Ty → Bool
  | .f64 | .f32 | .bf16 | .f16 | .f8e4 | .f8e5 | .f6e3 | .f4e2 => true
  | _ => false

/-- f64, f32, bf16 and f16: the types of the float EXT layout (spec/03 R75). -/
def Ty.isArith : Ty → Bool
  | .f64 | .f32 | .bf16 | .f16 => true
  | _ => false

/-- The types MOV accepts: codes 0x00 to 0x13 and 0x16 (spec/05 R121). -/
def Ty.isMov : Ty → Bool
  | .ld4 | .cb2 | .f6e3p => false
  | _ => true

/-- The float type of FT (spec/03 R75). -/
def Ty.ofFt : Nat → Ty
  | 0 => .f64 | 1 => .f32 | 2 => .bf16 | _ => .f16

/-- The float type of a 3-bit code of FCVT and BSCALE (spec/06 R158). -/
def Ty.ofCode3 : Nat → Ty
  | 0 => .f64 | 1 => .f32 | 2 => .bf16 | 3 => .f16 | 4 => .f8e4 | 5 => .f8e5 | 6 => .f6e3 | _ => .f4e2

/-- Whether an operand is class 00. -/
def Operand.isVec : Operand → Bool | .vec _ _ => true | _ => false
/-- Whether an operand names an s register. -/
def Operand.isSreg : Operand → Bool | .sreg _ => true | _ => false
/-- Whether an operand is an immediate. -/
def Operand.isImm : Operand → Bool | .small _ => true | .lit _ _ => true | _ => false

end Sys2Proof
end

