-- ==== Sys2Proof/Machine/Forms.lean ====
section
/-!
DEFINITION. What each opcode admits: the operand fields a form uses and the classes each accepts, its slots and views, its latency, and the
limits its description places on operands (spec/04 R104 to R112; spec/05 to spec/08, the encoding paragraph of each form).
-/
namespace Sys2Proof.Machine

open Sys2Proof

/-- Where a word is decoded: a SIMT instruction, a word of the matrix stream, or a slot of a bundle (spec/03 R72). -/
inductive View where
  | simt
  | stream
  | slot (s : Slot)
deriving DecidableEq, Repr

def View.inSlot : View → Bool | .slot _ => true | _ => false

/-- How a form uses one operand field. -/
structure Use where
  used : Bool := true
  isDst : Bool := false
  vec : Bool := false
  sreg : Bool := false
  mask : Bool := false
  special : Bool := false
  small : Bool := false
  lit : Bool := false
  /-- A mask here is a reserved specifier, not a broken limit (spec/05 R121; spec/06 R151). -/
  maskReserved : Bool := false
  /-- A class-00 operand here is a word xK (spec/03 R78; spec/07 R189). -/
  word : Bool := false
  /-- Registers, or words for a word operand, that the operand names (spec/02 R65; spec/07 R186). -/
  span : Nat := 1
  /-- A pair literal may stand here (spec/03 R80). -/
  wide : Bool := true
  /-- A control-transfer target (spec/05 R133). -/
  target : Bool := false
  /-- In a vector slot, a class-00 source may name any cluster: XMOV alone (spec/03 R85). -/
  anyCluster : Bool := false
deriving DecidableEq, Repr

namespace Use

/-- A field the form does not use (spec/03 R73). -/
def none : Use := { used := false }
/-- A source: vector, s register, special operand or immediate (spec/06 R151). -/
def src (wide word : Bool) (span : Nat := 1) : Use :=
  { vec := true, sreg := true, special := true, small := true, lit := true, wide := wide, word := word, span := span }
/-- A destination: a vector register or an s register. -/
def dst (word : Bool) (span : Nat := 1) : Use := { isDst := true, vec := true, sreg := true, maskReserved := true, word := word, span := span }
/-- A vector destination only. -/
def dstV (word : Bool) (span : Nat := 1) : Use := { isDst := true, vec := true, maskReserved := true, word := word, span := span }
/-- An s-register destination only. -/
def dstS : Use := { isDst := true, sreg := true }
/-- An s-register destination where a mask is reserved (spec/06 R151, BALLOT). -/
def dstSR : Use := { isDst := true, sreg := true, maskReserved := true }
/-- A mask destination only. -/
def dstM : Use := { isDst := true, mask := true }
/-- A mask source only. -/
def srcM : Use := { mask := true }
/-- A vector source only. -/
def srcV (span : Nat := 1) : Use := { vec := true, span := span }
/-- A small immediate only. -/
def imm : Use := { small := true }
/-- A small immediate or a literal. -/
def immLit (wide : Bool := true) : Use := { small := true, lit := true, wide := wide }
/-- An s register only. -/
def srcS : Use := { sreg := true }
/-- An s register or an immediate. -/
def sImm (wide : Bool := true) : Use := { sreg := true, small := true, lit := true, wide := wide }
/-- A uniform operand: an s register, a special operand or an immediate. -/
def uni (wide : Bool := true) : Use := { sreg := true, special := true, small := true, lit := true, wide := wide }
/-- A uniform address operand (spec/07 R186, R189). -/
def uniAddr : Use := { sreg := true, special := true, small := true, lit := true, word := true }
/-- An address operand (spec/07 R186): a base of `span` words, or an offset. -/
def addr (span : Nat) : Use := { vec := true, sreg := true, special := true, small := true, lit := true, word := true, span := span }
/-- A target operand (spec/05 R133). -/
def tgt : Use := { small := true, lit := true, target := true }

end Use

/-- What an opcode with its EXT value admits. -/
structure Form where
  d : Use := .none
  a : Use := .none
  b : Use := .none
  c : Use := .none
  /-- Predicable (spec/03 R95). -/
  pred : Bool := true
  /-- Result latency; 0 for a form without a fixed-latency result (spec/04 R106). -/
  lat : Nat := 0
  /-- The slots that may hold the form. -/
  slots : List Slot := []
  /-- Whether SIMT admits it (spec/04 R106). The matrix-stream forms decode in SIMT and raise ROLE at issue (R107). -/
  simt : Bool := true
  /-- Whether the matrix stream admits it (spec/04 R112). -/
  stream : Bool := false
  /-- Whether the form has a WS bit that is set. -/
  ws : Bool := false
  /-- Broken limits of the description, beyond the operand classes (code 9 or INFO bit 10). -/
  limit : View → IWord → Bool := fun _ _ => false
  /-- A byte select out of range (code 8 or INFO bit 8). -/
  bsel : IWord → Bool := fun _ => false
  /-- The instruction the word stands for. -/
  ctor : IWord → Instr

/-- A reserved opcode, a reserved EXT value, or a form. -/
inductive FormRes where
  | badOp
  | badExt
  | form (f : Form)

/-! Immediate values as numbers. -/

/-- The signed value of a small immediate. -/
def smallInt (n : BitVec 7) : Int := n.toInt

/-- The raw value of a literal reference: a 32-bit word, or two words with the low one first (spec/03 R80). -/
def litRaw (w : IWord) (pair : Bool) (j : Nat) : Nat :=
  let lo := (w.lits.getD j 0#32).toNat
  if pair then lo + 2 ^ 32 * (w.lits.getD (j + 1) 0#32).toNat else lo

/-- An immediate operand as an integer: a small immediate signed, a 32-bit literal or a pair unsigned. -/
def immInt (w : IWord) : Operand → Option Int
  | .small n => some (smallInt n)
  | .lit p j => some (litRaw w p j)
  | _ => none

/-- An immediate operand outside `lo .. hi`. -/
def immOut (w : IWord) (o : Operand) (lo hi : Int) : Bool :=
  match immInt w o with
  | some v => v < lo || hi < v
  | none => false

/-- Whether any source of an operand list is class 00. -/
def perLane (w : IWord) : Bool := Operand.isVec w.a || Operand.isVec w.b || Operand.isVec w.c || Operand.isVec w.d

/-! Slot lists. -/
def slotsS : List Slot := [.s0, .s1]
def slotsV : List Slot := [.v0, .v1, .v2, .v3]
def slotsSV : List Slot := slotsS ++ slotsV

/-- The widths a WS bit allows: 32 bits or less (spec/03 R78). -/
def wsOk (ws : Bool) (t : Ty) : Bool := !ws || t.width ≤ 32

/-- A pair literal may stand with this type (spec/03 R80). -/
def tyWide (t : Ty) : Bool := 64 ≤ t.width

/-- Integer and bit forms 0x00 to 0x1B (spec/05 R121; latencies spec/04 R106). -/
def intForm (op : Nat) (ext : Nat) : FormRes :=
  match (if 0x1B < op then none else some (Ty.ofCode (ext % 32))) with
  | none => .badOp
  | some none => .badExt
  | some (some t) =>
    let ws := bit ext 5
    let types : Bool :=
      if op = 0x09 then t.isSigned
      else if 0x0B ≤ op ∧ op ≤ 0x0E then t.isInt || t == .b64 || t == .b128
      else if op = 0x16 ∨ op = 0x17 ∨ op = 0x18 then t == .i32 || t == .i64 || t == .n32 || t == .n64
      else if op = 0x19 then t.isMov
      else t.isInt
    if !types || !wsOk ws t then .badExt
    else
      let s : Use := .src (tyWide t) ws
      let one : Bool := op = 0x09 || op = 0x13 || op = 0x14 || op = 0x15 || op = 0x19
      let three : Bool := op = 0x04 || op = 0x17
      let lat := if op = 0x02 ∨ op = 0x03 ∨ op = 0x04 then (if t.width = 64 then 5 else 3)
        else if op = 0x05 ∨ op = 0x06 then (if t.width = 64 then 34 else 18) else 1
      let mk : Option (IWord → Instr) := match op with
        | 0x00 => some .iadd | 0x01 => some .isub | 0x02 => some .imul | 0x03 => some .imulh | 0x04 => some .imad | 0x05 => some .idiv
        | 0x06 => some .irem | 0x07 => some .imin | 0x08 => some .imax | 0x09 => some .iabs | 0x0A => some .isat | 0x0B => some .and
        | 0x0C => some .or | 0x0D => some .xor | 0x0E => some .andn | 0x0F => some .shl | 0x10 => some .shr | 0x11 => some .sar
        | 0x12 => some .rotl | 0x13 => some .clz | 0x14 => some .popc | 0x15 => some .brev | 0x16 => some .bfx | 0x17 => some .bfi
        | 0x18 => some .lea | 0x19 => some .mov | 0x1A => some .movl | 0x1B => some .rshr | _ => none
      match mk with
      | none => .badOp
      | some mk => .form {
          d := .dst ws, a := { s with mask := op == 0x19 }, b := if one then .none else s,
          c := if three then s else if op = 0x18 then .imm else .none,
          lat := lat, slots := slotsSV, stream := true, ws := ws,
          limit := fun _ w =>
            (t == .b128 && w.d.isSreg) || (op == 0x18 && immOut w w.c 0 7)
              || (op == 0x19 && t == .b128 && (match w.a with | .mask _ => true | _ => false)),
          ctor := mk }

/-- Compares, masks and selects 0x20 to 0x27 (spec/05 R126 to R132). A mask as D of SEL is a reserved specifier (DESIGN CHOICE, log entry 66; R129). -/
def maskForm (op ext : Nat) : FormRes :=
  let ws := bit ext 5
  match op with
  | 0x20 =>
    match Ty.ofCode (ext % 32) with
    | none => .badExt
    | some t =>
      if !(t.isInt || t == .b64 || t == .b128) || !wsOk ws t then .badExt
      else .form { d := .dstM, a := .src (tyWide t) ws, b := .src (tyWide t) ws, c := .imm, lat := 1, slots := slotsV, ws := ws,
                   limit := fun _ w => immOut w w.c 0 7 || ((t == .b64 || t == .b128) && !immOut w w.c 2 5), ctor := .icmp }
  | 0x21 =>
    let t := Ty.ofFt (ext % 4)
    if bits ext 2 3 != 0 || !wsOk ws t then .badExt
    else .form { d := .dstM, a := .src (tyWide t) ws, b := .src (tyWide t) ws, c := .imm, lat := 1, slots := slotsV, ws := ws,
                 limit := fun _ w => immOut w w.c 0 7, ctor := .fcmp }
  | 0x22 =>
    let t := Ty.ofFt (ext % 4)
    if bits ext 2 3 != 0 || !wsOk ws t then .badExt
    else .form { d := .dstM, a := .src (tyWide t) ws, b := .immLit (tyWide t), lat := 1, slots := slotsV, ws := ws,
                 limit := fun _ w => immOut w w.b 0 1023, ctor := .fclass }
  | 0x23 =>
    match Ty.ofCode (ext % 32) with
    | none => .badExt
    | some t =>
      if !t.isMov || !wsOk ws t then .badExt
      else .form { d := .dst ws, a := .src (tyWide t) ws, b := .src (tyWide t) ws, c := .srcM, lat := 1, slots := slotsSV, ws := ws,
                   limit := fun _ w => t == .b128 && w.d.isSreg, ctor := .sel }
  | 0x24 =>
    if ext != 0 then .badExt
    else .form { d := .dstM, a := .srcM, b := .srcM, c := .imm, pred := false, lat := 1, slots := [.p], limit := fun _ w => immOut w w.c 0 15, ctor := .plog }
  | 0x25 =>
    match ext with
    | 0 => .form { d := .dstM, a := .srcM, lat := 1, slots := slotsV, ctor := .pmovMm }
    | 1 => .form { d := { isDst := true, vec := true }, a := .srcM, lat := 1, slots := slotsV, ctor := .pmovMv }
    | 2 => .form { d := .dstM, a := .srcV, lat := 1, slots := slotsV, ctor := .pmovVm }
    | _ => .badExt
  | 0x26 => if 1 < ext then .badExt else .form { d := .dstS, a := .srcM, lat := 2, slots := slotsS, ctor := .pcnt }
  | 0x27 => if 1 < ext then .badExt else .form { d := .dstS, a := .srcM, lat := 2, slots := slotsS, ctor := .pfirst }
  | _ => .badOp

/-- Float arithmetic 0x30 to 0x3B (spec/06 R154, R157). -/
def floatForm (op ext : Nat) : FormRes :=
  let ws := bit ext 5
  let rnd := bits ext 2 3
  let t := Ty.ofFt (ext % 4)
  let arith (rounds : Bool) (lat : Nat) (b c : Bool) (mk : IWord → Instr) : FormRes :=
    if !wsOk ws t || 5 < rnd || (!rounds && rnd != 0) then .badExt
    else
      let s : Use := .src (tyWide t) ws
      .form { d := .dst ws, a := s, b := if b then s else .none, c := if c then s else .none, lat := lat, slots := slotsSV, ws := ws, ctor := mk }
  let l4 := if t == .f64 then 6 else 4
  match op with
  | 0x30 => arith true l4 true false .fadd
  | 0x31 => arith true l4 true false .fsub
  | 0x32 => arith true l4 true false .fmul
  | 0x33 => arith true l4 true true .ffma
  | 0x34 => arith false 2 true false .fmin
  | 0x35 => arith false 2 true false .fmax
  | 0x36 => arith false 2 false false .fneg
  | 0x37 => arith false 2 false false .fabs
  | 0x38 => arith true l4 false false .frnd
  | 0x39 => arith true l4 true false .fscale
  | 0x3A =>
    if 5 < rnd || 1 < ext % 4 then .badExt
    else .form { d := .dst ws, a := .src false ws, b := .src false ws, c := .src false ws, lat := 5, slots := slotsV, ws := ws, ctor := .fdot2 }
  | 0x3B =>
    if 5 < rnd || 2 < ext % 4 then .badExt
    else .form { d := .dst ws, a := .src false ws, b := .src false ws, c := .src false ws, lat := 5, slots := slotsV, ws := ws, ctor := .fdot4 }
  | _ => .badOp

/-- The ratio of two element widths as a register count for the destination and for the source; none outside 1/4 to 4 (spec/06 R159). -/
def ratioSpans (wd ws : Nat) : Option (Nat × Nat) :=
  if wd = ws then some (1, 1)
  else if wd = 2 * ws then some (2, 1)
  else if wd = 4 * ws then some (4, 1)
  else if ws = 2 * wd then some (1, 2)
  else if ws = 4 * wd then some (1, 4)
  else none

/-- The types of ICVT (spec/06 R161). -/
def icvtTy (t : Ty) : Bool := t.isInt || t.isArith

/-- The PACK pairs: destination type and SU to source type (spec/06 R162). -/
def packSrc (ext : Nat) : Option (Ty × Ty) :=
  let su := bit ext 5
  match Ty.ofCode (ext % 32) with
  | some .i16 => some (.i16, if su then .n32 else .i32)
  | some .n16 => some (.n16, if su then .n32 else .i32)
  | some .i8 => some (.i8, if su then .n16 else .i16)
  | some .n8 => some (.n8, if su then .n16 else .i16)
  | some .i4 => some (.i4, if su then .n8 else .i8)
  | some .n4 => some (.n4, if su then .n8 else .i8)
  | some .f6e3p => if su then none else some (.f6e3p, .f6e3)
  | _ => none

/-- Conversions 0x40 to 0x44 (spec/06 R158 to R165). That PACK takes class-00 operands and immediates alone is applied to its integer pairs as to f6e3p
(DEDUCED, log entry 69; spec/06 R162). -/
def convForm (op ext : Nat) (b : Operand) : FormRes :=
  let dT := Ty.ofCode3 (bits ext 3 3)
  let sT := Ty.ofCode3 (ext % 8)
  match op with
  | 0x40 =>
    match ratioSpans dT.width sT.width with
    | none => .badExt
    | some (nd, ns) =>
      if dT == sT then .badExt
      else .form { d := .dst false nd, a := .src (tyWide sT) false ns, c := .imm, lat := 3, slots := slotsSV,
                   limit := fun _ w => immOut w w.c 0 5 || (w.d.isSreg && w.a.isVec), ctor := .fcvt }
  | 0x41 =>
    match Ty.ofCode (ext % 32) with
    | none => .badExt
    | some dT =>
      if bit ext 5 || !icvtTy dT then .badExt
      else
        let sT : Option Ty := match b with
          | .small n => if 0 ≤ smallInt n then Ty.ofCode (smallInt n).toNat else none
          | _ => none
        match sT with
        | none => .form { d := .dst false, a := .src true false, b := .imm, c := .imm, lat := 3, slots := slotsSV, limit := fun _ _ => true, ctor := .icvt }
        | some sT =>
          let ok := icvtTy sT && (dT.isInt || sT.isInt) && dT != sT && (ratioSpans dT.width sT.width).isSome
          let (nd, ns) := (ratioSpans dT.width sT.width).getD (1, 1)
          .form { d := .dst false nd, a := .src (tyWide sT) false ns, b := .imm, c := .imm, lat := 3, slots := slotsSV,
                  limit := fun _ w => !ok || immOut w w.c 0 5 || (dT.isInt && sT.isInt && immOut w w.c 0 0) || (w.d.isSreg && w.a.isVec),
                  ctor := .icvt }
  | 0x42 =>
    match packSrc ext with
    | none => .badExt
    | some (dT, _) =>
      let s : Use := { vec := true, small := true, lit := true, wide := false }
      .form { d := { isDst := true, vec := true, maskReserved := true }, a := s, b := if dT == .f6e3p then .none else s, lat := 3, slots := slotsV, ctor := .pack }
  | 0x43 =>
    if bit ext 5 then .badExt
    else match Ty.ofCode (ext % 32) with
      | some .i16 | some .n16 | some .i8 | some .n8 | some .i4 | some .n4 =>
        .form { d := .dstV false 2, a := .src false false, lat := 3, slots := slotsV, ctor := .unpk }
      | some .f6e3p => .form { d := .dstV false 1, a := .src false false, lat := 3, slots := slotsV, ctor := .unpk }
      | _ => .badExt
  | 0x44 =>
    match ratioSpans dT.width sT.width with
    | none => .badExt
    | some (nd, ns) =>
      .form { d := .dst false nd, a := .src (tyWide sT) false ns, b := .srcV, c := .imm, lat := 3, slots := slotsV,
              bsel := fun w => immOut w w.c 0 (if sT.width = 4 then 14 else 15), ctor := .bscale }
  | _ => .badOp

/-- The types of REDX and SCANX (spec/06 R173). -/
def redTy (t : Ty) : Bool := t.isInt || t.isArith || t == .b64 || t == .b128

/-- The operations a reduction type takes (spec/06 R173). -/
def redOpOk (t : Ty) (k : Nat) : Bool :=
  if t.isArith then k ≤ 2 else if t == .b64 || t == .b128 then 3 ≤ k && k ≤ 5 else k ≤ 5

/-- Lane forms 0x50 to 0x59 (spec/06 R166 to R176). -/
def laneForm (v : View) (op ext : Nat) : FormRes :=
  let ws := bit ext 5
  let redLat := if v.inSlot then 6 else 8
  let typed (k : Ty → FormRes) : FormRes := match Ty.ofCode (ext % 32) with
    | none => .badExt
    | some t => if !wsOk ws t then .badExt else k t
  match op with
  | 0x50 =>
    if ext != 0 then .badExt
    else .form { d := .dstV false, a := .src true false, b := .src true false, c := { vec := true, sreg := true }, lat := 2, slots := slotsV, ctor := .perm }
  | 0x51 =>
    if bits ext 2 3 != 0 then .badExt
    else .form { d := .dstV ws, a := .src (!ws) ws, b := .src (!ws) ws, lat := 3, slots := slotsV, ws := ws, ctor := .shuf }
  | 0x52 => typed fun t =>
    if !t.isMov || ws then .badExt
    else .form { d := .dstV false, a := .srcV, b := .src (tyWide t) false, lat := 3, slots := slotsV, ctor := .bcast }
  | 0x53 => if ext != 0 then .badExt else .form { d := .dstSR, a := .srcM, lat := 3, ctor := .ballot }
  | 0x54 => if 2 < ext then .badExt else .form { d := .dstM, a := .srcM, lat := 3, ctor := .vote }
  | 0x55 => typed fun t =>
    if !redTy t then .badExt
    else .form { d := .dstV ws, a := .src (tyWide t) ws, c := .imm, lat := redLat, slots := slotsV, ws := ws,
                 limit := fun _ w => match w.c with | .small n => !(decide (0 ≤ smallInt n) && redOpOk t (smallInt n).toNat) | _ => false, ctor := .redx }
  | 0x56 | 0x57 => typed fun t =>
    if !(t == .f32 || t == .i32 || t == .n32) then .badExt
    else .form { d := .dstV ws 2, a := .src false ws, b := .src false ws, lat := redLat, slots := slotsV, ws := ws, ctor := if op = 0x56 then .maxi else .mini }
  | 0x58 => typed fun t =>
    if !redTy t then .badExt
    else .form { d := .dstV ws, a := .src (tyWide t) ws, c := .imm, lat := redLat, slots := slotsV, ws := ws,
                 limit := fun _ w => match w.c with
                   | .small n => !(decide (0 ≤ smallInt n) && decide (smallInt n < 16) && redOpOk t (smallInt n % 8).toNat)
                   | _ => false,
                 ctor := .scanx }
  | 0x59 => typed fun t =>
    if !t.isMov then .badExt
    else .form { d := .dstV ws, a := { Use.srcV with anyCluster := true, word := ws }, lat := 3, slots := slotsV, simt := false, ws := ws, ctor := .xmov }
  | _ => .badOp

/-- Special functions, ACT, SFTLOAD and RNDW, 0x60 to 0x69 (spec/06 R177 to R184). RNDW's key may also be a special operand (DEDUCED, log entry 69). -/
def specialForm (op ext : Nat) : FormRes :=
  let ws := bit ext 5
  let fn (lat : Nat) (mk : IWord → Instr) : FormRes :=
    if ext % 4 != 1 || 5 < bits ext 2 3 then .badExt
    else .form { d := .dst ws, a := .src false ws, lat := lat, slots := [.f], ws := ws, ctor := mk }
  match op with
  | 0x60 => fn 8 .exp2
  | 0x61 => fn 8 .log2
  | 0x62 => fn 8 .rcp
  | 0x63 => fn 8 .rsq
  | 0x64 => fn 8 .sqrt
  | 0x65 => fn 12 .sinp
  | 0x66 => fn 12 .cosp
  | 0x67 => fn 6 .act
  | 0x68 =>
    if ext != 0 then .badExt
    else .form { a := .srcS, b := .sImm, c := .imm, pred := false, slots := [.m1], limit := fun _ w => immOut w w.c 0 1, ctor := .sftload }
  | 0x69 =>
    if ext % 32 != 0 then .badExt
    else .form { d := .dstV ws, a := .srcV, b := .uni, lat := 6, slots := [.f], ws := ws, ctor := .rndw }
  | _ => .badOp

/-- The register operand of a SIZE code (spec/07 R188). -/
def sizeUse (size : Nat) (isDst : Bool) : Use :=
  if size = 6 then { vec := true, isDst := isDst } else { vec := true, sreg := true, isDst := isDst, word := true, span := if size = 5 then 2 else 1 }

/-- The data of a store (notes/assumptions/8.md): the register operand of its SIZE, or a source that needs none, a special operand or an immediate. -/
def dataUse (size : Nat) : Use := { sizeUse size false with special := true, small := true, lit := true, wide := decide (5 ≤ size) }

/-- In a slot, a class-00 data or destination operand requires SIZE 6 (spec/07 R188). -/
def sizeSlotBad (v : View) (size : Nat) (o : Operand) : Bool := v.inSlot && o.isVec && size != 6

/-- Whether the address of a memory form is per lane. -/
def addrLanes (w : IWord) : Bool := w.a.isVec || w.b.isVec

/-- Memory forms, 0x70 to 0x85 (spec/07 R188 to R198). STB's data is class 00 alone (DESIGN CHOICE, log entry 66; R197). -/
def memForm (op ext : Nat) : FormRes :=
  let size := bits ext 3 3
  let q := ext % 8
  match op with
  | 0x70 =>
    if size = 7 ∨ 2 < q then .badExt
    else .form { d := sizeUse size true, a := .addr 1, b := .addr 1, lat := if q = 0 then 6 else 0, slots := [.m0],
                 limit := fun v w => sizeSlotBad v size w.d || (w.d.isSreg && addrLanes w), ctor := .lds }
  | 0x71 =>
    if size = 7 ∨ size = 1 ∨ size = 3 ∨ 1 < q then .badExt
    else .form { a := .addr 1, b := .addr 1, c := dataUse size, slots := [.m0], limit := fun v w => sizeSlotBad v size w.c, ctor := .sts }
  | 0x72 =>
    if bits ext 4 2 = 3 ∨ bit ext 3 ∨ 2 < q then .badExt
    else .form { d := { isDst := true, vec := true, span := 2 ^ bits ext 4 2 }, a := .uniAddr, b := .uniAddr, lat := if q = 0 then 6 else 0, slots := [.m0], ctor := .ldsx }
  | 0x73 =>
    if bits ext 4 2 = 3 ∨ bit ext 3 ∨ 1 < q then .badExt
    else .form { a := .uniAddr, b := .uniAddr, c := .srcV (2 ^ bits ext 4 2), slots := [.m0], ctor := .stsx }
  | 0x74 => if ext != 0 then .badExt else .form { a := .uniAddr, b := .uniAddr, c := .uni, slots := [.m0], ctor := .feset }
  | 0x75 => if ext != 0 then .badExt else .form { a := .uniAddr, b := .uniAddr, c := .uni, slots := [.m0], ctor := .feclr }
  | 0x80 =>
    if size = 7 ∨ q = 7 then .badExt
    else .form { d := sizeUse size true, a := .addr 2, b := .addr 1, slots := [.m1],
                 limit := fun v w => sizeSlotBad v size w.d || (w.d.isSreg && addrLanes w), ctor := .ld }
  | 0x81 =>
    if size = 7 ∨ size = 1 ∨ size = 3 ∨ q = 7 then .badExt
    else .form { a := .addr 2, b := .addr 1, c := dataUse size, slots := [.m1], limit := fun v w => sizeSlotBad v size w.c, ctor := .st }
  | 0x82 =>
    if bits ext 3 2 != 0 ∨ q = 7 then .badExt
    else .form { d := { isDst := true, vec := true, word := bit ext 5 }, a := .sImm, b := { vec := true, sreg := true }, slots := [.m1], ws := bit ext 5,
                 limit := fun _ w => match w.a with | .small n => immOut w (.small n) 0 63 | o => immOut w o 0 255, ctor := .ldb }
  | 0x83 =>
    if bits ext 3 2 != 0 ∨ q = 7 then .badExt
    else .form { a := .sImm, b := { vec := true, sreg := true }, c := { vec := true, word := bit ext 5 }, slots := [.m1], ws := bit ext 5,
                 limit := fun _ w => match w.a with | .small n => immOut w (.small n) 0 63 | o => immOut w o 0 255, ctor := .stb }
  | 0x84 => if 1 < ext then .badExt else .form { a := .addr 2, b := .addr 1, slots := [.m1], ctor := .pref }
  | 0x85 =>
    match ext with
    | 0 => .form { a := .addr 2, b := .addr 1, slots := [.m1], ctor := .cinvLine }
    | 1 => .form { slots := [.m1], ctor := .cinvTiles }
    | 2 => .form { slots := [.m1], ctor := .cinvAll }
    | _ => .badExt
  | _ => .badOp

/-- In a slot the SPACE bit names the slot's space (spec/04 R108). -/
def spaceBad (v : View) (isGlobal : Bool) : Bool :=
  match v with
  | .slot .m0 => isGlobal
  | .slot .m1 => !isGlobal
  | _ => false

/-- Atomics and FENCE, 0x90 to 0x93 (spec/07 R199 to R202). -/
def atomForm (op ext : Nat) : FormRes :=
  let g := bit ext 5
  let w64 := bit ext 4
  let base := if g then 2 else 1
  let span := if w64 then 2 else 1
  match op with
  | 0x90 =>
    if 11 < ext % 16 then .badExt
    else .form { d := { isDst := true, vec := true, sreg := true, word := true, span := span }, a := .addr base, b := .addr 1,
                 c := { vec := true, sreg := true, small := true, lit := true, word := true, span := span, wide := w64 }, slots := [.m0, .m1],
                 limit := fun v w => spaceBad v g || (w.d.isSreg && w.d != .sreg 0 && (addrLanes w || w.c.isVec)), ctor := .atom }
  | 0x91 =>
    if ext % 16 != 0 then .badExt
    else .form { d := { isDst := true, vec := true, sreg := true, word := true, span := span }, a := .addr base, b := .addr 1,
                 c := { vec := true, sreg := true, word := true, span := 2 * span }, slots := [.m0, .m1],
                 limit := fun v w => spaceBad v g || (w.d.isSreg && w.d != .sreg 0 && (addrLanes w || w.c.isVec)) || w.c == .sreg 63, ctor := .cas }
  | 0x92 =>
    if ext != 0 then .badExt
    else .form { d := .dstS, a := .uniAddr, b := .uniAddr, c := .sImm, slots := [.m1], limit := fun _ w => immOut w w.c 0 5, ctor := .ula }
  | 0x93 =>
    if bits ext 4 2 = 3 ∨ 5 < bits ext 1 3 ∨ bit ext 0 then .badExt
    else .form { pred := false, slots := [.m1], ctor := .fence }
  | _ => .badOp

/-- The barriers of a level (spec/07 R204). -/
def barMax (lvl : Nat) : Int := if lvl = 0 then 15 else if lvl = 1 then 7 else 3

/-- Barriers and rings, 0xA0 to 0xA5 (spec/07 R204 to R209). -/
def barForm (op ext : Nat) : FormRes :=
  match op with
  | 0xA0 =>
    let f := bits ext 4 2
    let lvl := bits ext 2 2
    if f = 3 ∨ lvl = 3 ∨ ext % 4 != 0 then .badExt
    else .form { a := .imm, b := if f = 1 then { sreg := true, small := true } else .none, pred := false, slots := [.s1],
                 limit := fun _ w => immOut w w.a 0 (barMax lvl) || (f == 1 && immOut w w.b 0 1),
                 ctor := if f = 0 then .barArrive else if f = 1 then .barWait else .barSync }
  | 0xA1 =>
    let lvl := bits ext 2 2
    if lvl = 3 ∨ ext % 4 != 0 ∨ bits ext 4 2 != 0 then .badExt
    else .form { d := .dstS, a := .imm, lat := 2, slots := [.s1], limit := fun _ w => immOut w w.a 0 (barMax lvl), ctor := .barq }
  | 0xA2 => if 1 < ext then .badExt
    else .form { a := .imm, pred := false, slots := [.s1], limit := fun _ w => immOut w w.a 0 3, ctor := if ext = 0 then .racqP else .racqC }
  | 0xA3 => if ext != 0 then .badExt else .form { a := .imm, pred := false, slots := [.s1], limit := fun _ w => immOut w w.a 0 3, ctor := .rcommit }
  | 0xA4 => if ext != 0 then .badExt else .form { a := .imm, pred := false, slots := [.s1], limit := fun _ w => immOut w w.a 0 3, ctor := .rrel }
  | 0xA5 => if ext != 0 then .badExt else .form { pred := false, ctor := .warpsync }
  | _ => .badOp

/-- Copy-engine forms, 0xB0 to 0xB4 (spec/07 R210 to R216). -/
def copyForm (op ext : Nat) : FormRes :=
  match op with
  | 0xB0 => if ext != 0 then .badExt
    else .form { a := .uni, b := { sreg := true, small := true }, slots := [.m1], limit := fun _ w => immOut w w.b 0 0, ctor := .cpy }
  | 0xB1 => if ext != 0 then .badExt else .form { d := .dstS, lat := 2, slots := [.m1], ctor := .cseal }
  | 0xB2 => if ext != 0 then .badExt
    else .form { a := { sreg := true, small := true }, slots := [.m1], limit := fun _ w => immOut w w.a 0 8, ctor := .cwait }
  | 0xB3 => if ext != 0 then .badExt else .form { a := .uni, b := .uni, slots := [.m1], ctor := .ctable }
  | 0xB4 => if 3 < ext then .badExt else .form { d := .dstS, lat := 2, slots := [.m1], ctor := .cquery }
  | _ => .badOp

/-- The whole slots a B-slot type fills, or none for a type that fills half a slot (spec/08 R221). -/
def slotSpan : Ty → Option Nat
  | .f64 => some 8 | .f32 => some 4 | .bf16 => some 2 | .f16 => some 2
  | .f8e4 => some 1 | .f8e5 => some 1 | .i8 => some 1 | .f6e3 => some 1
  | _ => none

/-- The types of MLOAD (spec/08 R221). -/
def mloadTy : Ty → Bool
  | .f64 | .f32 | .bf16 | .f16 | .f8e4 | .f8e5 | .i8 | .f6e3 | .f4e2 | .i4 | .cb2 => true
  | _ => false

/-- An immediate slot selector that breaks a limit (spec/08 R219). -/
def slotSelBad (w : IWord) (o : Operand) (t : Ty) : Bool :=
  match immInt w o with
  | none => false
  | some v => v < 0 || 128 ≤ v ||
    match slotSpan t with
    | some n => decide (64 ≤ v) || decide ((v.toNat % 64) % n ≠ 0)
    | none => false

/-- An immediate panel selector: an even slot, no half (spec/08 R222, R228). -/
def panelSelBad (w : IWord) (o : Operand) : Bool :=
  match immInt w o with
  | none => false
  | some v => v < 0 || 64 ≤ v || decide (v.toNat % 2 ≠ 0)

/-- An immediate tile selector that breaks a limit (spec/08 R219). -/
def tileSelBad (w : IWord) (o : Operand) (pair : Bool) : Bool :=
  match immInt w o with
  | none => false
  | some v => v < 0 || 8 ≤ v || (pair && decide (v.toNat % 2 ≠ 0))

/-- The types of an MMA combination (spec/08 R225). -/
def mmaTypes : Nat → Option (Ty × Ty)
  | 0x00 => some (.f64, .f64) | 0x01 => some (.f32, .f32) | 0x02 => some (.bf16, .bf16) | 0x03 => some (.f16, .f16)
  | 0x04 => some (.f8e4, .f8e4) | 0x05 => some (.f8e4, .f8e5) | 0x06 => some (.f8e5, .f8e4) | 0x07 => some (.f8e5, .f8e5)
  | 0x08 => some (.f6e3, .f6e3) | 0x09 => some (.f4e2, .f4e2) | 0x0A => some (.bf16, .cb2) | 0x0B => some (.f8e4, .cb2) | 0x0C => some (.f4e2, .cb2)
  | 0x10 => some (.i8, .i8) | 0x11 => some (.n8, .i8) | 0x12 => some (.i8, .i4) | 0x13 => some (.i4, .i4)
  | _ => none

/-- The type of a drain format (spec/08 R229). -/
def drainTy : Nat → Option Ty
  | 0 => some .f64 | 1 => some .f32 | 2 => some .bf16 | 3 => some .f16 | 4 => some .f8e4 | 5 => some .f8e5
  | 6 => some .i32 | 7 => some .i16 | 8 => some .i8 | 9 => some .n8 | _ => none

/-- Whether a drain format pairs with a tile kind: 0 FP32, 1 INT32, 2 FP64 (spec/08 R229). -/
def drainKindOk (df : Nat) (add : Bool) (kind : Nat) : Bool :=
  match df with
  | 0 => kind == 2
  | 1 => kind == 0 || kind == 2
  | 2 | 3 => kind == 0
  | 4 | 5 => !add && kind == 0
  | 6 => kind == 1
  | 7 | 8 | 9 => !add && kind == 1
  | _ => false

/-- An operand of the matrix forms: an s register or an immediate (spec/08 R219). -/
def Use.mat : Use := .sImm

/-- Matrix-stream forms, 0xC0 to 0xC9, and the transposes 0xCA and 0xCB (spec/08 R221 to R236). -/
def matForm (op ext : Nat) : FormRes :=
  let form (a b c : Use) (limit : IWord → Bool) (mk : IWord → Instr) : FormRes :=
    .form { a := a, b := b, c := c, pred := false, stream := true, limit := fun _ w => limit w, ctor := mk }
  match op with
  | 0xC0 =>
    match Ty.ofCode (ext % 32) with
    | some t => if !mloadTy t then .badExt else form .mat .mat .mat (fun w => slotSelBad w w.b t) .mload
    | none => .badExt
  | 0xC1 =>
    match Ty.ofCode (ext % 32) with
    | some t => if !(t == .ld4 || t == .i4 || t == .i8 || t == .cb2) then .badExt else form .mat .mat .none (fun w => panelSelBad w w.b) .mperm
    | none => .badExt
  | 0xC2 => if 1 < ext then .badExt else form .none .none .mat (fun w => tileSelBad w w.c (ext == 1)) .mzero
  | 0xC3 =>
    match mmaTypes ext with
    | some (_, tb) => form .mat .mat .mat (fun w => slotSelBad w w.b tb || tileSelBad w w.c (tb == .f64)) .mma
    | none => .badExt
  | 0xC4 => if ext != 0x0B && ext != 0x02 then .badExt else form .mat .mat .mat (fun w => panelSelBad w w.b || tileSelBad w w.c false) .mladr
  | 0xC5 => if 1 < ext then .badExt else form (if ext = 1 then .none else .mat) .none .none (fun _ => false) (if ext = 1 then .mscaleClr else .mscale)
  | 0xC6 =>
    if (drainTy (ext % 16)).isNone then .badExt
    else form .mat .mat .mat (fun w => match immInt w w.c with
      | none => false
      | some v => v < 0 || 32 ≤ v || !drainKindOk (ext % 16) (bit ext 4) (v.toNat / 8) || (decide (v.toNat / 8 = 2) && decide (v.toNat % 2 ≠ 0))) .mdrain
  | 0xC7 => if ext != 0 then .badExt else form .none .none .none (fun _ => false) .mwait
  | 0xC8 =>
    if 6 < ext then .badExt
    else form .imm (if ext = 1 then { sreg := true, small := true } else .none) .none
      (fun w => immOut w w.a 0 (if ext < 3 then 15 else 3) || (ext == 1 && immOut w w.b 0 1))
      (match ext with
        | 0 => .mbarArrive | 1 => .mbarWait | 2 => .mbarSync | 3 => .mbarRacqP | 4 => .mbarRacqC | 5 => .mbarRcommit | _ => .mbarRrel)
  | 0xC9 => if ext != 0 then .badExt else form .none .none .none (fun _ => false) .mend
  | 0xCA =>
    if bit ext 5 then .badExt
    else match Ty.ofCode (ext % 32) with
      | some t => if !(t.isMov && (t.width = 4 || t.width = 8 || t.width = 16)) then .badExt
        else .form { d := .dstV false, a := .srcV, lat := 4, slots := [.t], simt := false, ctor := .trn }
      | none => .badExt
  | 0xCB =>
    if bit ext 5 then .badExt
    else match Ty.ofCode (ext % 32) with
      | some .f32 | some .i32 | some .n32 => .form { d := .dstV false 2, a := .srcV 2, lat := 4, slots := [.t], simt := false, ctor := .trnw }
      | some .f64 | some .i64 | some .n64 | some .b64 => .form { d := .dstV false 4, a := .srcV 4, lat := 4, slots := [.t], simt := false, ctor := .trnw }
      | _ => .badExt
  | _ => .badOp

/-- Control forms, 0xD0 to 0xDA (spec/05 R134, R142, R143, R147, R149). -/
def ctlForm (v : View) (op ext : Nat) : FormRes :=
  let rc := ext == 1
  match op with
  | 0xD0 => if 1 < ext ∨ (rc ∧ v ≠ .simt) then .badExt
    else .form { a := .tgt, b := if rc then .tgt else .none, pred := v != .stream, slots := [.s0], stream := true, ctor := .bra }
  | 0xD1 => if 1 < ext ∨ (rc ∧ v ≠ .simt) then .badExt
    else .form { a := .srcS, b := if rc then .tgt else .none, slots := [.s0], ctor := .brx }
  | 0xD2 => if ext != 0 then .badExt
    else .form { d := .dstS, a := { Use.tgt with sreg := true }, pred := false, lat := 1, slots := [.s0], ctor := .call }
  | 0xD3 => if ext != 0 then .badExt else .form { a := .srcS, pred := false, slots := [.s0], ctor := .ret }
  | 0xD4 => if 1 < ext ∨ (rc ∧ v ≠ .simt) then .badExt else .form { a := if rc then .tgt else .none, pred := false, ctor := .join }
  | 0xD5 => if ext != 0 then .badExt else .form { slots := [.s0], ctor := .exit }
  | 0xD6 =>
    match ext % 4 with
    | 0 => if ext != 0 then .badExt else .form { d := .dstS, a := .tgt, pred := false, slots := [.s0], stream := true, ctor := .loopDec }
    | 1 => if !v.inSlot ∨ 7 < bits ext 2 4 then .badExt else .form { a := .uni, b := .tgt, pred := false, slots := [.s0], ctor := .loopPush }
    | _ => .badExt
  | 0xD7 =>
    match ext with
    | 0 => if !v.inSlot then .badExt else .form { slots := [.s0], ctor := .lbreak }
    | 1 => .form { a := .srcS, b := .tgt, pred := false, slots := [.s0], stream := true, ctor := .lbreakZ }
    | 2 => .form { a := .srcS, b := .tgt, pred := false, slots := [.s0], stream := true, ctor := .lbreakNz }
    | _ => .badExt
  | 0xD8 =>
    match ext with
    | 0 => .form { pred := false, ctor := .modeVliw }
    | 1 => if v.inSlot then .form { pred := false, slots := [.s0], ctor := .modeSimt } else .badExt
    | _ => .badExt
  | 0xD9 => if ext != 0 then .badExt else .form { pred := false, stream := true, ctor := .nop }
  | 0xDA => if 1 < ext then .badExt else .form { a := .sImm, pred := false, slots := [.s0], ctor := .sleep }
  | _ => .badOp

/-- System forms, 0xE0 to 0xED (spec/08 R237 to R248). -/
def sysForm (op ext : Nat) : FormRes :=
  match op with
  | 0xE0 => if ext != 0 then .badExt
    else .form { d := .dstS, a := .immLit, lat := 2, slots := slotsS, limit := fun _ w => immOut w w.a 0 0x0D, ctor := .getsr }
  | 0xE1 => if ext != 0 then .badExt
    else .form { a := .immLit, b := .sImm, slots := slotsS,
                 limit := fun _ w => immOut w w.a 0 0x0D
                   || (immInt w w.a == some 1 && (match immInt w w.b with | some v => decide (5 ≤ v % 8) | none => false)), ctor := .setsr }
  | 0xE2 => if ext != 0 then .badExt
    else .form { a := .immLit, b := .src true true, slots := [.s0], limit := fun _ w => immOut w w.a 1 0x12, ctor := .trap }
  | 0xE3 => if 1 < ext then .badExt else .form { pred := false, slots := [.s0], ctor := if ext = 0 then .tretRetry else .tretNext }
  | 0xE4 => if ext != 0 then .badExt else .form { a := .immLit, slots := [.s0], limit := fun _ w => immOut w w.a 0 0xFFFF, ctor := .svc }
  | 0xE5 => if ext != 0 then .badExt else .form { a := .immLit, slots := [.s0], limit := fun _ w => immOut w w.a 0 0xFFFF, ctor := .bkpt }
  | 0xE6 => if ext != 0 then .badExt else .form { a := .sImm, b := .sImm, slots := [.m1], ctor := .logw }
  | 0xE7 => if 2 < ext then .badExt else .form { d := .dstS, lat := 2, slots := slotsS, ctor := .clk }
  | 0xE8 => if ext != 0 then .badExt else .form { a := .uni, b := .uni, slots := [.m1], ctor := .launch }
  | 0xE9 =>
    let off : IWord → Bool := fun w => match immInt w w.b with | some v => v < 0 || 248 < v || decide (v % 8 ≠ 0) | none => false
    match ext with
    | 0 => .form { d := .dstS, a := .uni, b := .sImm, slots := [.m1], limit := fun _ w => off w, ctor := .sqrecLd }
    | 1 => .form { a := .uni, b := .sImm, c := .uni, slots := [.m1], limit := fun _ w => off w, ctor := .sqrecSt }
    | 2 => .form { a := .uni, c := .uni, slots := [.m1], ctor := .sqrecHist }
    | 3 => .form { d := .dstS, a := .uni, c := .uni, slots := [.m1], ctor := .sqrecCinc }
    | 4 => .form { d := .dstS, a := .uni, c := .uni, slots := [.m1], ctor := .sqrecCget }
    | 5 => .form { a := .uni, c := .uni, slots := [.m1], ctor := .sqrecWchk }
    | _ => .badExt
  | 0xEA => if 2 < ext then .badExt else .form { d := .dstS, a := .uni, c := .sImm false, slots := [.m1], ctor := .sqacc }
  | 0xEB => if 1 < ext then .badExt else .form { a := .uni, b := .srcS, c := .sImm, slots := [.m1], ctor := .sqbind }
  | 0xEC => if ext != 0 then .badExt else .form { a := .uni, b := .sImm, c := .sImm, pred := false, slots := [.s0], ctor := .lpcall }
  | 0xED => if ext != 0 then .badExt else .form { pred := false, slots := [.s0], ctor := .lpret }
  | _ => .badOp

/-- What an opcode admits in a view, with its EXT value and B operand (the source type of ICVT stands in B). In the matrix stream only the forms
of spec/04 R112 are decoded; in SIMT a form marked "no" counts as a reserved opcode (R107). XMOV, TRN and TRNW there are code 1 whatever else their word
breaks (DEDUCED, log entry 69: spec/04 R109 lists reserved encodings before R107's test). -/
def formOf (v : View) (op ext : Nat) (b : Operand) : FormRes :=
  let r : FormRes :=
    match op / 16 with
    | 0x0 | 0x1 => intForm op ext
    | 0x2 => maskForm op ext
    | 0x3 => floatForm op ext
    | 0x4 => convForm op ext b
    | 0x5 => laneForm v op ext
    | 0x6 => specialForm op ext
    | 0x7 | 0x8 => memForm op ext
    | 0x9 => atomForm op ext
    | 0xA => barForm op ext
    | 0xB => copyForm op ext
    | 0xC => matForm op ext
    | 0xD => ctlForm v op ext
    | 0xE => sysForm op ext
    | _ => .badOp
  let admitted : Bool :=
    match v with
    | .simt => !(op == 0x59 || op == 0xCA || op == 0xCB)
    | .stream => op ≤ 0x1B || (0xC0 ≤ op && op ≤ 0xC9) || op == 0xD0 || op == 0xD6 || op == 0xD7 || op == 0xD9
    | .slot _ => true
  if admitted then r else .badOp

end Sys2Proof.Machine
end

