-- ==== Sys2Proof/Machine/Legal.lean ====
section
/-!
DEFINITION. When a word is a valid instruction: every condition of spec/03 R94 for SIMT and the matrix stream, and the slot conditions of R92 that
concern one slot.
-/
namespace Sys2Proof.Machine

open Sys2Proof

/-- The conditions that make an encoding illegal. The first nine are those of spec/03 R94 in code order; the last three concern slots only (R92). -/
inductive Bad where
  | opcode | ext | spec | unused | lit | row | pair | bsel | limit
  | place | field | name
deriving DecidableEq, Repr

/-- The ILLOP code of a condition (spec/03 R94); 0 for the slot conditions. -/
def Bad.code : Bad → Nat
  | .opcode => 1 | .ext => 2 | .spec => 3 | .unused => 4 | .lit => 5 | .row => 6 | .pair => 7 | .bsel => 8 | .limit => 9
  | .place => 0 | .field => 0 | .name => 0

/-- The ILLBUNDLE INFO bit of a condition (spec/03 R92). -/
def Bad.infoBit : Bad → Nat
  | .place => 4 | .field => 5 | .spec => 6 | .name => 6 | .lit => 7 | .row => 8 | .pair => 8 | .bsel => 8
  | .opcode => 9 | .ext => 9 | .unused => 10 | .limit => 10

/-- The fields of a word as they stand; a reserved specifier is none. -/
structure Raw where
  op : Nat
  ext : BitVec 6
  stall : BitVec 4
  pred : BitVec 5
  d : Option Operand
  a : Option Operand
  b : Option Operand
  c : Option Operand
  lits : List Word32
deriving DecidableEq, Repr

/-- The fields with every specifier valid. -/
def Raw.toIWord (r : Raw) : Option IWord :=
  match r.d, r.a, r.b, r.c with
  | some d, some a, some b, some c => some ⟨r.ext, r.stall, r.pred, d, a, b, c, r.lits⟩
  | _, _, _, _ => none

/-- The words that the fields may stand for: the word itself, or one for each operand class that a reserved specifier could have named. -/
def Raw.words (r : Raw) : List IWord :=
  match r.toIWord with
  | some w => [w]
  | none => ([.vec 0 0, .sreg 0, .small 0] : List Operand).map fun o =>
      ⟨r.ext, r.stall, r.pred, r.d.getD o, r.a.getD o, r.b.getD o, r.c.getD o, r.lits⟩

/-- The fields of a valid word. -/
def Raw.ofIWord (op : Nat) (w : IWord) : Raw := ⟨op, w.ext, w.stall, w.pred, some w.d, some w.a, some w.b, some w.c, w.lits⟩

/-- The specifier 0x000, which an unused field holds (spec/03 R73). -/
def zeroOperand : Operand := .vec 0 0

/-- A literal reference that breaks spec/03 R80. -/
def litBad (v : View) (u : Use) (lits : List Word32) (pair : Bool) (j : Nat) : Bool :=
  (pair && !u.wide) ||
  match v with
  | .slot _ => decide (lits.length ≤ if pair then j + 1 else j)
  | _ => lits.isEmpty || j != 0 || (!pair && lits.getD 1 0 != 0)

/-- A target literal that breaks its bit rule (spec/05 R133). -/
def targetBad (lits : List Word32) (pair : Bool) (j : Nat) : Bool :=
  let lo := (lits.getD j 0#32).toNat
  let hi := (lits.getD (j + 1) 0#32).toNat
  lo % 8 != 0 || (pair && hi / 2 ^ 25 != 0)

/-- A reserved specifier value in a field that the form does not use (spec/03 R79, R94). In a source field of the matrix stream's forms (`mat`),
classes 00 and 10 are reserved too (spec/04 R112; spec/08 R219; notes/assumptions/9.md). -/
def unusedSpec (v : View) (mat isD : Bool) (o : Option Operand) : Bool :=
  match o with
  | none => true
  | some (.sreg n) => v == .stream && decide (32 ≤ n.val)
  | some (.special _) => isD || mat
  | some (.small _) => isD
  | some (.lit _ _) => isD
  | some (.vec _ _) => mat && !isD
  | some (.mask _) => mat && !isD

/-- The conditions one operand field meets; a special operand or an immediate as D is a reserved specifier and not a limit (spec/06 R151). `mat` marks the classes of the matrix stream (spec/04 R112; spec/08 R219). -/
def useBad (v : View) (mat : Bool) (rows : Nat) (lits : List Word32) (isD : Bool) (u : Use) (o : Option Operand) : List Bad :=
  if !u.used then (if o == some zeroOperand then [] else if unusedSpec v mat isD o then [.spec, .unused] else [.unused])
  else
    match o with
    | none => [.spec]
    | some (.vec k n) =>
      let wordHere := u.word && v == .simt
      (if mat then [.spec] else []) ++
      (if !u.vec then [.limit] else []) ++
      (if v == .simt && !u.word && k != 0 then [.spec] else []) ++
      (if !mat && v != .stream && rows ≤ n.val + (if u.word then 0 else u.span - 1) then [.row] else []) ++
      (if !u.word && n.val % u.span != 0 then [.pair] else []) ++
      (if wordHere && k.val % u.span != 0 then [.limit] else [])
    | some (.sreg n) => (if v == .stream && 32 ≤ n.val then [.spec] else []) ++ (if !u.sreg then [.limit] else [])
    | some (.mask _) =>
      (if mat || u.maskReserved then [.spec] else []) ++ (if !u.mask && !u.maskReserved then [.limit] else [])
    | some (.special _) => if u.isDst then [.spec] else (if mat then [.spec] else []) ++ (if !u.special then [.limit] else [])
    | some (.small _) => if u.isDst then [.spec] else if !u.small then [.limit] else []
    | some (.lit p j) =>
      (if u.isDst then [.spec] else if !u.lit then [.limit] else []) ++
      (if litBad v u lits p j then [.lit] else []) ++
      (if u.target && targetBad lits p j then [.limit] else [])

/-- Whether a used operand refers to the literal. -/
def refsLit (u : Use) (o : Option Operand) : Bool :=
  u.used && match o with | some (.lit _ _) => true | _ => false

/-- Whether a used operand is class 00. -/
def refsVec (u : Use) (o : Option Operand) : Bool :=
  u.used && match o with | some (.vec _ _) => true | _ => false

/-- The cluster of a vector slot. -/
def slotCluster : Slot → Option Nat
  | .v0 => some 0 | .v1 => some 1 | .v2 => some 2 | .v3 => some 3 | _ => none

/-- An operand its slot cannot name (spec/03 R85). -/
def nameBad (s : Slot) (u : Use) (o : Option Operand) : Bool :=
  u.used &&
  match s, o with
  | .s0, some (.vec _ _) => true
  | .s1, some (.vec _ _) => true
  | .p, some (.vec _ _) => true
  | .p, some (.sreg _) => true
  | .p, some (.special _) => true
  | s, some (.vec k _) => match slotCluster s with | some c => k.val != c && !(u.anyCluster && !u.isDst) | none => false
  | s, some (.sreg _) => (slotCluster s).isSome && u.isDst
  | _, _ => false

/-- The conditions a word meets as form `f` of its opcode, for an issuer that owns `rows` rows. -/
def formBad (v : View) (rows : Nat) (r : Raw) (f : Form) : List Bad :=
  let mat := (v == .stream && decide (r.op ≤ 0x1B)) || (decide (0xC0 ≤ r.op) && decide (r.op ≤ 0xC9))
  let narrow := decide (r.op < 0x70) && ((f.d.used && !f.d.wide) || (f.a.used && !f.a.wide) || (f.b.used && !f.b.wide) || (f.c.used && !f.c.wide))
  let ub (isD : Bool) (u : Use) := useBad v mat rows r.lits isD { u with wide := u.wide && !narrow, word := u.word || (f.ws && !u.vec) }
  let operands := ub true f.d r.d ++ ub false f.a r.a ++ ub false f.b r.b ++ ub false f.c r.c
  let predBad : List Bad := if r.pred != 0 && (!f.pred || v == .stream) then [.unused] else []
  let sDestVec : List Bad :=
    if r.op < 0x70 && v == .simt && f.d.used && (match r.d with | some (.sreg _) => true | _ => false)
      && (refsVec f.a r.a || refsVec f.b r.b || refsVec f.c r.c) then [.limit] else []
  let limits : List Bad := (if r.words.all (f.limit v) then [.limit] else []) ++ (if r.words.all f.bsel then [.bsel] else [])
  let viewBad : List Bad := match v with
    | .simt | .stream =>
      (if v == .stream && r.stall != 0 then [.unused] else []) ++
      (if !r.lits.isEmpty && !(refsLit f.d r.d || refsLit f.a r.a || refsLit f.b r.b || refsLit f.c r.c) then [.lit] else [])
    | .slot s =>
      (if f.slots.contains s then [] else [.place]) ++ (if f.ws || r.stall != 0 then [.field] else []) ++
      (if nameBad s f.d r.d || nameBad s f.a r.a || nameBad s f.b r.b || nameBad s f.c r.c then [.name] else [])
  operands ++ predBad ++ sDestVec ++ limits ++ viewBad

/-- The EXT bits that hold an operation's type (spec/03 R75; spec/04 R105; spec/05 R126 to R128; spec/06 R174): 0 where it has no such field. -/
def typeField (op : Nat) : Nat :=
  if op ≤ 0x1B || op == 0x20 || op == 0x23 || op == 0x52 || (0x55 ≤ op && op ≤ 0x59) then 31
  else if op == 0x21 || op == 0x22 || (0x30 ≤ op && op ≤ 0x39) || (0x60 ≤ op && op ≤ 0x67) then 3
  else 0

/-- The forms of a list that agree with an EXT value in some bits, or all of them when none does. -/
def agreeing (bits ext : Nat) (l : List (BitVec 6 × Form)) : List (BitVec 6 × Form) :=
  match l.filter fun x => (x.1.toNat &&& bits) == (ext &&& bits) with
  | [] => l
  | m => m

/-- The forms that a word of a reserved EXT value could have been: the form that SIMT gives the value, else those of its opcode, of its type where any has it,
and with the same bit 5 where any of them has it. -/
def nearForms (v : View) (r : Raw) : List (BitVec 6 × Form) :=
  match formOf .simt r.op r.ext.toNat (r.b.getD zeroOperand) with
  | .form f => [(r.ext, f)]
  | _ =>
    let l : List (BitVec 6 × Form) := (List.range 64).filterMap fun e => match formOf v r.op e (r.b.getD zeroOperand) with
      | .form f => some (BitVec.ofNat 6 e, f)
      | _ => none
    agreeing 32 r.ext.toNat (agreeing (typeField r.op) r.ext.toNat l)

/-- Whether a word whose EXT value is reserved sets WS: bit 5, where it is WS in a form of the opcode (spec/03 R75, R92). -/
def strayWs (v : View) (r : Raw) : Bool :=
  r.ext.getLsbD 5 && ((List.range 64).any fun e => match formOf v r.op e (r.b.getD zeroOperand) with
    | .form f => f.ws
    | _ => false)

/-- The further conditions of a word whose opcode or EXT value is reserved: in a slot every condition is marked (spec/03 R92), those that the word
meets whatever form it was meant for; elsewhere a lower code stands. -/
def strayBad (v : View) (rows : Nat) (r : Raw) : List Bad :=
  match v with
  | .slot _ =>
    match nearForms v r with
    | [] => (if r.toIWord.isNone then [.spec] else []) ++ (if r.stall != 0 then [.field] else [])
    | x :: l => ((formBad v rows { r with ext := x.1 } x.2).filter fun b => l.all fun y => (formBad v rows { r with ext := y.1 } y.2).contains b) ++
        if strayWs v r then [.field] else []
  | _ => []

/-- Every condition a word meets in a view, for an issuer that owns `rows` rows. -/
def violations (v : View) (rows : Nat) (r : Raw) : List Bad :=
  match formOf v r.op r.ext.toNat (r.b.getD zeroOperand) with
  | .badOp => .opcode :: strayBad v rows r
  | .badExt => .ext :: strayBad v rows r
  | .form f => formBad v rows r f

/-- The lowest ILLOP code among conditions (spec/03 R94). -/
def lowestCode : List Bad → Nat
  | [] => 0
  | b :: r => let c := lowestCode r; if b.code = 0 then c else if c = 0 then b.code else min b.code c

/-- The opcode and fields of an instruction; none for an event of the part. -/
def instrParts : Instr → Option (Nat × IWord)
  | .iadd w => some (0x00, w)
  | .isub w => some (0x01, w)
  | .imul w => some (0x02, w)
  | .imulh w => some (0x03, w)
  | .imad w => some (0x04, w)
  | .idiv w => some (0x05, w)
  | .irem w => some (0x06, w)
  | .imin w => some (0x07, w)
  | .imax w => some (0x08, w)
  | .iabs w => some (0x09, w)
  | .isat w => some (0x0A, w)
  | .and w => some (0x0B, w)
  | .or w => some (0x0C, w)
  | .xor w => some (0x0D, w)
  | .andn w => some (0x0E, w)
  | .shl w => some (0x0F, w)
  | .shr w => some (0x10, w)
  | .sar w => some (0x11, w)
  | .rotl w => some (0x12, w)
  | .clz w => some (0x13, w)
  | .popc w => some (0x14, w)
  | .brev w => some (0x15, w)
  | .bfx w => some (0x16, w)
  | .bfi w => some (0x17, w)
  | .lea w => some (0x18, w)
  | .mov w => some (0x19, w)
  | .movl w => some (0x1A, w)
  | .rshr w => some (0x1B, w)
  | .icmp w => some (0x20, w)
  | .fcmp w => some (0x21, w)
  | .fclass w => some (0x22, w)
  | .sel w => some (0x23, w)
  | .plog w => some (0x24, w)
  | .pmovMm w => some (0x25, w)
  | .pmovMv w => some (0x25, w)
  | .pmovVm w => some (0x25, w)
  | .pcnt w => some (0x26, w)
  | .pfirst w => some (0x27, w)
  | .fadd w => some (0x30, w)
  | .fsub w => some (0x31, w)
  | .fmul w => some (0x32, w)
  | .ffma w => some (0x33, w)
  | .fmin w => some (0x34, w)
  | .fmax w => some (0x35, w)
  | .fneg w => some (0x36, w)
  | .fabs w => some (0x37, w)
  | .frnd w => some (0x38, w)
  | .fscale w => some (0x39, w)
  | .fdot2 w => some (0x3A, w)
  | .fdot4 w => some (0x3B, w)
  | .fcvt w => some (0x40, w)
  | .icvt w => some (0x41, w)
  | .pack w => some (0x42, w)
  | .unpk w => some (0x43, w)
  | .bscale w => some (0x44, w)
  | .perm w => some (0x50, w)
  | .shuf w => some (0x51, w)
  | .bcast w => some (0x52, w)
  | .ballot w => some (0x53, w)
  | .vote w => some (0x54, w)
  | .redx w => some (0x55, w)
  | .maxi w => some (0x56, w)
  | .mini w => some (0x57, w)
  | .scanx w => some (0x58, w)
  | .xmov w => some (0x59, w)
  | .exp2 w => some (0x60, w)
  | .log2 w => some (0x61, w)
  | .rcp w => some (0x62, w)
  | .rsq w => some (0x63, w)
  | .sqrt w => some (0x64, w)
  | .sinp w => some (0x65, w)
  | .cosp w => some (0x66, w)
  | .act w => some (0x67, w)
  | .sftload w => some (0x68, w)
  | .rndw w => some (0x69, w)
  | .lds w => some (0x70, w)
  | .sts w => some (0x71, w)
  | .ldsx w => some (0x72, w)
  | .stsx w => some (0x73, w)
  | .feset w => some (0x74, w)
  | .feclr w => some (0x75, w)
  | .ld w => some (0x80, w)
  | .st w => some (0x81, w)
  | .ldb w => some (0x82, w)
  | .stb w => some (0x83, w)
  | .pref w => some (0x84, w)
  | .cinvLine w => some (0x85, w)
  | .cinvTiles w => some (0x85, w)
  | .cinvAll w => some (0x85, w)
  | .atom w => some (0x90, w)
  | .cas w => some (0x91, w)
  | .ula w => some (0x92, w)
  | .fence w => some (0x93, w)
  | .barArrive w => some (0xA0, w)
  | .barWait w => some (0xA0, w)
  | .barSync w => some (0xA0, w)
  | .barq w => some (0xA1, w)
  | .racqP w => some (0xA2, w)
  | .racqC w => some (0xA2, w)
  | .rcommit w => some (0xA3, w)
  | .rrel w => some (0xA4, w)
  | .warpsync w => some (0xA5, w)
  | .cpy w => some (0xB0, w)
  | .cseal w => some (0xB1, w)
  | .cwait w => some (0xB2, w)
  | .ctable w => some (0xB3, w)
  | .cquery w => some (0xB4, w)
  | .mload w => some (0xC0, w)
  | .mperm w => some (0xC1, w)
  | .mzero w => some (0xC2, w)
  | .mma w => some (0xC3, w)
  | .mladr w => some (0xC4, w)
  | .mscale w => some (0xC5, w)
  | .mscaleClr w => some (0xC5, w)
  | .mdrain w => some (0xC6, w)
  | .mwait w => some (0xC7, w)
  | .mbarArrive w => some (0xC8, w)
  | .mbarWait w => some (0xC8, w)
  | .mbarSync w => some (0xC8, w)
  | .mbarRacqP w => some (0xC8, w)
  | .mbarRacqC w => some (0xC8, w)
  | .mbarRcommit w => some (0xC8, w)
  | .mbarRrel w => some (0xC8, w)
  | .mend w => some (0xC9, w)
  | .trn w => some (0xCA, w)
  | .trnw w => some (0xCB, w)
  | .bra w => some (0xD0, w)
  | .brx w => some (0xD1, w)
  | .call w => some (0xD2, w)
  | .ret w => some (0xD3, w)
  | .join w => some (0xD4, w)
  | .exit w => some (0xD5, w)
  | .loopDec w => some (0xD6, w)
  | .loopPush w => some (0xD6, w)
  | .lbreak w => some (0xD7, w)
  | .lbreakZ w => some (0xD7, w)
  | .lbreakNz w => some (0xD7, w)
  | .modeVliw w => some (0xD8, w)
  | .modeSimt w => some (0xD8, w)
  | .nop w => some (0xD9, w)
  | .sleep w => some (0xDA, w)
  | .getsr w => some (0xE0, w)
  | .setsr w => some (0xE1, w)
  | .trap w => some (0xE2, w)
  | .svc w => some (0xE4, w)
  | .bkpt w => some (0xE5, w)
  | .tretRetry w => some (0xE3, w)
  | .tretNext w => some (0xE3, w)
  | .logw w => some (0xE6, w)
  | .clk w => some (0xE7, w)
  | .launch w => some (0xE8, w)
  | .sqrecLd w => some (0xE9, w)
  | .sqrecSt w => some (0xE9, w)
  | .sqrecHist w => some (0xE9, w)
  | .sqrecCinc w => some (0xE9, w)
  | .sqrecCget w => some (0xE9, w)
  | .sqrecWchk w => some (0xE9, w)
  | .sqacc w => some (0xEA, w)
  | .sqbind w => some (0xEB, w)
  | .lpcall w => some (0xEC, w)
  | .lpret w => some (0xED, w)
  | .moduleReset _ => none
  | .sftloadTableWrite _ => none
  | .fullEmptyWaitSatisfied _ _ => none
  | .variableLatencyResult _ => none
  | .asyncWritePerformed _ => none
  | .cpyWaitEnter _ => none
  | .copyCommandStart _ _ => none
  | .copyCommandFinish _ _ => none
  | .matrixOpStart _ _ => none
  | .matrixOpComplete _ _ => none
  | .modeVliwContextTaken _ _ => none
  | .sleepExpiry _ => none
  | .tailNotify _ => none
  | .bundleIssue _ _ _ => none
  | .emptyRun _ => none
  | .replayRetry _ _ => none
  | .discard _ => none
  | .blockPlace _ _ => none
  | .launchAdmission _ => none
  | .recordAging _ => none
  | .launchComplete _ => none
  | .qtail _ _ _ => none
  | .hostQueueConsume _ => none
  | .launchCommand _ => none
  | .hcopy _ => none
  | .hcopyDone _ => none
  | .signal _ => none
  | .wait _ => none
  | .bind _ => none
  | .wsmode _ => none
  | .wsmodeApply _ => none
  | .logctl _ => none
  | .partitionCreate _ => none
  | .partitionDestroy _ => none
  | .partitionSave _ => none
  | .partitionResume _ _ => none
  | .partitionSaveResume _ => none
  | .partitionHaltComplete _ _ => none
  | .claim _ _ => none
  | .leaseWrite _ _ => none
  | .leaseWarning => none
  | .leaseExpiry => none
  | .hostBar2Write _ _ _ => none
  | .hostAtomic _ _ _ _ _ => none
  | .remoteOpArrive _ _ _ => none
  | .remoteAck _ _ => none
  | .remoteTimeout _ => none
  | .serviceRunStart _ => none
  | .serviceRunLimit _ => none
  | .deadlineExpiry _ => none
  | .coreWake _ _ => none
  | .refreshWindowOpen _ => none
  | .refreshWindowEnd _ => none
  | .patrolScrub _ => none
  | .dramRowRepair _ _ => none
  | .weightStoreBankRepair _ _ => none
  | .runnerLaneSpare _ _ => none
  | .windowBoundary _ _ _ => none
  | .samplePeriod _ => none
  | .dcmdHalt _ => none
  | .dcmdRelease _ => none
  | .dcmdStep1 _ => none
  | .dcmdStepy _ => none
  | .debugWindowWrite _ => none
  | .corespareGo _ _ _ => none
  | .fmctlDrain _ _ => none
  | .fmctlRestore _ _ => none
  | .farMemoryUnitMove _ => none
  | .farMemoryModuleRemoved _ => none
  | .tdctlSnap _ => none
  | .tdctlLive _ => none
  | .tdctlClear _ => none
  | .registerWrite _ _ _ => none
  | .fixedLatencyResult _ _ => none
  | .eviction _ => none
  | .farMemoryModuleSeated _ => none
  | .logBufferRoom _ _ => none
  | .flitReplay _ => none

/-- Whether an instruction is a form of the instruction word. -/
def isForm (i : Instr) : Bool := (instrParts i).isSome

/-- Whether an instruction stands for a legal word in a view, for an issuer of `rows` rows: no condition holds, the constructor is the one its
opcode and EXT name, and SIMT and stream words carry no literal word or both halves of one. An event is no word. -/
def legalIn (v : View) (rows : Nat) (i : Instr) : Bool :=
  match instrParts i with
  | none => false
  | some (op, w) =>
    decide (violations v rows (.ofIWord op w) = []) &&
    (match formOf v op w.ext.toNat w.b with | .form f => decide (f.ctor w = i) | _ => false) &&
    (v.inSlot || decide (w.lits.length = 0) || decide (w.lits.length = 2))

end Sys2Proof.Machine
end

