-- ==== Sys2Proof/WellFormed.lean ====
section
/-!
DEFINITION. Well-formed instructions: terms of the syntax that stand for a legal word. The checks are those of spec/03 R94, in Machine/Legal.lean.
-/
namespace Sys2Proof

open Sys2Proof.Machine

/-- A well-formed SIMT instruction for a warp of 64 rows. -/
def WellFormed (i : Instr) : Bool := legalIn .simt 64 i

/-- A well-formed word of the matrix stream. -/
def WellFormedStream (i : Instr) : Bool := legalIn .stream 64 i

/-- A well-formed operation of a slot. -/
def WellFormedSlot (s : Slot) (i : Instr) : Bool := legalIn (.slot s) 64 i

end Sys2Proof
end

