-- ==== Sys2Proof/Decode.lean ====
section
/-!
DEFINITION. Decoding and encoding of instruction words (spec/03 R72 to R80), in SIMT, in the matrix stream and in a slot, and of bundle headers (R83).
A word that is no instruction is rejected with every condition it meets (R92, R94).
-/
namespace Sys2Proof

open Sys2Proof.Machine

/-- A 10-bit operand specifier (spec/03 R79); none for a reserved one. -/
def decodeSpec (x : BitVec 10) : Option Operand :=
  let n : Fin 64 := ⟨x.toNat % 64, Nat.mod_lt _ (by decide)⟩
  let k : Fin 4 := ⟨x.toNat / 64 % 4, Nat.mod_lt _ (by decide)⟩
  match x.toNat / 256 with
  | 0 => some (.vec k n)
  | 1 => if k = 0 then some (.sreg n) else none
  | 2 =>
    let i := x.toNat % 256
    if h : i < 16 then some (.mask ⟨i, h⟩)
    else if h : i - 16 < 8 then some (.special ⟨i - 16, h⟩)
    else none
  | _ => if k.val < 2 then some (.small (BitVec.ofNat 7 x.toNat)) else some (.lit (k.val == 3) n)

/-- The specifier of an operand. -/
def encodeSpec : Operand → BitVec 10
  | .vec k n => BitVec.ofNat 10 (64 * k.val + n.val)
  | .sreg n => BitVec.ofNat 10 (256 + n.val)
  | .mask i => BitVec.ofNat 10 (512 + i.val)
  | .special i => BitVec.ofNat 10 (528 + i.val)
  | .small n => BitVec.ofNat 10 (768 + n.toNat)
  | .lit p j => BitVec.ofNat 10 (896 + (if p then 64 else 0) + j.val)

/-- The fields of a word (spec/03 R72), with the literal words it may name. -/
def rawOf (x : Word64) (lits : List Word32) : Raw :=
  { op := (x.extractLsb' 56 8).toNat
    ext := x.extractLsb' 50 6
    stall := x.extractLsb' 46 4
    pred := x.extractLsb' 41 5
    d := decodeSpec (x.extractLsb' 31 10)
    a := decodeSpec (x.extractLsb' 21 10)
    b := decodeSpec (x.extractLsb' 11 10)
    c := decodeSpec (x.extractLsb' 1 10)
    lits := lits }

/-- The two words of a literal word, low first (spec/03 R80). -/
def litHalves (x : Word64) : List Word32 := [x.extractLsb' 0 32, x.extractLsb' 32 32]

/-- The W bit (spec/03 R72). -/
def wBit (x : Word64) : Bool := x.getLsbD 0

/-- A valid word, or the conditions it meets. -/
inductive Decoded where
  | ok (i : Instr)
  | bad (l : List Bad)
deriving DecidableEq, Repr

/-- Decodes the fields of a word in a view for an issuer of `rows` rows. -/
def decodeRaw (v : View) (rows : Nat) (r : Raw) : Decoded :=
  match violations v rows r, r.toIWord, formOf v r.op r.ext.toNat (r.b.getD zeroOperand) with
  | [], some w, .form f => .ok (f.ctor w)
  | [], _, _ => .bad [.opcode]
  | l, _, _ => .bad l

/-- Decodes a SIMT word or a word of the matrix stream; `next` is the word that follows it, its literal when W = 1 (spec/03 R74). -/
def decodeWord (v : View) (rows : Nat) (x next : Word64) : Decoded :=
  decodeRaw v rows (rawOf x (if wBit x then litHalves next else []))

/-- The bytes of a SIMT or stream item (spec/03 R74). -/
def wordSize (x : Word64) : Nat := if wBit x then 16 else 8

/-- Decodes a slot word of a bundle with the given literal pool. W = 1 is a slot condition (spec/03 R92, INFO bit 5). -/
def decodeSlot (s : Slot) (rows : Nat) (x : Word64) (pool : List Word32) : Decoded :=
  match decodeRaw (.slot s) rows (rawOf x pool) with
  | .ok i => if wBit x then .bad [.field] else .ok i
  | .bad l => .bad (if wBit x then .field :: l else l)

/-- The word of an opcode and fields; W is 1 exactly when a literal word follows (spec/03 R72). -/
def encodeWord (op : Nat) (w : IWord) (literal : Bool) : Word64 :=
  BitVec.ofNat 8 op ++ w.ext ++ w.stall ++ w.pred ++ encodeSpec w.d ++ encodeSpec w.a ++ encodeSpec w.b ++ encodeSpec w.c ++ BitVec.ofBool literal

/-- The literal word of an instruction in SIMT or in the matrix stream. -/
def encodeLit (w : IWord) : Option Word64 :=
  match w.lits with
  | [] => none
  | lo :: r => some (r.getD 0 0#32 ++ lo)

/-- The words of an instruction in SIMT or in the matrix stream: the instruction word and, with W = 1, its literal word. An event has none. -/
def encode (i : Instr) : List Word64 :=
  match instrParts i with
  | none => []
  | some (op, w) =>
    match encodeLit w with
    | none => [encodeWord op w false]
    | some l => [encodeWord op w true, l]

/-- The word of an operation in a slot; its literals stand in the bundle's pool. -/
def encodeSlot (i : Instr) : Option Word64 :=
  match instrParts i with
  | none => none
  | some (op, w) => some (encodeWord op w false)

/-- A bundle header (spec/03 R83). -/
structure Header where
  kind : Nat
  present : Nat
  stall : Nat
  litn : Nat
  yield : Bool
  mergeok : Bool
  rest : Nat
deriving DecidableEq, Repr

/-- The fields of a header. -/
def headerOf (x : Word64) : Header :=
  { kind := vbits x 60 4
    present := vbits x 49 11
    stall := vbits x 44 5
    litn := vbits x 40 4
    yield := x.getLsbD 39
    mergeok := x.getLsbD 38
    rest := vbits x 0 38 }

/-- The number of empty bundles of an empty run (spec/03 R83). -/
def runCount (x : Word64) : Nat := vbits x 40 16 + 1

/-- Whether a reserved bit of a header is set, or its KIND is reserved (spec/03 R92, INFO bit 0). -/
def headerBad (x : Word64) : Bool :=
  match vbits x 60 4 with
  | 0 => vbits x 0 38 != 0
  | 1 => vbits x 56 4 != 0 || vbits x 0 40 != 0
  | _ => true

/-- The slots a header marks present, in slot order (spec/03 R83): bit 59 down is S0, S1, V0 to V3, F, M0, M1, T, P. -/
def presentSlots (present : Nat) : List Slot :=
  ([.s0, .s1, .v0, .v1, .v2, .v3, .f, .m0, .m1, .t, .p] : List Slot).zipIdx.filterMap fun (s, i) => if present.testBit (10 - i) then some s else none

/-- The bytes of an item: a bundle, an empty run, or a header of reserved KIND (spec/03 R84). -/
def itemSize (x : Word64) : Nat :=
  if vbits x 60 4 = 0 then 8 + 8 * (presentSlots (vbits x 49 11)).length + 8 * ((vbits x 40 4 + 1) / 2) else 8

/-- The instruction the decoder reads from a row's word, as a SIMT instruction of a warp of 64 rows, else as a word of the matrix stream, else as an
operation of the first slot that admits it; the literal word, where W = 1, is bits 127:64.
The table gives the rows of this hardware no encodings, so the bits are those of spec/03 R72. -/
def decodeTableWord (nbits w : Nat) : Option Instr :=
  let x := BitVec.ofNat 64 (w % 2 ^ nbits)
  let l := BitVec.ofNat 64 (w % 2 ^ nbits / 2 ^ 64)
  match decodeWord .simt 64 x l with
  | .ok i => some i
  | .bad _ =>
    match decodeWord .stream 64 x l with
    | .ok i => some i
    | .bad _ =>
      ([.s0, .s1, .v0, .v1, .v2, .v3, .f, .m0, .m1, .t, .p] : List Slot).findSome? fun sl => match decodeSlot sl 64 x [] with
        | .ok i => some i
        | .bad _ => none

end Sys2Proof
end

