-- ==== Sys2Proof/Config.lean ====
section
/-!
DEFINITION. What the spec fixes for the nominal module (spec/00 R1), and what it leaves open: constants without a body, so that no proof can lean on a value.
-/
namespace Sys2Proof.Config

/-- Compute dies (spec/00 R1). -/
def dies : Nat := 4
/-- Logical cores of a die (spec/00 R1). -/
def coresPerDie : Nat := 72
/-- Logical cores of the module (spec/00 R1). -/
def cores : Nat := 288
/-- Lane groups of the module, two per core (spec/00 R1). -/
def groups : Nat := 576
/-- Warp slots of a lane group (spec/00 R1). -/
def warpSlots : Nat := 32
/-- VLIW contexts of a lane group (spec/00 R1). -/
def contexts : Nat := 4
/-- Scratchpad bytes of a core (spec/00 R1). -/
def scratchBytes : Nat := 393216
/-- Bytes of the locked instruction store of a core (spec/00 R1). -/
def lockedBytes : Nat := 16384
/-- Entries of a core's copy buffer, and commands that may move at once (spec/12 R337). -/
def copyEntries : Nat := 64
def copyMoving : Nat := 48
/-- Entries of a core's replay buffer (spec/19 R427). -/
def replayEntries : Nat := 64
/-- Operations of a core's engine queue (spec/08 R218). -/
def engineQueue : Nat := 16
/-- Launch slots of a core (spec/09 R268). -/
def launchSlots : Nat := 16
/-- Host queues (spec/18 R404). -/
def hostQueues : Nat := 64
/-- Partitions (spec/00 R1). -/
def partitions : Nat := 16
/-- ccnt in one microsecond (spec/00 R5). -/
def ccntPerMicro : Nat := 3000

/-- The value the part gives where the spec leaves a result's value open (log entry 5): the n-th such value. -/
opaque freeValue : Nat → BitVec 64

/-- What the ladder path leaves in the rung registers (log entry 64): the n-th such value. -/
opaque freeRung : Nat → BitVec 64

/-- Whether the signature of a configuration image verifies: ECDSA over P-384 with SHA-384, under the key whose hash is fused (spec/21 R453). -/
opaque signatureOk (keyHash : BitVec 384) (signed signature : List Byte) : Bool

/-- The DRAM row of a line of memory: the spec does not give the rows (log entry 68). -/
opaque rowOf : Nat → Nat

end Sys2Proof.Config
end

