-- ==== Sys2Proof/Machine/Table.lean ====
section
/-!
DEFINITION. Finite tables keyed by a number: lists of key and value pairs in rising key order, the form in which the state holds anything sparse.
-/
namespace Sys2Proof.Machine

/-- A table: key and value pairs. -/
abbrev Tbl (α : Type) := List (Nat × α)

namespace Tbl

variable {α : Type}

/-- The entry under a key. -/
def get? : Tbl α → Nat → Option α
  | [], _ => none
  | (j, x) :: r, k => if j = k then some x else get? r k

/-- The entry under a key, or a default. -/
def getD (t : Tbl α) (k : Nat) (d : α) : α := (t.get? k).getD d

/-- Writes the entry under a key, keeping rising key order. -/
def set : Tbl α → Nat → α → Tbl α
  | [], k, v => [(k, v)]
  | (j, x) :: r, k, v =>
    if k < j then (k, v) :: (j, x) :: r
    else if j = k then (k, v) :: r
    else (j, x) :: set r k v

/-- Removes the entry under a key. -/
def erase : Tbl α → Nat → Tbl α
  | [], _ => []
  | (j, x) :: r, k => if j = k then erase r k else (j, x) :: erase r k

/-- Applies a function to the entry under a key; an absent entry stays absent. -/
def modify (t : Tbl α) (k : Nat) (f : α → α) : Tbl α :=
  match t.get? k with
  | some x => t.set k (f x)
  | none => t

/-- Applies a function to every entry. -/
def mapVals (t : Tbl α) (f : Nat → α → α) : Tbl α := t.map fun kv => (kv.1, f kv.1 kv.2)

/-- Rising keys. -/
def sorted : Tbl α → Bool
  | [] => true
  | [_] => true
  | a :: b :: r => decide (a.1 < b.1) && sorted (b :: r)

/-- The first entry that satisfies a test. -/
def findFirst (t : Tbl α) (p : Nat → α → Bool) : Option (Nat × α) := t.find? fun kv => p kv.1 kv.2

end Tbl

/-- A list updated at one place; out of range it is unchanged. -/
def listSet {α : Type} (l : List α) (i : Nat) (v : α) : List α := l.set i v

/-- A list with the element at one place changed. -/
def listModify {α : Type} (l : List α) (i : Nat) (f : α → α) : List α :=
  match l[i]? with
  | some x => l.set i (f x)
  | none => l

/-- A list without the element at one place. -/
def listRemove {α : Type} (l : List α) (i : Nat) : List α := l.eraseIdx i

/-- The numbers from `lo` up to and not including `hi`. -/
def range (lo hi : Nat) : List Nat := (List.range (hi - lo)).map (lo + ·)

end Sys2Proof.Machine
end

