-- ==== Sys2Proof/Machine/State.lean ====
section
/-!
DEFINITION. The state of the part: everything the spec names, as plain data, and its value right after reset.
Fields marked MODEL are the model's own (notes/assumptions). INVENTORY.md lists every field with its rule and its reset value.
-/
namespace Sys2Proof.Machine

open Sys2Proof

/-- The roles of a warp (spec/09 R250, R256). -/
inductive Role where
  | general | copy | vector
deriving DecidableEq, Repr

/-- The mode of a lane group (spec/01 R21; spec/09 R254). -/
inductive GroupMode where
  | empty | simt | vliw | dual
deriving DecidableEq, Repr

/-- A physical register a result is due in: `words` marks the 32-bit words of each slot that a vector result names (spec/01 R25). -/
inductive RegId where
  | v (n : Nat) (words : Nat)
  | s (n : Nat)
  | m (n : Nat)
deriving DecidableEq, Repr

/-- What one lane of a plain scratchpad load has read: bytes of the core's store, and the bits of the register that its value fills. -/
structure ScratchRead where
  addr : Nat
  size : Nat
  signed : Bool
  off : Nat
  width : Nat
deriving DecidableEq, Repr

/-- A fixed-latency result in flight (spec/03 R88; spec/04 R113): the bits of `bits` of the register become those of `value` when the issuer's count
reaches `due` (arithmetic cycles in SIMT, issue slots in VLIW). `spec` is the specifier that named the register. -/
structure InFlight where
  reg : RegId
  value : BitVec 4096
  bits : BitVec 4096
  due : Nat
  spec : BitVec 10
  /-- The activation-table bank an ACT read, and the arithmetic cycle in which its unit has produced the result (spec/06 R183). -/
  bank : Option (Nat × Nat)
  /-- The scratchpad bytes it was loaded from, and its issuer's count of items as it issued (spec/11 R299). -/
  reads : List ScratchRead
  born : Nat
deriving DecidableEq, Repr

/-- Why a path or a context waits. -/
inductive Wait where
  | none
  | pending        -- a pending register, or a replay-buffer entry (spec/04 R115)
  /-- A fixed-latency result, the last of those waited for due at a cycle (spec/03 R86; spec/09 R259). -/
  | result (due : Nat)
  | copyBuffer | batch | fence | bank | launchQueue | context | logBuffer | satfAtomics
  /-- A barrier (level, index) or a ring's block barrier, until its phase is `phase` (spec/07 R204, R209). -/
  | barrier (level index phase : Nat)
  | ring (index phase : Nat)
  /-- WARPSYNC and JOIN, with the address after the form and the RPC a JOIN gives (spec/07 R207; spec/05 R137). -/
  | warpsync (next : Nat)
  | join (next : Nat) (rpc : Option Nat)
  | sleep (limit : Nat)
  | fetch          -- a fetch held in the replay buffer (spec/19 R427)
  | refresh        -- a fetch from a weight-store bank in its refresh window (spec/10 R285)
  | handler        -- another path of the warp runs a trap handler (spec/19 R419)
  | table          -- an SFTLOAD that has issued (spec/06 R183)
  | watch          -- a watchpoint predicate (spec/20 R449)
  | engine         -- room in the engine queue, or the engine's completion (spec/08 R218, R231)
deriving DecidableEq, Repr

/-- A trap about to be taken: cause, slot mask (bit 10 is S0), detail, faulting address (spec/01 R37). -/
structure Trap where
  cause : Nat
  slots : Nat := 0
  info : Nat := 0
  addr : Nat := 0
deriving DecidableEq, Repr

/-- An entry of a path table (spec/01 R32), with the path's issue bookkeeping. An absent entry is free. -/
structure Path where
  pc : Nat
  /-- Reconvergence address; none when the path ends only at EXIT. -/
  rpc : Option Nat
  mask : Word32
  wait : Wait
  /-- Arithmetic cycle from which the path may issue (spec/03 R86). -/
  ready : Nat
  /-- Phase recorded by a BAR sync that has arrived; 2 once a barrier or ring wait has been woken (spec/07 R204). -/
  synced : Option Nat
  /-- A SLEEP of the item at `pc` has ended (spec/05 R141). -/
  slept : Bool
  /-- The path runs from the locked instruction store (spec/19 R419). -/
  locked : Bool
  /-- A breakpoint of the item at `pc` was released (spec/20 R446). -/
  released : Bool
  /-- Held by the debugger: STATE 3 (spec/01 R32; spec/20 R444). -/
  held : Bool
  /-- Items the debugger's step lets run (spec/20 R444). -/
  steps : Nat
  /-- A stop, by its PC and trap, that waits for the handler of another path to end (spec/20 R447; spec/19 R419). -/
  stopDue : Option (Nat × Trap)
  /-- Issues of its warp since it became ready or issued (spec/09 R260). -/
  passed : Nat
  /-- MODEL: 1 more than the cycle in which it last tried to issue and did not. -/
  tried : Nat
deriving DecidableEq, Repr

/-- What the debugger waits for at the next yield point of a context (spec/20 R444): nothing, to hold it, or to end a STEPY. -/
inductive Halting where
  | none | halt | stepy
deriving DecidableEq, Repr

/-- A loop-stack entry (spec/01 R33). -/
structure Loop where
  start : Nat
  last : Nat
  count : Nat
  pro : Nat
  epi : Nat
  stages : Nat
  iter : Nat
deriving DecidableEq, Repr

/-- The VLIW view of a warp: its context and position (spec/09 R261; spec/05 R148 to R150). -/
structure Vliw where
  /-- The context held; none while the warp waits for one (R150). -/
  ctx : Option Nat
  pc : Nat
  loops : List Loop
  /-- STALL slots left of the last bundle (spec/03 R83). -/
  stall : Nat
  /-- Empty bundles left of an empty run, which stands at `pc` (R83), and those of it that have issued. -/
  run : Nat
  ran : Nat
  /-- The last item carried YIELD (spec/03 R91). -/
  yielded : Bool
  /-- The last item transferred control (spec/05 R144). -/
  jumped : Bool
  wait : Wait
  /-- Cycles the context is held by scratchpad bank conflicts, with the one in which it issued (spec/04 R114). -/
  hold : Nat
  synced : Option Nat
  slept : Bool
  locked : Bool
  released : Bool
  held : Bool
  /-- The debugger asks for the context at its next yield point (spec/20 R444). -/
  halting : Halting
  steps : Nat
  /-- MODEL: as for a path. -/
  tried : Nat
deriving DecidableEq, Repr

/-- The control and status registers of a warp or context (spec/01 R34 to R41). -/
structure Csrs where
  satf : Word64
  rmode : Nat
  scbchk : Bool
  rec0 : Word64
  rec1 : Word64
  rec2 : Word64
  rec3 : Word64
  sfbank : Nat
  logTag : Nat
  logEn : Bool
  stallcnt : Nat
deriving DecidableEq, Repr

/-- A ring cursor (spec/07 R208). -/
structure Cursor where
  stage : Nat
  lap : Nat
deriving DecidableEq, Repr

/-- LP mode (spec/08 R247; spec/14 R366): return address, bound region, record, window, taken branches. -/
structure LpMode where
  ret : Nat
  base : Nat
  words : Nat
  record : Nat
  window : Nat
  windowLen : Nat
  taken : Nat
deriving DecidableEq, Repr

/-- Counts that key a party's atomic actions in deterministic mode (spec/11 R320). -/
structure Keys where
  grid : Nat
  cluster : Nat
  block : Nat
  atomics : Nat
deriving DecidableEq, Repr

/-- A warp or VLIW thread (spec/01 R22 to R43). Register tables are by physical number; an absent entry is zero. -/
structure Warp where
  launch : Nat
  bid : Nat
  wid : Nat
  age : Nat
  role : Role
  rows : Nat
  v : Tbl Row
  s : Tbl Word64
  m : Tbl MaskBits
  vrot : Nat
  mrot : Nat
  csr : Csrs
  srseq : Word64
  committed : Nat
  paths : Tbl Path
  vliw : Option Vliw
  /-- Issue slots of the VLIW view so far (spec/03 R88). -/
  slots : Nat
  inflight : List InFlight
  /-- The seal count S (spec/07 R212). -/
  sealed : Nat
  rings : List Cursor
  /-- The handler bit and the path that runs the handler (spec/19 R419). -/
  handler : Option Nat
  lp : Option LpMode
  keys : Keys
  /-- Records LOGW has written (spec/08 R242). -/
  logged : Nat
  /-- In the active set (spec/09 R257). -/
  active : Bool
  /-- SIMT issue cycles waited while ready and active (spec/09 R260). -/
  waited : Nat
  /-- The warp number it took the place of in the active set, until its first issue after it (spec/22 R475). -/
  swapped : Option Nat
  /-- The path that issued last (spec/22 R475). -/
  lastPath : Nat
  /-- Serial number of the party's last acquire at .cluster or wider, its own or one that happens before it (spec/11 R301, R305). -/
  acquired : Nat
  /-- Serial number of its last acquire at .block or wider: accesses of its core issued before may happen before what it does next (spec/11 R303). -/
  joined : Nat
  /-- Serial number of its last FENCE.rel or FENCE.ar (spec/07 R202; spec/11 R308). -/
  fenced : Nat
  /-- WREJ of DSTAT (spec/20 R442). -/
  wrej : Bool
deriving DecidableEq, Repr

/-- A watchpoint that fired (spec/20 R449): the issuer, its position, the register number, the address, the access, and the 8 bytes once performed. -/
structure WatchHit where
  party : Party
  pc : Nat
  n : Nat
  addr : Nat
  access : Nat
  value : Option Nat
deriving DecidableEq, Repr

/-- The ports a bundle takes (spec/04 R117): its slots as a mask, the s registers it writes, and the clusters whose cross-cluster port it uses. -/
structure Ports where
  slots : Nat
  swrites : Nat
  cross : List Nat
deriving DecidableEq, Repr

/-- What issued on a lane group in a cycle, for the sample records (spec/20 R451). -/
structure Issued where
  cycle : Nat
  /-- The key of its register table. -/
  key : Nat
  wid : Nat
  bid : Nat
  path : Nat
  pc : Nat
  mask : Nat
  tag : Nat
deriving DecidableEq, Repr

/-- A lane group (spec/01 R21; spec/09 R257 to R264; spec/19 R437; spec/22 R472). -/
structure Group where
  mode : GroupMode
  /-- The creation count (spec/09 R257). -/
  created : Nat
  /-- The warp slot whose context runs (spec/09 R261). -/
  running : Option Nat
  /-- Pending service requests, oldest first (spec/19 R437). -/
  requests : List Nat
  /-- Issue slots of the present service run; none when no service runs. -/
  service : Option Nat
  /-- Bundles a watchpoint predicate has issued from POFF; none before it is reached (spec/20 R449). -/
  predicate : Option Nat
  /-- DEADLINE.COUNT while a request is pending (spec/01 R41; spec/19 R439). -/
  deadline : Option Nat
  /-- A forced yield is due (spec/19 R439). -/
  forced : Bool
  /-- Watchpoints whose predicate has not been evaluated, oldest first (spec/20 R449). -/
  hits : List WatchHit
  /-- The leaves of the top-down tree over the ticks that have ended, but for IDLE, which is what the others leave (spec/22 R470 to R472), and the units
  that items of the present tick have taken. -/
  leaves : Tbl Nat
  units : Tbl Nat
  /-- Arithmetic cycle before which scratchpad conflict cycles last (spec/22 R471). -/
  bankUntil : Nat
  /-- Scheduler-decision and ordering records written (spec/22 R475, R476). -/
  decisions : Tbl Nat
  /-- MODEL: 1 more than the cycles in which the SIMT side, the primary stream, the secondary stream, a bundle with a present slot, and the service
  context last issued. -/
  issuedSimt : Nat
  issuedPrimary : Nat
  issuedSecondary : Nat
  issuedBundle : Nat
  issuedService : Nat
  /-- The ports of the primary's item of that cycle (spec/04 R117). -/
  ports : Ports
  /-- The last item issued. -/
  issuer : Issued
  /-- Samples are numbered with the records of no warp when none issued (spec/20 R451). -/
  sampled : Nat
deriving DecidableEq, Repr

/-- A matrix sequencer (spec/08 R217, R218). -/
structure Sequencer where
  block : Nat
  s : Tbl Word64
  pc : Nat
  wait : Wait
  synced : Option Nat
  rings : List Cursor
  keys : Keys
  committed : Nat
  acquired : Nat
  joined : Nat
  logged : Nat
  tried : Nat
deriving DecidableEq, Repr

/-- The type tag of half a B slot (spec/13 R344). -/
inductive SlotTag where
  | none
  | ty (t : Ty)
  | panel
deriving DecidableEq, Repr

/-- A ladder group as the panel holds it: permutation, differences, base, scale exponent or the derived unit (spec/02 R54, R55; spec/08 R222, R223). -/
structure Panel where
  invalid : Bool
  perm : List Nat
  diffs : List Int
  /-- The base b as m 2^e. -/
  baseM : Int
  baseE : Int
  /-- The unit of the differences is 2^unit. -/
  unitE : Int
  /-- The record of a stored group. -/
  raw : Option (BitVec 768)
deriving DecidableEq, Repr

/-- An operation of the matrix engine (spec/13 R346), with the operands read at its issue. -/
inductive EngOp where
  | mload (global : Bool) (ty : Ty) (addr slot half stride : Nat)
  | mperm (global : Bool) (ty : Ty) (addr slot : Nat)
  | mzero (tile : Nat) (pair : Bool)
  | mma (code addr slot half tile : Nat)
  | mladr (ty : Ty) (addr slot tile : Nat)
  | mscale (addr : Option Nat)
  | mdrain (global add : Bool) (df addr stride tile kind : Nat)
deriving DecidableEq, Repr

/-- A queued operation: its position in the stream, the address of its word, and its deterministic-mode key. -/
structure EngEntry where
  id : Nat
  pc : Nat
  op : EngOp
  key : Option (List Nat)
  reserved1 : Bool
deriving DecidableEq, Repr

/-- A translation held in a TLB: partition, first page address, page bytes, physical page, permissions, cache attribute (spec/19 R425). -/
structure TlbEntry where
  partition : Nat
  va : Nat
  size : Nat
  pa : Nat
  r : Bool
  w : Bool
  x : Bool
  cow : Bool
  cache : Nat
deriving DecidableEq, Repr

/-- A running operation: its entries, several for a ladder pass (spec/13 R351), the arithmetic cycle from which it may complete, the scratchpad image
each entry read as it started (R345), the pages of its global operand, whether its writes have been made, and the accesses to peers it waits for. -/
structure EngRun where
  entries : List EngEntry
  ends : Nat
  images : List (List Byte)
  pages : List TlbEntry
  moved : Bool
  remote : List Nat
  /-- Units of a drain's destination that are written already: 16-byte granules, or lines of an add-on-store (spec/08 R230; spec/13 R353). -/
  done : List Nat
  /-- Bytes of global memory that it has read before the rest, by physical address (spec/11 R299). -/
  got : List (Nat × Byte)
deriving DecidableEq, Repr

/-- The matrix engine of a core (spec/08 R217 to R234; spec/13). -/
structure Engine where
  /-- Accumulator tiles t0 to t7 (spec/01 R42). -/
  tiles : Tbl TileBits
  /-- Rung registers, one for each output column (spec/01 R42; spec/13 R349, R352). -/
  rungs : Tbl Word64
  /-- Packed images of B slots (spec/13 R344). -/
  slots : Tbl (BitVec 65536)
  /-- Tags by half: key 2 x slot + half. -/
  tags : Tbl SlotTag
  /-- Panels: key 128 x slot pair + column. -/
  panels : Tbl Panel
  /-- The codebook table through which a cb2 half was decoded, by half (spec/08 R221). -/
  books : Tbl (BitVec 8192)
  /-- The scale image of MSCALE; none when off (spec/08 R227). -/
  scale : Option (BitVec 5120)
  queue : List EngEntry
  load : Option EngRun
  compute : Option EngRun
  drain : Option EngRun
  /-- Position of the next f6e3 MMA in its run, and the cycle in which the last one completes (spec/13 R348). -/
  f6pos : Nat
  f6end : Nat
  issued : Nat
deriving DecidableEq, Repr

/-- A command of a core's copy buffer, waiting or moving, with its key, its batch and its issuer (spec/12 R337, R342; spec/07 R212, R215). -/
structure CopyCmd where
  /-- The command block, or the codebook-table address of a CTABLE (spec/12 R324; spec/07 R215). -/
  block : Option (BitVec 2048)
  tableVa : Nat
  time : Nat
  arrival : Nat
  group : Nat
  slot : Nat
  age : Nat
  batch : Nat
  launch : Nat
  blockKey : Nat
  pc : Nat
  moving : Bool
  /-- Waits in the replay buffer to be translated (spec/12 R338). -/
  held : Bool
  /-- The stencil or codebook table, read as the command started (spec/12 R330, R332). -/
  table : Option (BitVec 8192)
  /-- Arithmetic cycle from which it may finish, 0 until its pages have translated, and whether its elements have moved (R338). -/
  ends : Nat
  moved : Bool
  /-- The pages it reads and writes, once they have translated. -/
  pages : List TlbEntry
  wpages : List TlbEntry
  flags : Nat
  /-- It started before its block had loaded any codebook table (spec/12 R330). -/
  bare : Bool
  /-- What it has read so far: point, address and byte; and the bytes of points it has written (spec/11 R312; spec/12 R338). -/
  got : List (Nat × Nat × Byte)
  put : List (Nat × Nat)
  /-- Accesses to peers it waits for (spec/18 R415). -/
  remote : List Nat
  reserved1 : Bool
  /-- Its issuer ran its handler: it writes no records (spec/22 R474). -/
  quiet : Bool
  /-- The code of its issuer in ordering records (spec/22 R476). -/
  code : Nat
  /-- The path of its issuer, and whether it issued in VLIW (spec/12 R341). -/
  path : Nat
  inVliw : Bool
  /-- Its issuer for good, and the serial number at its entry: it reads after the accesses issued before it (spec/11 R312). -/
  agent : Nat × Nat × Nat
  after : Nat
deriving DecidableEq, Repr

/-- A CPY or CTABLE that waits for room, in the order of beginning to wait (spec/07 R211). -/
structure CopyWaiter where
  group : Nat
  slot : Nat
  path : Nat
deriving DecidableEq, Repr

/-- How a variable-latency result reaches its registers: nowhere, an s register, or physical row `n`, `width` bits per lane. -/
inductive Dest where
  | none
  | sreg (n : Nat)
  | row (n : Nat) (width : Nat)
  /-- `count` rows moved by LDSX, whole slots. -/
  | rows (l : List Nat)
deriving DecidableEq, Repr

/-- One lane of an access: lane number, address, byte count, and the data or operands it carries. -/
structure LaneAcc where
  lane : Nat
  addr : Nat
  size : Nat
  data : Nat
  data2 : Nat
  /-- Bit offset of the lane's result in its destination row. -/
  off : Nat
deriving DecidableEq, Repr

/-- What an access does when it is performed. -/
inductive AccKind where
  | load (signed : Bool)
  | store
  | atom (op : Nat) (wide : Bool)
  | cas (wide : Bool)
  /-- An add-on-store's elements in peer memory, with the drain's format and kind (spec/18 R414). -/
  | addOn (df kind : Nat)
  /-- LDB and STB by record index (spec/10 R288); `word` when one word is moved. -/
  | ldb (index : Nat) (word : Bool)
  | stb (index : Nat) (word : Bool)
  | ula (list : Nat)
  | sqLd (off : Nat)
  | sqSt (off : Nat)
  | sqHist
  | sqCinc
  | sqCget
  | sqAcc (stage : Nat)
  /-- Scratchpad actions that wait for full granules (spec/07 R193). -/
  | take (signed : Bool)
  | peek (signed : Bool)
  | sftload (bank : Nat)
  /-- LAUNCH: the record is read, then copied into the reserved entry (spec/09 R266). -/
  | launchRead (entry : Nat)
  | launchCopy (entry : Nat)
  /-- LPCALL's read of word 1 of a record, and SQBIND's write of it (spec/14 R367; spec/11 R309). -/
  | call
  | bind
deriving DecidableEq, Repr

/-- An access that has been issued and is not yet performed or returned (spec/11 R300; spec/07 R190). -/
structure Access where
  id : Nat
  core : Nat
  /-- The issuer; none for a copy command or a drain that writes to a peer. -/
  party : Option Party
  launch : Nat
  partition : Nat
  pc : Nat
  kind : AccKind
  /-- ORD of LD and ST: 0 plain, 1 to 6 the scopes from .warp to .sys (spec/07 R196). -/
  ord : Nat
  /-- Acts on the scratchpad of the core; lane addresses are then bytes of the core's store. -/
  scratch : Bool
  lanes : List LaneAcc
  /-- Byte ranges it touches, first address and length; none until its buffer record has been read. -/
  spans : Option (List (Nat × Nat))
  dest : Dest
  /-- Registers pending for it (spec/04 R115). -/
  pend : List RegId
  /-- Every page it touches has translated; until then it waits in the replay buffer (spec/19 R427). -/
  ready : Bool
  pages : List TlbEntry
  /-- The buffer record and its scale record once LDB or STB has read them (spec/10 R288). -/
  recs : Option (BitVec 320 × BitVec 320)
  key : Option (List Nat)
  /-- Counts in the launch slot of its core (spec/09 R268). -/
  counted : Bool
  /-- When it left for a peer over Runner (spec/18 R415). -/
  sent : Option Nat
  /-- Ordering records reserved for it, and the record of its replay order (spec/22 R474, R475). -/
  reserved : Nat
  reserved1 : Bool
  /-- Its issuer ran its handler or was a service context: it writes no records of kinds 1 and 2 (spec/22 R474). -/
  quiet : Bool
  /-- A watchpoint fired on it: it is performed at .sys (spec/20 R449). -/
  watched : Bool
  /-- The code of the issuer in ordering records (spec/22 R476). -/
  code : Nat
  /-- The issuer for good, by launch, bid and warp number, 64 for a sequencer: it stands when the party has ended (spec/07 R190). None for a copy command
  or a drain. -/
  agent : Option (Nat × Nat × Nat)
  /-- The issuer's `joined` and `fenced` as it issued (spec/11 R303, R308). -/
  joined : Nat
  after : Nat
  /-- The scope, as an ORD code, of a FENCE.acq or .ar that follows it in its own bundle (spec/11 R298, R308). -/
  fence : Option Nat
  /-- It has entered the core's memory pipeline, which forwards a store to the core's later loads (spec/11 R300). -/
  piped : Bool
  /-- The parts performed so far: lane place in the list, byte address, and for a load the byte bound, for an atomic the old value, at address 0
  (spec/11 R299, R309). -/
  done : List (Nat × Nat × Nat)
deriving DecidableEq, Repr

/-- What waits in a replay-buffer entry (spec/19 R427). -/
inductive ReplayItem where
  | access (id : Nat)
  /-- A fetch, or a read an instruction makes before it issues. -/
  | fetch (party : Party) (va : Nat) (code : Bool)
  | copy (arrival : Nat)
  | engine (id : Nat)
deriving DecidableEq, Repr

/-- A replay-buffer entry: the item, the partition, and the value of REV at its last walk (spec/19 R429). -/
structure ReplayEntry where
  item : ReplayItem
  partition : Nat
  rev : Nat
  /-- Its retries write no record, its issuer having run its handler (spec/22 R474); room for the record of a fetch's retry is reserved (R475). -/
  quiet : Bool
  room : Bool
deriving DecidableEq, Repr

/-- A line of a core's L1: its bytes, the serial number of its fill, and whether it is evicted first (spec/10 R280; spec/11 R301). -/
structure L1Line where
  data : BitVec 512
  filled : Nat
  stream : Bool
deriving DecidableEq, Repr

/-- A transformed tile (spec/10 R294): the line of its elements, the record, its scale record, the block and generation of the codebook, and what it was
built from, by line: its own line, the line in which its last element ends, and scale lines. -/
structure Tile where
  line : Nat
  record : BitVec 320
  scaleRecord : BitVec 320
  block : Nat
  generation : Nat
  lines : Tbl (BitVec 512)
  /-- The L1 lines that its delivered elements fill. -/
  room : Nat
deriving DecidableEq, Repr

/-- An SFTLOAD that has issued and not yet written its bank (spec/06 R183): its bank, its issuer, and its read of the table. -/
structure SftLoad where
  bank : Nat
  party : Party
  access : Nat
  /-- Its first wait is over: no other resident warp was bound to the bank. -/
  free : Bool
deriving DecidableEq, Repr

/-- The debug registers of a core, reached through the debug window (spec/20 R445, R448, R450). -/
structure CoreDebug where
  breaks : Tbl (BitVec 256)
  watches : Tbl (BitVec 256)
  dctl : Word64
  /-- MODEL: 1 more than the cycle of the last sample (spec/20 R451). -/
  sampled : Nat
deriving DecidableEq, Repr

/-- A store to a byte of a line that a core's fetch holds (spec/10 R275): the value, the core and the issuer that stored it, and whether a FENCE.acq has
covered it since, and a CINV.all of the core followed it. -/
structure CodeStore where
  pa : Nat
  value : Byte
  core : Option Nat
  agent : Option (Nat × Nat × Nat)
  covered : Bool
  dropped : Bool
deriving DecidableEq, Repr

/-- A core (spec/00 R1). Scratchpad bytes are held by 16-byte granule; an absent entry is zero, or empty for a full/empty bit (spec/10 R276). -/
structure Core where
  scratch : Tbl (BitVec 128)
  full : Tbl Bool
  bank0 : BitVec 8192
  bank1 : BitVec 8192
  sft : List SftLoad
  locked : BitVec 131072
  l1 : Tbl L1Line
  tiles : List Tile
  /-- Lines the core's fetch has read (spec/10 R275), and the stores to them that it does not see yet, oldest first. -/
  icache : Tbl (BitVec 512)
  code : List CodeStore
  tlb : List TlbEntry
  replay : List ReplayEntry
  /-- Items that miss while the replay buffer is full, oldest first (spec/19 R427). -/
  replayWait : List ReplayEntry
  copies : List CopyCmd
  copyWait : List CopyWaiter
  arrivals : Nat
  /-- MODEL: 1 more than the cycle in which a command last started, one in each cycle (spec/12 R337). -/
  copyStart : Nat
  engine : Engine
  seq : Option Sequencer
  /-- WAKEREASON (spec/01 R39). -/
  wakeStamp : Nat
  wakeCause : Nat
  gated : Bool
  /-- The cause of the first event that made a waiter of the gated core ready (spec/19 R431). -/
  woken : List Nat
  /-- Arithmetic cycle count before which a woken core does not issue (spec/19 R431). -/
  wakeAt : Nat
  /-- Reference cycles in which the core's arithmetic clock did not run (spec/08 R239; spec/21 R457). -/
  lost : Nat
  /-- Those of them in which it was gated and its engines ran on (spec/19 R431). -/
  lostGated : Nat
  /-- Clock step: 0 full rate (spec/21 R457). -/
  clock : Nat
  /-- Outstanding counters by launch (spec/09 R268). -/
  launches : Tbl Nat
  dbg : CoreDebug
deriving DecidableEq, Repr

/-- A barrier: members, arrived members, phase (spec/07 R204). Members are keys: 65 x bid + warp number, 64 for the sequencer. -/
structure Barrier where
  declared : Bool
  members : List Nat
  arrived : List Nat
  phase : Nat
deriving DecidableEq, Repr

/-- A stage ring (spec/09 R251). -/
structure Ring where
  base : Nat
  depth : Nat
  producers : List Nat
  consumers : List Nat
deriving DecidableEq, Repr

/-- A placed block (spec/09 R254). -/
structure Block where
  launch : Nat
  bid : Nat
  core : Nat
  /-- First byte of the region in the core's store, and its size (spec/10 R276). -/
  base : Nat
  size : Nat
  barriers : Tbl Barrier
  rings : Tbl Ring
  /-- The codebook table and its generation (spec/07 R215; spec/10 R294). -/
  table : BitVec 8192
  generation : Nat
  /-- A CTABLE has loaded the table (spec/12 R330). -/
  loaded : Bool
  /-- Warp numbers not yet ended, 64 for the sequencer. -/
  live : List Nat
  /-- The last acquire at .cluster or wider among its parties, ended ones too (spec/11 R303, R305). -/
  acquired : Nat
deriving DecidableEq, Repr

/-- Why a launch ends early (spec/09 R270). -/
structure LaunchEnd where
  status : Nat
  detail : Nat
  trap : BitVec 256
deriving DecidableEq, Repr

/-- A launch known to the launch scheduler (spec/09 R250 to R274). -/
structure Launch where
  record : BitVec 1024
  partition : Nat
  queue : LaunchQueue
  qseq : Nat
  arrived : Nat
  /-- Admission number in the partition (spec/11 R320). -/
  number : Nat
  membership : BitVec 4608
  nextBid : Nat
  retired : Nat
  cbarriers : Tbl Barrier
  gbarriers : Tbl Barrier
  ended : Option LaunchEnd
  /-- Its command asks for a vector (spec/18 R403). -/
  irq : Bool
  /-- The completion's write waits for a change of REV from this value (spec/09 R269). -/
  blocked : Option Nat
deriving DecidableEq, Repr

/-- A record at the head of a queue, or behind it (spec/09 R271, R274). -/
structure Pending where
  record : BitVec 1024
  qseq : Nat
  arrived : Nat
  /-- When all its waits were first met (spec/09 R274). -/
  metAt : Option Nat
  aged : Option Nat
  /-- The launch it was admitted as. -/
  launch : Option Nat
  /-- Admission waits for a change of REV from this value (spec/09 R481). -/
  blocked : Option Nat
  /-- Ticks that do not count towards aging, its partition being SAVED (spec/09 R274). -/
  idle : Nat
  /-- Its command asks for a vector (spec/18 R403). -/
  irq : Bool
  /-- The partition it serves: QCTL.PART as it was consumed, or that of the device-side queue. -/
  partition : Nat
deriving DecidableEq, Repr

/-- A job: launches counted (spec/09 R269). -/
structure Job where
  partition : Nat
  tag : Nat
  count : Nat
deriving DecidableEq, Repr

/-- The launch scheduler (spec/09 R271). -/
structure Scheduler where
  launches : Tbl Launch
  nextLaunch : Nat
  blocks : Tbl Block
  nextBlock : Nat
  jobs : List Job
  counters : Tbl Nat
  /-- Queue served last, by priority (spec/09 R271). -/
  served : Tbl Nat
  /-- Heads and records behind them, by queue: host queue q is key q, partition p's device-side queue key 64 + p. -/
  queues : Tbl (List Pending)
deriving DecidableEq, Repr

/-- The state of a partition (spec/19 R430). -/
inductive PartState where
  | none | active | saved
deriving DecidableEq, Repr

/-- A device-side launch queue (spec/09 R265 to R267). -/
structure DeviceQueue where
  addr : Nat
  dlog : Nat
  rsv : Nat
  head : Nat
  tmax : Nat
  /-- Tail notifies sent and not yet taken (spec/09 R266, R267). -/
  notes : List Nat
deriving DecidableEq, Repr

/-- A log buffer (spec/22 R473). -/
structure LogBuffer where
  pa : Nat
  bytes : Nat
  wp : Nat
  reserved : Nat
  /-- Records for which something waits at a slice, until the device rereads RP and finds room; 0 when nothing waits (spec/22 R476). -/
  wanted : Nat
deriving DecidableEq, Repr

/-- What a saved partition holds beside its launches: its warps, cores and blocks under their old keys (spec/19 R433). -/
structure Shadow where
  warps : Tbl Warp
  cores : Tbl Core
  groups : Tbl Group
  accs : List Access
  blocks : Tbl Block
deriving DecidableEq, Repr

/-- A partition (spec/19 R416, R430). -/
structure Partition where
  state : PartState
  /-- Halting for a save, with the set to resume on for PARTITION op 4 (spec/19 R432). -/
  halting : Bool
  target : Option Nat
  /-- The host queue whose PARTITION command is being performed. -/
  byQueue : Nat
  set : Nat
  desc : BitVec 512
  detmode : Bool
  cgate : Bool
  /-- Fault records written since create (spec/19 R428). -/
  faults : Nat
  /-- Faults already posted: core, page, REV (spec/19 R428). -/
  posted : List (Nat × Nat × Nat)
  device : Option DeviceQueue
  logs : Tbl LogBuffer
  admitted : Nat
  shadow : Option Shadow
  /-- When it was saved (spec/09 R274). -/
  savedAt : Nat
  /-- The trap that caused the discard in progress, with its launch and whether it is the first (spec/19 R420). -/
  discarding : Option (Nat × BitVec 256)
deriving DecidableEq, Repr

/-- The weight store, power and memory state of a die (spec/10 R283; spec/21; spec/22). -/
structure Die where
  /-- The weight store is in WRITE state (spec/10 R283). -/
  wsWrite : Bool
  /-- Pending WSMODE requests: host queue and state asked for, in order of consumption. -/
  wsReq : List (Nat × Bool)
  pantryMiB : Nat
  tlb : List TlbEntry
  /-- Thermal state, last temperature, measured energy of the last window, energy credit and over-budget windows (spec/21 R459, R460). -/
  thermal : Nat
  temperature : Nat
  energy : Nat
  overWindows : Nat
  /-- Windows whose start it has processed (spec/21 R459). -/
  window : Nat
  /-- Error counts by class: correctable and uncorrectable (spec/22 R465). -/
  ce : Tbl Nat
  ue : Tbl Nat
  /-- Spare cores taken: logical core to physical core (spec/22 R468). -/
  spares : Tbl Nat
  failed : List Nat
  spareErr : Bool
  spareLogical : Nat
  sparePhys : Nat
  /-- Weight-store banks replaced, banks in which a row repair found no spare row, and 4 KiB units of them moved so far; DRAM rows repaired
  (spec/22 R467). -/
  banks : List Nat
  worn : List Nat
  bankMoved : Tbl Nat
  rows : List Nat
  refreshing : Option Nat
deriving DecidableEq, Repr

/-- A host queue (spec/18 R399, R404 to R408). -/
structure HostQueue where
  base : Nat
  en : Bool
  err : Bool
  part : Nat
  dlog : Nat
  tail : Nat
  head : Nat
  consumed : Nat
  completed : Nat
  errcode : Nat
  /-- The consumed command that is being performed: its 256-byte entry (spec/18 R405, R407). -/
  current : Option (BitVec 2048)
  /-- The partition it serves and its arrival: QCTL.PART and ccnt as it was consumed (spec/09 R274; spec/18 R405). -/
  serves : Nat
  arrived : Nat
  /-- Sequence numbers completed out of order (spec/18 R408). -/
  done : List Nat
  /-- SIGNAL on a TEV: the serial number before which accesses must have been performed, once translations are invalidated (spec/19 R426). -/
  mark : Option Nat
  /-- HCOPY: under way; its bytes have moved; the accesses to peers it waits for. -/
  copying : Bool
  moved : Bool
  remote : List Nat
  /-- Bytes of the HCOPY that have moved before the rest, by place in its range (spec/11 R299). -/
  ahead : List Nat
deriving DecidableEq, Repr

/-- What follows a write or an addition that is not performed yet: the access that carries it, the serial number before which accesses through
invalidated translations must have been performed, the addition to an event counter, and the command of a queue that completes then, with its IRQ
(spec/09 R269; spec/18 R408; spec/19 R426). -/
structure Closing where
  access : Option Nat
  before : Nat
  signal : Option (Nat × Nat)
  command : Option (Nat × Nat × Bool)
deriving DecidableEq, Repr

/-- Host attachment and Runner links (spec/18). -/
structure HostSide where
  owner : Nat
  expiry : Nat
  leased : Bool
  warned : Bool
  cseqLast : Nat
  winbase : Nat
  bar2Bytes : Nat
  wsdrop : Nat
  queues : Tbl HostQueue
  mirror : Tbl (BitVec 128)
  routes : Tbl Word64
  /-- Route entries that writes replaced while accesses issued before waited to be translated: the serial number at the write, the entry, its old value
  (spec/18 R413). -/
  oldRoutes : List (Nat × Nat × Word64)
  /-- What is still to follow of completions and fault records. -/
  closing : List Closing
  /-- MSI-X vectors sent, oldest first (spec/18 R412). -/
  msix : List Nat
  /-- Runner lanes: port to spared or halved (spec/22 R467). -/
  lanes : Tbl Nat
  /-- MODEL: what the last BAR2 read of a host returned; none when it met an uncorrectable error (spec/18 R398; spec/22 R463). -/
  read : Option (List Byte)
deriving DecidableEq, Repr

/-- Boot and configuration (spec/21 R452 to R456). -/
structure Boot where
  /-- The configuration image in module flash; the rollback counter and the public-key hash fused into die 0 (spec/21 R453). -/
  flash : List Byte
  fuse : Nat
  keyHash : BitVec 384
  code : Nat
  version : Nat
  descBase : Nat
  ageLimit : Nat
  /-- BUD in W, RATE0 to RATE3 in 0.25 W, TH1 to TH3 in 0.25 degrees (spec/21 R454). -/
  bud : Nat
  rates : List Nat
  thresholds : List Nat
deriving DecidableEq, Repr

/-- Reliability state of the module (spec/22). -/
structure Ras where
  /-- Lines whose data is lost (spec/22 R463), and latent errors: line and whether uncorrectable (R462). -/
  poison : List Nat
  upsets : List (Nat × Bool)
  /-- Lines that have met an uncorrectable error since their row was repaired; the patrol pass and the lines that have met correctable ones in it, an entry
  for each (spec/22 R467). -/
  rowUes : List Nat
  rowPass : Nat
  rowCes : List Nat
  /-- Records of the RAS ring, oldest first, and the count of all records (spec/22 R466). -/
  ring : Tbl (BitVec 256)
  last : Nat
  ceShift : Nat
  /-- Far-memory pairs: state, units moved, present (spec/22 R469). -/
  farState : Tbl Nat
  farMoved : Tbl Nat
  farAbsent : Tbl Bool
  /-- Pairs whose module was removed in a state other than DRAINED (spec/22 R469). -/
  farLost : Tbl Bool
  /-- The top-down snapshot: taken, and the counters by group (spec/22 R472). -/
  snap : Bool
  /-- TDCTL.LIVE: set by a 1 written to it. -/
  live : Bool
  snapshot : Tbl (Tbl Nat)
  /-- The ccnt at which the counters were last cleared, and CYCLES of the snapshot. -/
  tdStart : Nat
  tdCycles : Nat
  /-- Last recorded party of a line, for the ordering log (spec/22 R476). -/
  lastParty : Tbl Nat
  /-- Ordering records written by each slice: key 64 x die + slice (spec/22 R475, R476). -/
  sliceSeq : Tbl Nat
deriving DecidableEq, Repr

/-- MODEL: who issues, and where the item stands. -/
structure Cur where
  party : Party
  /-- The view the item issues in; a slot when it is an operation of a bundle. -/
  slot : Option Slot
  pc : Nat
  next : Nat
  /-- The header of the bundle, for YIELD and STALL. -/
  header : Word64
  /-- The item came from the locked instruction store. -/
  locked : Bool
deriving DecidableEq, Repr

/-- A part of what an event of the table does, which may be performed by itself before the rest. -/
inductive Part where
  /-- A store enters its core's memory pipeline (spec/11 R300). -/
  | pipe (id : Nat)
  /-- The bytes of an access that are performed with byte `va` of the lane at place `lane` of its list (spec/11 R299, R309). -/
  | access (id lane va : Nat)
  /-- A copy command reads the byte at `va` for one of its points, or writes the byte at `va` of one, the whole point when it is aligned
  (spec/11 R299, R312). -/
  | copyRead (core arrival point va : Nat)
  | copyWrite (core arrival point va : Nat)
  /-- A drain writes a 16-byte granule of its destination, an add-on-store a line (spec/08 R230; spec/13 R353). -/
  | drain (core unit : Nat)
  /-- An engine operation reads the byte at `pa`, of what runs on one of its paths (spec/11 R299). -/
  | engineRead (core path pa : Nat)
  /-- A plain scratchpad load that is in flight reads byte `byte` of lane `lane` again, the whole lane when it is aligned (spec/11 R299). -/
  | scratchRead (key result lane byte : Nat)
  /-- HCOPY moves the byte at place `i` of its range (spec/11 R299; spec/18 R406). -/
  | hcopy (q i : Nat)
deriving DecidableEq, Repr

/-- An input from outside the module that no row of the table names. -/
inductive Outside where
  /-- The host sets the size of BAR2 (spec/18 R396, R398). -/
  | bar2 (bytes : Nat)
  /-- The host refuses an AtomicOp (spec/18 R397). -/
  | refuseAtomic (id : Nat)
  /-- A line of memory is upset: it holds a correctable error, or one that is not (spec/22 R462). -/
  | upset (line : Nat) (hard : Bool)
  /-- A party meets an error in an array that is no memory: class 0 to 3 of spec/22 R462. -/
  | arrayError (p : Party) (cls : Nat) (hard : Bool)
  /-- A copy command meets one in the scratchpad (spec/12 R341; spec/22 R462). -/
  | copyError (core arrival va : Nat) (hard : Bool)
  /-- A host reads bytes at a BAR2 offset (spec/18 R398). -/
  | bar2Read (port offset n : Nat)
deriving DecidableEq, Repr

/-- MODEL: an entry of the agenda, which fixes the choices the spec leaves open: an event to take, a party to try, a part of an event, an input from
outside, or the end of the cycle. -/
inductive Choice where
  | event (i : Instr)
  | issue (p : Party)
  /-- As `issue`, but a plain scratchpad store is left to be performed part by part (spec/11 R299, R310). -/
  | torn (p : Party)
  | part (p : Part)
  | input (x : Outside)
  | tick
deriving DecidableEq, Repr

/-- Why the machine stops. No step of the model stops with a fault. -/
inductive Fault where
  /-- Raised by nobody: every stop of the spec is a trap, a wait, a rejection or a record, and a trap is a next state. Safe. -/
  | unreachable
deriving DecidableEq, Repr

/-- Why an instruction has no meaning. -/
inductive Refusal where
  /-- The instruction is not modelled yet; raised by its arm in Dispatch. Safe. -/
  | notModelled (mnemonic : String)
deriving DecidableEq, Repr

/-- The state of the module. -/
structure State where
  /-- The chip-wide counter (spec/00 R4). -/
  ccnt : Nat
  /-- Module reset has been released and the image applied (spec/21 R452, R455): BOOTSTAT and the configuration. -/
  boot : Boot
  /-- Memory by physical address: rising addresses, no zero bytes (spec/10 R281). -/
  mem : List Host.Cell
  warps : Tbl Warp
  groups : Tbl Group
  cores : Tbl Core
  sched : Scheduler
  parts : Tbl Partition
  dies : Tbl Die
  host : HostSide
  ras : Ras
  /-- Accesses issued and not performed, in issue order (spec/11 R300). -/
  accs : List Access
  /-- Serial number of the next access, fill or acquire. -/
  serial : Nat
  /-- Writes of the module's own units (records of every kind, and header words) that wait for a refresh window, oldest first: physical address and bytes
  (spec/10 R285). -/
  late : List (Nat × List Byte)
  /-- MODEL. -/
  agenda : List Choice
  cur : Option Cur
  torn : Bool
deriving DecidableEq, Repr

namespace State

/-- An engine with nothing loaded (spec/08 R217). -/
def engine0 : Engine :=
  { tiles := [], rungs := [], slots := [], tags := [], panels := [], books := [], scale := none, queue := [], load := none, compute := none, drain := none,
    f6pos := 0, f6end := 0, issued := 0 }

/-- A core after reset (spec/21 R452; spec/06 R180). -/
def core0 : Core :=
  { scratch := [], full := [], bank0 := 0, bank1 := 0, sft := [], locked := 0, l1 := [], tiles := [], icache := [], code := [], tlb := [], replay := [],
    replayWait := [], copies := [], copyWait := [], arrivals := 0, copyStart := 0, engine := engine0, seq := none, wakeStamp := 0, wakeCause := 0, gated := false, woken := [],
    wakeAt := 0, lost := 0, lostGated := 0, clock := 0, launches := [], dbg := { breaks := [], watches := [], dctl := 0, sampled := 0 } }

/-- A lane group after reset (spec/01 R41; spec/22 R472). -/
def group0 : Group :=
  { mode := .empty, created := 0, running := none, requests := [], service := none, predicate := none, deadline := none, forced := false, hits := [], leaves := [], units := [],
    bankUntil := 0, decisions := [], issuedSimt := 0, issuedPrimary := 0, issuedSecondary := 0, issuedBundle := 0, issuedService := 0, ports := ⟨0, 0, []⟩,
    issuer := ⟨0, 0, 0, 0, 0, 0, 0, 0⟩, sampled := 0 }

/-- Control and status registers at creation (spec/01 R23, R35 to R41). -/
def csrs0 : Csrs :=
  { satf := 0, rmode := 0, scbchk := false, rec0 := 0, rec1 := 0, rec2 := 0, rec3 := 0, sfbank := 0, logTag := 0, logEn := false, stallcnt := 0 }

/-- A path at its creation (spec/01 R23). -/
def path0 : Path :=
  { pc := 0, rpc := none, mask := 0, wait := .none, ready := 0, synced := none, slept := false, locked := false, released := false, held := false,
    steps := 0, stopDue := none, passed := 0, tried := 0 }

/-- A VLIW thread at its start (spec/01 R23). -/
def vliw0 : Vliw :=
  { ctx := none, pc := 0, loops := [], stall := 0, run := 0, ran := 0, yielded := false, jumped := false, wait := .none, hold := 0, synced := none, slept := false, locked := false,
    released := false, held := false, halting := .none, steps := 0, tried := 0 }

/-- A warp at its creation (spec/01 R23). -/
def warp0 : Warp :=
  { launch := 0, bid := 0, wid := 0, age := 0, role := .general, rows := 64, v := [], s := [], m := [], vrot := 0, mrot := 0, csr := csrs0, srseq := 0,
    committed := 0, paths := [], vliw := none, slots := 0, inflight := [], sealed := 0,
    rings := [⟨0, 0⟩, ⟨0, 0⟩, ⟨0, 0⟩, ⟨0, 0⟩], handler := none, lp := none, keys := ⟨0, 0, 0, 0⟩, logged := 0, active := false, waited := 0, swapped := none,
    lastPath := 0, acquired := 0, joined := 0, fenced := 0, wrej := false }

/-- A host queue after reset (spec/18 R399). -/
def queue0 : HostQueue :=
  { base := 0, en := false, err := false, part := 0, dlog := 4, tail := 0, head := 0, consumed := 0, completed := 0, errcode := 0, current := none, serves := 0, arrived := 0,
    done := [], mark := none, copying := false, moved := false, remote := [], ahead := [] }

/-- A partition that does not exist (spec/19 R430). -/
def part0 : Partition :=
  { state := .none, halting := false, target := none, byQueue := 0, set := 0, desc := 0, detmode := false, cgate := false, faults := 0, posted := [],
    device := none, logs := [], admitted := 0, shadow := none, savedAt := 0, discarding := none }

/-- A die after reset (spec/10 R283; spec/21 R459; spec/22 R465). -/
def die0 : Die :=
  { wsWrite := false, wsReq := [], pantryMiB := 0, tlb := [], thermal := 0, temperature := 0, energy := 0, overWindows := 0, window := 0, ce := [], ue := [],
    spares := [], failed := [], spareErr := false, spareLogical := 0, sparePhys := 0, banks := [], worn := [], bankMoved := [], rows := [], refreshing := none }

/-- The launch scheduler after reset (spec/09 R272). -/
def sched0 : Scheduler :=
  { launches := [], nextLaunch := 0, blocks := [], nextBlock := 0, jobs := [], counters := [], served := [], queues := [] }

/-- The host side after reset (spec/18 R399). -/
def host0 : HostSide :=
  { owner := 0, expiry := 0, leased := false, warned := false, cseqLast := 0, winbase := 0, bar2Bytes := 2 ^ 34, wsdrop := 0, queues := [], mirror := [],
    routes := [], oldRoutes := [], closing := [], msix := [], lanes := [], read := some [] }

/-- The state right after module reset is asserted: nothing has been read from the configuration image yet (spec/21 R452; log entry 6). -/
def reset : State :=
  { ccnt := 0
    boot := { flash := [], fuse := 0, keyHash := 0, code := 0, version := 0, descBase := 0, ageLimit := 3000000, bud := 600, rates := [8, 16, 24, 32],
              thresholds := [340, 380, 420] }
    mem := []
    warps := []
    groups := []
    cores := []
    sched := sched0
    parts := []
    dies := []
    host := host0
    ras := { poison := [], upsets := [], rowUes := [], rowPass := 0, rowCes := [], ring := [], last := 0, ceShift := 0, farState := [], farMoved := [], farAbsent := [], farLost := [], snap := false, live := false,
             snapshot := [], tdStart := 0, tdCycles := 0, lastParty := [], sliceSeq := [] }
    accs := []
    serial := 0
    late := []
    agenda := []
    torn := false
    cur := none }

end State

end Sys2Proof.Machine
end

