-- ==== Sys2Proof/Machine/BundleLegal.lean ====
section
/-!
DEFINITION. Whether a bundle is legal: a property of its bits and of its address (spec/03 R84, R85, R92, R93; spec/04 R117; spec/05 R143).
-/
namespace Sys2Proof.Machine

open Sys2Proof

/-- A bundle as it is read: its header, the words of its present slots, and its literal words, a pad word included (spec/03 R84). -/
structure BundleBits where
  header : Word64
  slots : List Word64
  pool : List Word32
deriving DecidableEq, Repr

/-- Bit of a slot in a slot mask: S0 is bit 10, P bit 0 (spec/01 R37). -/
def slotBit : Slot → Nat
  | .s0 => 1024 | .s1 => 512 | .v0 => 256 | .v1 => 128 | .v2 => 64 | .v3 => 32 | .f => 16 | .m0 => 8 | .m1 => 4 | .t => 2 | .p => 1

/-- The literal words of the pool, without the pad. -/
def BundleBits.lits (b : BundleBits) : List Word32 := b.pool.take (headerOf b.header).litn

/-- Each present slot with the fields of its word. -/
def BundleBits.ops (b : BundleBits) : List (Slot × Word64 × Raw) :=
  ((presentSlots (headerOf b.header).present).zip b.slots).map fun x => (x.1, x.2, rawOf x.2 b.lits)

/-- The form of a slot's word. -/
def slotForm (x : Slot × Word64 × Raw) : Option Form :=
  match formOf (.slot x.1) x.2.2.op x.2.2.ext.toNat (x.2.2.b.getD zeroOperand) with
  | .form f => some f
  | _ => none

/-- The registers a slot's operation writes, by name. -/
def slotWrites (x : Slot × Word64 × Raw) : List RegId :=
  match slotForm x with
  | none => []
  | some f =>
    (if f.d.used && f.d.isDst then
      match x.2.2.d with
      | some (.vec k n) => (List.range f.d.span).map fun i => .v (n.val + i) (2 ^ k.val)
      | some (.sreg n) => if n.val = 0 then [] else [.s n.val]
      | some (.mask i) => [.m i.val]
      | _ => []
     else []) ++
    (if x.2.2.op = 0xD6 ∧ x.2.2.ext.toNat % 4 = 1 then (List.range 8).map fun i => .m (8 + i) else []) ++
    (if x.2.2.op = 0xEC then [.s 1, .s 2, .s 3] else [])

/-- Whether two names share a register; a name is a row with its clusters, an s register, or a whole mask. -/
def sameReg : RegId → RegId → Bool
  | .v i a, .v j b => i == j && (a &&& b) != 0
  | .s i, .s j => i == j
  | .m i, .m j => i == j
  | _, _ => false

/-- The s-register destinations of a slot's operation. LPCALL's s1 to s3 are no destinations of an operand field (log entry 20). -/
def sWrites (x : Slot × Word64 × Raw) : Nat :=
  ((slotWrites x).filter fun r => match r with | .s _ => x.2.2.op != 0xEC | _ => false).length

/-- The clusters whose cross-cluster port a slot's operation uses, one for each read (spec/03 R85). -/
def crossReads (x : Slot × Word64 × Raw) : List Nat :=
  match slotForm x with
  | none => []
  | some f =>
    let read (y : Use × Option Operand) : Option (Use × Nat) := match y.2 with
      | some (.vec k _) => if y.1.used then some (y.1, k.val) else none
      | _ => none
    let reads := [(f.a, x.2.2.a), (f.b, x.2.2.b), (f.c, x.2.2.c)].filterMap read
    match x.1 with
    | .f | .m0 | .m1 => reads.map (·.2)
    | s => match slotCluster s with
      | some c => (reads.filter fun y => y.1.anyCluster && y.2 != c).map (·.2)
      | none => []

/-- Slots that write a register another slot writes too. -/
def doubleWrites (l : List (Slot × Word64 × Raw)) : Nat :=
  (l.filter fun x => l.any fun y => x.1 != y.1 && (slotWrites x).any fun r => (slotWrites y).any (sameReg r)).foldl (fun m x => m ||| slotBit x.1) 0

/-- Slots that take part in an oversubscribed cross-cluster port. -/
def overRead (l : List (Slot × Word64 × Raw)) : Nat :=
  let all := l.flatMap crossReads
  let busy := (List.range 4).filter fun c => decide (1 < (all.filter (· = c)).length)
  (l.filter fun x => (crossReads x).any busy.contains).foldl (fun m x => m ||| slotBit x.1) 0

/-- A LOOP.push whose END lies before its START (spec/05 R143); a literal outside the pool gives no END (spec/03 R92, bit 7). -/
def pushBackwards (addr : Nat) (b : BundleBits) (x : Slot × Word64 × Raw) : Bool :=
  x.2.2.op == 0xD6 && x.2.2.ext.toNat % 4 == 1 &&
  match x.2.2.toIWord with
  | none => false
  | some w =>
    let last : Option Nat := match w.b with
      | .small n => some (wrap 57 ((addr : Int) + 8 * smallInt n))
      | .lit true j => if j + 1 < w.lits.length then some (litRaw w true j % 2 ^ 57) else none
      | .lit false j => if j < w.lits.length then some (wrap 57 ((addr : Int) + sInt 32 (litRaw w false j))) else none
      | _ => none
    match last with
    | some e => decide (e < (addr + itemSize b.header) % 2 ^ 57)
    | none => false

/-- Every condition that makes a bundle illegal: its INFO bit and the slots that take part (spec/03 R92). -/
def bundleBad (addr rows : Nat) (b : BundleBits) : List (Nat × Nat) :=
  let h := headerOf b.header
  let l := b.ops
  (if headerBad b.header || (h.kind == 0 && (b.pool.drop h.litn).any (· != 0)) then [(0, 0)] else []) ++
  (if h.kind != 0 then []
   else
    (l.flatMap fun x =>
      ((violations (.slot x.1) rows x.2.2).map fun v => (v.infoBit, slotBit x.1)) ++
      (if wBit x.2.1 then [(5, slotBit x.1)] else []) ++ (if pushBackwards addr b x then [(10, slotBit x.1)] else [])) ++
    (if doubleWrites l != 0 then [(1, doubleWrites l)] else []) ++
    (if 2 < (l.map sWrites).sum then [(2, (l.filter fun x => sWrites x != 0).foldl (fun m x => m ||| slotBit x.1) 0)] else []) ++
    (if overRead l != 0 then [(3, overRead l)] else []))

/-- INFO and SLOTS of an illegal bundle. -/
def badInfo (l : List (Nat × Nat)) : Nat × Nat := (l.foldl (fun m x => m ||| 2 ^ x.1) 0, l.foldl (fun m x => m ||| x.2) 0)

end Sys2Proof.Machine
end

