-- ==== Sys2Proof/Machine/Fp.lean ====
section
/-!
DEFINITION. Floating-point formats, exact values, rounding, range and flags (spec/02 R44 to R62), the signs of zero sums and the choice of NaNs
(spec/06 R152, R153), conversions (R61, R47) and the sum of aligned products (spec/02 R66 to R68).
Patterns are natural numbers. A flag set is a number with the bits of SATF 3:0 (spec/01 R35).
-/
namespace Sys2Proof.Machine

open Sys2Proof

/-- How a format encodes infinities and NaNs (spec/02 R46). -/
inductive Specials where
  | ieee | nanOnly | none
deriving DecidableEq, Repr

/-- A floating-point format (spec/02 R44). -/
structure Fmt where
  width : Nat
  man : Nat
  bias : Nat
  specials : Specials
deriving DecidableEq, Repr

namespace Fmt

def f64 : Fmt := ⟨64, 52, 1023, .ieee⟩
def f32 : Fmt := ⟨32, 23, 127, .ieee⟩
def f16 : Fmt := ⟨16, 10, 15, .ieee⟩
def bf16 : Fmt := ⟨16, 7, 127, .ieee⟩
def f8e4 : Fmt := ⟨8, 3, 7, .nanOnly⟩
def f8e5 : Fmt := ⟨8, 2, 15, .ieee⟩
def f6e3 : Fmt := ⟨6, 2, 3, .none⟩
def f4e2 : Fmt := ⟨4, 1, 1, .none⟩

/-- The width of the exponent field. -/
def expWidth (f : Fmt) : Nat := f.width - 1 - f.man

/-- The magnitude bits of the largest finite value (spec/02 R46). -/
def maxMag (f : Fmt) : Nat :=
  match f.specials with
  | .ieee => (2 ^ f.expWidth - 1) * 2 ^ f.man - 1
  | .nanOnly => 2 ^ (f.width - 1) - 2
  | .none => 2 ^ (f.width - 1) - 1

/-- The magnitude bits of infinity, for the formats that have one. -/
def infMag (f : Fmt) : Nat := (2 ^ f.expWidth - 1) * 2 ^ f.man

/-- The canonical NaN (spec/02 R47); a format without NaN has +0 in its place (spec/02 R50). -/
def canonNaN (f : Fmt) : Nat :=
  match f.specials with
  | .ieee => f.infMag + 2 ^ (f.man - 1)
  | .nanOnly => 2 ^ (f.width - 1) - 1
  | .none => 0

/-- The sign bit in place. -/
def signBit (f : Fmt) (neg : Bool) : Nat := if neg then 2 ^ (f.width - 1) else 0

end Fmt

/-- The format of a float type; f32 for a type that is none. -/
def Fmt.ofTy : Ty → Fmt
  | .f64 => .f64 | .f32 => .f32 | .bf16 => .bf16 | .f16 => .f16
  | .f8e4 => .f8e4 | .f8e5 => .f8e5 | .f6e3 => .f6e3 | .f4e2 => .f4e2
  | _ => .f32

/-- The value of a pattern: `fin neg m e` is (-1)^neg m 2^e exactly. -/
inductive FVal where
  | nan
  | inf (neg : Bool)
  | fin (neg : Bool) (m : Nat) (e : Int)
deriving DecidableEq, Repr

/-- The sign bit of a pattern. -/
def fSign (f : Fmt) (x : Nat) : Bool := x.testBit (f.width - 1)

/-- The magnitude bits of a pattern. -/
def fMag (f : Fmt) (x : Nat) : Nat := x % 2 ^ (f.width - 1)

/-- Whether a pattern is a NaN (spec/02 R46). -/
def isNaN (f : Fmt) (x : Nat) : Bool :=
  match f.specials with
  | .ieee => decide (f.infMag < fMag f x)
  | .nanOnly => fMag f x == 2 ^ (f.width - 1) - 1
  | .none => false

/-- Whether a pattern is an infinity. -/
def isInf (f : Fmt) (x : Nat) : Bool :=
  match f.specials with
  | .ieee => fMag f x == f.infMag
  | _ => false

/-- The value of an encoding (spec/02 R45, R46). -/
def fDecode (f : Fmt) (x : Nat) : FVal :=
  if isNaN f x then .nan
  else if isInf f x then .inf (fSign f x)
  else
    let e := fMag f x >>> f.man
    let m := fMag f x % 2 ^ f.man
    if e = 0 then .fin (fSign f x) m (1 - (f.bias : Int) - f.man)
    else .fin (fSign f x) (m + 2 ^ f.man) ((e : Int) - f.bias - f.man)

/-- The five rounding modes (spec/02 R56). -/
inductive RMode where
  | rne | rz | ru | rd | sr
deriving DecidableEq, Repr

/-- The mode of an RMODE.MODE value (spec/01 R36). -/
def RMode.ofCode : Nat → RMode
  | 0 => .rne | 1 => .rz | 2 => .ru | 3 => .rd | _ => .sr

/-- SATF.SAT. -/
def flagSat : Nat := 1
/-- SATF.OVF. -/
def flagOvf : Nat := 2
/-- SATF.NAN. -/
def flagNan : Nat := 4
/-- SATF.POISON. -/
def flagPoison : Nat := 8

/-- A nonzero magnitude known exactly, or to lie strictly between `m 2^e` and `(m + 1) 2^e` when `sticky`. -/
structure Mag where
  neg : Bool
  m : Nat
  e : Int
  sticky : Bool
deriving DecidableEq, Repr

/-- Whether rounding to a multiple of 2^q goes away from zero, for magnitude `m 2^e` (spec/02 R56).
`rnd` is the element's random word; SR compares from the real lower neighbour, which for a negative value is the larger magnitude. -/
def roundsUp (mode : RMode) (rnd : Nat) (x : Mag) (q : Int) : Bool :=
  let sh := (q - x.e).toNat
  let lo := x.m >>> sh
  let rem := x.m % 2 ^ sh
  let inexact := rem != 0 || x.sticky
  inexact &&
  match mode with
  | .rne =>
    let half := 2 ^ sh
    if 2 * rem = half then x.sticky || lo % 2 = 1
    else half < 2 * rem
  | .rz => false
  | .ru => !x.neg
  | .rd => x.neg
  | .sr =>
    let scaled := (rem * 2 ^ 32) >>> sh
    let cut := (rem * 2 ^ 32) % 2 ^ sh != 0 || x.sticky
    if x.neg then
      -- f counts from the larger magnitude; the smaller magnitude is taken when f + rnd reaches 2^32
      let f := 2 ^ 32 - scaled - b2n cut
      decide (f + rnd < 2 ^ 32)
    else decide (2 ^ 32 ≤ scaled + rnd)

/-- The magnitude, in units of 2^q, of a value rounded to a multiple of 2^q. -/
def roundMag (mode : RMode) (rnd : Nat) (x : Mag) (q : Int) : Nat :=
  if q < x.e then x.m * 2 ^ (x.e - q).toNat + b2n (roundsUp mode rnd ⟨x.neg, x.m * 2 ^ (x.e - q).toNat, q, x.sticky⟩ q)
  else (x.m >>> (q - x.e).toNat) + b2n (roundsUp mode rnd x q)

/-- RoundTo for a nonzero magnitude (spec/00 R12; spec/02 R56, R59, R60): pattern and flags. -/
def roundTo (f : Fmt) (mode : RMode) (rnd : Nat) (x : Mag) : Nat × Nat :=
  let top : Int := (bitLen x.m : Int) - 1 + x.e
  let q : Int := max (top - f.man) (1 - (f.bias : Int) - f.man)
  let r := roundMag mode rnd x q
  -- magnitude bits: r 2^q with r at most 2^(man+1)
  let mag : Nat :=
    if r < 2 ^ f.man then r
    else ((q + f.man + f.bias) - 1).toNat * 2 ^ f.man + r
  if f.maxMag < mag then (f.signBit x.neg + f.maxMag, flagOvf)
  else (f.signBit x.neg + mag, 0)

/-- An exact finite real as a signed integer multiple of a power of two. -/
structure Dy where
  m : Int
  e : Int
deriving DecidableEq, Repr

/-- The value of a finite encoding. -/
def Dy.ofFin (neg : Bool) (m : Nat) (e : Int) : Dy := ⟨if neg then -(m : Int) else m, e⟩

/-- Exact sum. -/
def Dy.add (a b : Dy) : Dy :=
  let e := min a.e b.e
  ⟨a.m * 2 ^ (a.e - e).toNat + b.m * 2 ^ (b.e - e).toNat, e⟩

/-- Exact product. -/
def Dy.mul (a b : Dy) : Dy := ⟨a.m * b.m, a.e + b.e⟩

/-- Exact comparison. -/
def Dy.lt (a b : Dy) : Bool := (a.add ⟨-b.m, b.e⟩).m < 0

/-- RoundTo of an exact real; an exact zero takes the sign given (spec/02 R56). -/
def roundDy (f : Fmt) (mode : RMode) (rnd : Nat) (zeroNeg : Bool) (x : Dy) : Nat × Nat :=
  if x.m = 0 then (f.signBit zeroNeg, 0)
  else roundTo f mode rnd ⟨x.m < 0, x.m.natAbs, x.e, false⟩

/-- The exact product of two values; a zero product and an infinite one take the exclusive OR of the signs (spec/06 R153). -/
def FVal.mul : FVal → FVal → FVal
  | .nan, _ => .nan
  | _, .nan => .nan
  | .inf s, .inf t => .inf (s != t)
  | .inf s, .fin t m _ => if m = 0 then .nan else .inf (s != t)
  | .fin s m _, .inf t => if m = 0 then .nan else .inf (s != t)
  | .fin s m e, .fin t n f => .fin (s != t) (m * n) (e + f)

/-- A value negated. -/
def FVal.neg : FVal → FVal
  | .nan => .nan
  | .inf s => .inf (!s)
  | .fin s m e => .fin (!s) m e

/-- The result of an exact sum of terms: a NaN, an infinity, a zero with its sign, or a nonzero real. -/
inductive Sum where
  | nan
  | inf (neg : Bool)
  | zero (neg : Bool)
  | val (x : Dy)
deriving DecidableEq, Repr

/-- The exact sum of the finite terms of a list. -/
def sumFinite : List FVal → Dy
  | [] => ⟨0, 0⟩
  | .fin s m e :: r => if m = 0 then sumFinite r else
      let t := sumFinite r
      if t.m = 0 then Dy.ofFin s m e else (Dy.ofFin s m e).add t
  | _ :: r => sumFinite r

def FVal.isNan : FVal → Bool | .nan => true | _ => false
def FVal.isPosInf : FVal → Bool | .inf s => !s | _ => false
def FVal.isNegInf : FVal → Bool | .inf s => s | _ => false
def FVal.isZero : FVal → Bool | .fin _ m _ => m == 0 | _ => false
def FVal.isNegZero : FVal → Bool | .fin s m _ => s && m == 0 | _ => false

/-- The exact sum of terms, with the rules for infinities (spec/06 R152) and for the sign of a zero sum (R153). -/
def sumTerms (mode : RMode) (l : List FVal) : Sum :=
  if l.any FVal.isNan then .nan
  else if l.any FVal.isPosInf && l.any FVal.isNegInf then .nan
  else if l.any FVal.isPosInf then .inf false
  else if l.any FVal.isNegInf then .inf true
  else
    let x := sumFinite l
    if x.m = 0 then .zero (l.all FVal.isNegZero || (mode == .rd && !(l.all FVal.isNegZero)))
    else .val x

/-- The pattern of an infinity; a format without infinities takes its largest finite value and sets OVF (spec/02 R61). -/
def infPat (f : Fmt) (neg : Bool) : Nat × Nat :=
  match f.specials with
  | .ieee => (f.signBit neg + f.infMag, 0)
  | _ => (f.signBit neg + f.maxMag, flagOvf)

/-- A sum rounded to a format; a NaN sum gives the pattern `nan`. -/
def roundSum (f : Fmt) (mode : RMode) (rnd : Nat) (nan : Nat) : Sum → Nat × Nat
  | .nan => (nan, 0)
  | .inf s => infPat f s
  | .zero s => (f.signBit s, 0)
  | .val x => roundDy f mode rnd false x

/-- A NaN made quiet: sign and payload kept, top mantissa bit set (spec/06 R152). -/
def quiet (f : Fmt) (x : Nat) : Nat :=
  match f.specials with
  | .ieee => x ||| 2 ^ (f.man - 1)
  | _ => x

/-- The NaN result of an arithmetic form: the first NaN source quieted, else the canonical NaN (spec/06 R152). -/
def pickNaN (f : Fmt) (srcs : List Nat) : Nat :=
  match srcs.find? (isNaN f) with
  | some x => quiet f x
  | none => f.canonNaN

/-- FADD (spec/06 R155). -/
def fAdd (f : Fmt) (mode : RMode) (rnd a b : Nat) : Nat × Nat :=
  roundSum f mode rnd (pickNaN f [a, b]) (sumTerms mode [fDecode f a, fDecode f b])

/-- FSUB (spec/06 R155): a + (-b); a NaN b keeps its own sign. -/
def fSub (f : Fmt) (mode : RMode) (rnd a b : Nat) : Nat × Nat :=
  roundSum f mode rnd (pickNaN f [a, b]) (sumTerms mode [fDecode f a, (fDecode f b).neg])

/-- FMUL (spec/06 R155): a zero product has the exclusive OR of the signs (R153). -/
def fMul (f : Fmt) (mode : RMode) (rnd a b : Nat) : Nat × Nat :=
  match (fDecode f a).mul (fDecode f b) with
  | .nan => (pickNaN f [a, b], 0)
  | .inf s => infPat f s
  | .fin s m e => roundDy f mode rnd s (Dy.ofFin s m e)

/-- FFMA (spec/06 R155): one rounding of the exact a b + c. -/
def fFma (f : Fmt) (mode : RMode) (rnd a b c : Nat) : Nat × Nat :=
  roundSum f mode rnd (pickNaN f [a, b, c]) (sumTerms mode [(fDecode f a).mul (fDecode f b), fDecode f c])

/-- A total order on the patterns that are not NaNs, with -0 below +0. -/
def fRank (f : Fmt) (x : Nat) : Int := if fSign f x then -(fMag f x : Int) - 1 else fMag f x

/-- FMIN and FMAX (spec/06 R155). -/
def fMinMax (f : Fmt) (isMax : Bool) (a b : Nat) : Nat :=
  match isNaN f a, isNaN f b with
  | true, true => quiet f a
  | true, false => b
  | false, true => a
  | false, false => if (fRank f a < fRank f b) != isMax then a else b

/-- A value rounded to an integer in a mode (spec/06 R155 FRND, R161). -/
def roundToInt (mode : RMode) (rnd : Nat) (neg : Bool) (m : Nat) (e : Int) : Int :=
  if m = 0 then 0
  else
    let r := roundMag mode rnd ⟨neg, m, e, false⟩ 0
    if neg then -(r : Int) else r

/-- FRND (spec/06 R155). -/
def fRnd (f : Fmt) (mode : RMode) (rnd a : Nat) : Nat × Nat :=
  match fDecode f a with
  | .nan => (quiet f a, 0)
  | .inf _ => (a, 0)
  | .fin s m e => roundDy f .rne 0 s ⟨roundToInt mode rnd s m e, 0⟩

/-- FSCALE (spec/06 R155, R156). The exponent is cut to plus or minus 2^14, past which every format has overflowed or underflowed. -/
def fScale (f : Fmt) (mode : RMode) (rnd a : Nat) (n : Int) : Nat × Nat :=
  match fDecode f a with
  | .nan => (quiet f a, 0)
  | .inf _ => (a, 0)
  | .fin s m e => roundDy f mode rnd s (Dy.ofFin s m (e + max (-16384) (min 16384 n)))

/-- The order relations of FCMP (spec/05 R127): less, equal, unordered. -/
def fLess (f : Fmt) (a b : Nat) : Bool :=
  match fDecode f a, fDecode f b with
  | .fin s m e, .fin t n g => (Dy.ofFin s m e).lt (Dy.ofFin t n g)
  | .inf s, .fin _ _ _ => s
  | .fin _ _ _, .inf t => !t
  | .inf s, .inf t => s && !t
  | _, _ => false

/-- Equality of values: +0 and -0 are equal, a NaN equals nothing (spec/05 R127). -/
def fEq (f : Fmt) (a b : Nat) : Bool :=
  !isNaN f a && !isNaN f b && (a == b || (fMag f a == 0 && fMag f b == 0))

/-- A NaN converted to a format that has NaNs, or +0 with NAN (spec/02 R47, R61). -/
def convNaN (s d : Fmt) (x : Nat) : Nat × Nat :=
  match d.specials with
  | .none => (0, flagNan)
  | .nanOnly => (d.signBit (fSign s x) + (2 ^ (d.width - 1) - 1), 0)
  | .ieee =>
    let payBits := match s.specials with | .ieee => s.man - 1 | _ => 0
    let pay := fMag s x % 2 ^ payBits
    let cut := if d.man - 1 < payBits then pay >>> (payBits - (d.man - 1)) else pay <<< (d.man - 1 - payBits)
    (d.signBit (fSign s x) + d.infMag + 2 ^ (d.man - 1) + cut, 0)

/-- A float converted to a float format (spec/06 R160; spec/02 R61). -/
def fConv (s d : Fmt) (mode : RMode) (rnd x : Nat) : Nat × Nat :=
  match fDecode s x with
  | .nan => convNaN s d x
  | .inf neg => infPat d neg
  | .fin neg m e => roundDy d mode rnd neg (Dy.ofFin neg m e)

/-- A float converted to an integer type (spec/06 R161; spec/02 R61). -/
def fToInt (s : Fmt) (signed : Bool) (w : Nat) (mode : RMode) (rnd x : Nat) : Nat × Nat :=
  match fDecode s x with
  | .nan => (0, flagNan)
  | .inf neg => (wrap w (if neg then intMin signed w else intMax signed w), flagSat)
  | .fin neg m e =>
    let r := satTo signed w (roundToInt mode rnd neg m e)
    (r.1, if r.2 then flagSat else 0)

/-- An integer converted to a float format (spec/06 R161): zero is +0. -/
def intToF (d : Fmt) (mode : RMode) (rnd : Nat) (v : Int) : Nat × Nat := roundDy d mode rnd false ⟨v, 0⟩

/-- The value of an e8m0 scale byte other than 0xFF (spec/02 R50). -/
def e8m0Val (e : Nat) : FVal := .fin false 1 ((e : Int) - 127)

/-- A pattern of a format seen through a scale byte and rounded to another format (spec/02 R50; spec/06 R165). -/
def fScaled (s d : Fmt) (mode : RMode) (rnd x scale : Nat) : Nat × Nat :=
  if scale = 255 then (d.canonNaN, flagPoison)
  else
    match fDecode s x with
    | .nan => convNaN s d x
    | .inf neg => infPat d neg
    | .fin neg m e => roundDy d mode rnd neg (Dy.ofFin neg m (e + ((scale : Int) - 127)))

/-- The classes of FCLASS (spec/05 R128). -/
def fClass (f : Fmt) (x : Nat) : Nat :=
  if isNaN f x then (if x.testBit (f.man - 1) then 9 else 8)
  else
    let neg := fSign f x
    let mag := fMag f x
    if isInf f x then (if neg then 0 else 7)
    else if mag = 0 then (if neg then 3 else 4)
    else if mag < 2 ^ f.man then (if neg then 2 else 5)
    else if neg then 1 else 6

/-- Floor of the base-2 logarithm of a nonzero product. -/
def Dy.top (x : Dy) : Int := (bitLen x.m.natAbs : Int) - 1 + x.e

/-- The largest leading exponent among the nonzero terms. -/
def maxTop : List Dy → Option Int
  | [] => none
  | x :: r =>
    match maxTop r with
    | none => if x.m = 0 then none else some x.top
    | some t => if x.m = 0 then some t else some (max t x.top)

/-- AlignSum (spec/00 R12; spec/02 R66): each term truncated toward minus infinity below a window of `w` bits, with a sticky half unit.
`none` when every term is zero. -/
def alignSum (w : Nat) (l : List Dy) : Option Dy :=
  match maxTop l with
  | none => none
  | some top =>
    let u : Int := top - w + 1
    let q : List (Int × Bool) := l.map fun x =>
      if u ≤ x.e then (x.m * 2 ^ (x.e - u).toNat, false)
      else (x.m / 2 ^ (u - x.e).toNat, x.m % 2 ^ (u - x.e).toNat != 0)
    let s := q.foldl (fun acc t => acc + t.1) 0
    let sticky := q.any (·.2)
    -- in units of 2^(u-1)
    some ⟨2 * s + (if sticky then 1 else 0), u - 1⟩

/-- A group of products added to an accumulator of format `f` with one rounding to nearest even (spec/02 R66, R68; R59). -/
def addGroup (f : Fmt) (w : Nat) (acc : Nat) (prods : List FVal) : Nat × Nat :=
  let accNaN := isNaN f acc
  if prods.any FVal.isNan || (prods.any FVal.isPosInf && prods.any FVal.isNegInf) then (f.canonNaN, 0)
  else if prods.any FVal.isPosInf || prods.any FVal.isNegInf then
    let neg := prods.any FVal.isNegInf
    if accNaN || (isInf f acc && fSign f acc != neg) then (f.canonNaN, 0) else (f.signBit neg + f.infMag, 0)
  else if accNaN || isInf f acc then (acc, 0)
  else
    let ds : List Dy := prods.map fun p => match p with | .fin s m e => Dy.ofFin s m e | _ => ⟨0, 0⟩
    match alignSum w ds with
    | none => (acc, 0)
    | some s =>
      match fDecode f acc with
      | .fin neg m e =>
        let t := (Dy.ofFin neg m e).add s
        -- a zero acc with a zero window sum becomes +0 (spec/02 R66)
        if s.m = 0 then (if m = 0 then (0, 0) else (acc, 0)) else roundDy f .rne 0 false t
      | _ => (acc, 0)

end Sys2Proof.Machine
end

