-- ==== Sys2Proof/Machine/Ops.lean ====
section
/-!
DEFINITION. The named operations over memory, registers and parties, the taking of a trap and the return from one, and what an issue is: its checks,
its waits, its commitment.
-/
namespace Sys2Proof.Machine

open Sys2Proof

/-! ### Memory (spec/10 R281) -/

/-- What an unlisted address reads as (log entry 1). -/
def memDefault : Byte := 0

/-- The byte at a physical address. -/
def memGet : List Host.Cell → Nat → Byte
  | [], _ => memDefault
  | (b, x) :: r, a => if b = a then x else memGet r a

/-- The cells without an address. -/
def memErase : List Host.Cell → Nat → List Host.Cell
  | [], _ => []
  | (b, x) :: r, a => if b = a then memErase r a else (b, x) :: memErase r a

/-- The cells with a byte at an address, in rising order. -/
def memInsert : List Host.Cell → Nat → Byte → List Host.Cell
  | [], a, v => [(a, v)]
  | (b, x) :: r, a, v => if a < b then (a, v) :: (b, x) :: r else if b = a then (a, v) :: r else (b, x) :: memInsert r a v

/-- Writes a byte; the default byte leaves no entry. -/
def memPut (m : List Host.Cell) (a : Nat) (v : Byte) : List Host.Cell := if v = memDefault then memErase m a else memInsert m a v

/-- Where the host memory of the port without the lease is kept (spec/18 R397, R400): the host range leaves through the port that holds it, so that range of
memory stands for the memory of the owner's host. -/
def otherHost : Nat := 2 ^ 50

/-- Where a byte stands once the lease has passed to the other port: the two host memories change places. -/
def otherPlace (a : Nat) : Nat :=
  if 2 ^ 44 ≤ a ∧ a < 2 ^ 45 then a + otherHost
  else if 2 ^ 44 + otherHost ≤ a ∧ a < 2 ^ 45 + otherHost then a - otherHost
  else a

/-- Memory once the lease has passed to the other port (spec/18 R402, R411). -/
def swapHosts (m : List Host.Cell) : List Host.Cell := m.foldr (fun c r => memPut r (otherPlace c.1) c.2) []

/-- The canonical form of memory: rising addresses, no default byte. -/
def Memory.wf : List Host.Cell → Bool
  | [] => true
  | [(_, v)] => decide (v ≠ memDefault)
  | (a, v) :: (b, x) :: r => decide (v ≠ memDefault) && decide (a < b) && Memory.wf ((b, x) :: r)

/-- Writes bytes from an address up. -/
def memWrite (m : List Host.Cell) : Nat → List Byte → List Host.Cell
  | _, [] => m
  | a, v :: r => memWrite (memPut m a v) (a + 1) r

/-- Reads `n` bytes from an address up. -/
def memRead (m : List Host.Cell) : Nat → Nat → List Byte
  | _, 0 => []
  | a, n + 1 => memGet m a :: memRead m (a + 1) n

/-- A little-endian number of `n` bytes. -/
def memNat (s : State) (pa n : Nat) : Nat := leNat (memRead s.mem pa n)

/-- Writes a little-endian number of `n` bytes. -/
def State.poke (s : State) (pa n v : Nat) : State := { s with mem := memWrite s.mem pa (natLe n v) }

/-- Writes bytes. -/
def State.pokeBytes (s : State) (pa : Nat) (l : List Byte) : State := { s with mem := memWrite s.mem pa l }

/-- The home of a physical address (spec/10 R281). -/
inductive Home where
  | near (die : Nat) | far | weights (die : Nat) | pantry (die : Nat) | host | peer | debug | outside
deriving DecidableEq, Repr

/-- Bytes of a die's Pantry (spec/10 R286). -/
def pantryBytes (s : State) (die : Nat) : Nat := (s.dies.getD die State.die0).pantryMiB * 2 ^ 20

/-- The home of a physical address. -/
def homeOf (s : State) (pa : Nat) : Home :=
  if pa < 2 ^ 38 then .near (pa / 2 ^ 36)
  else if 2 ^ 40 ≤ pa ∧ pa < 2 ^ 40 + 2 ^ 41 then .far
  else if 2 ^ 42 ≤ pa ∧ pa < 2 ^ 42 + 2 ^ 33 then .weights ((pa - 2 ^ 42) / 2 ^ 31)
  else if 2 ^ 43 ≤ pa ∧ pa < 2 ^ 43 + 2 ^ 27 then
    let d := (pa - 2 ^ 43) / 2 ^ 25
    if (pa - 2 ^ 43) % 2 ^ 25 < pantryBytes s d then .pantry d else .outside
  else if 2 ^ 44 ≤ pa ∧ pa < 2 ^ 45 then .host
  else if 2 ^ 45 ≤ pa ∧ pa < 2 ^ 46 then .peer
  else if 2 ^ 47 ≤ pa ∧ pa < 2 ^ 47 + 2 ^ 38 then .debug
  else .outside

/-! ### Parties -/

/-- The key of a warp slot. -/
def warpKey (group slot : Nat) : Nat := group * Config.warpSlots + slot

/-- The key under which a lane group's service context keeps its registers (spec/19 R437). -/
def serviceKey (group : Nat) : Nat := Config.groups * Config.warpSlots + group

/-- The warp under a key. -/
def State.warp (s : State) (k : Nat) : Warp := s.warps.getD k State.warp0
/-- A lane group. -/
def State.group (s : State) (g : Nat) : Group := s.groups.getD g State.group0
/-- A core. -/
def State.core (s : State) (c : Nat) : Core := s.cores.getD c State.core0
/-- A die. -/
def State.die (s : State) (d : Nat) : Die := s.dies.getD d State.die0
/-- A partition. -/
def State.part (s : State) (p : Nat) : Partition := s.parts.getD p State.part0
/-- A launch. -/
def State.launch? (s : State) (l : Nat) : Option Launch := s.sched.launches.get? l
/-- A placed block. -/
def State.block? (s : State) (b : Nat) : Option Block := s.sched.blocks.get? b

def State.setWarp (s : State) (k : Nat) (w : Warp) : State := { s with warps := s.warps.set k w }
def State.modWarp (s : State) (k : Nat) (f : Warp → Warp) : State := { s with warps := s.warps.modify k f }
def State.setGroup (s : State) (g : Nat) (x : Group) : State := { s with groups := s.groups.set g x }
def State.modGroup (s : State) (g : Nat) (f : Group → Group) : State := s.setGroup g (f (s.group g))
def State.setCore (s : State) (c : Nat) (x : Core) : State := { s with cores := s.cores.set c x }
def State.modCore (s : State) (c : Nat) (f : Core → Core) : State := s.setCore c (f (s.core c))
def State.modDie (s : State) (d : Nat) (f : Die → Die) : State := { s with dies := s.dies.set d (f (s.die d)) }
def State.modPart (s : State) (p : Nat) (f : Partition → Partition) : State := { s with parts := s.parts.set p (f (s.part p)) }
def State.modLaunch (s : State) (l : Nat) (f : Launch → Launch) : State :=
  { s with sched := { s.sched with launches := s.sched.launches.modify l f } }
def State.modBlock (s : State) (b : Nat) (f : Block → Block) : State :=
  { s with sched := { s.sched with blocks := s.sched.blocks.modify b f } }

/-- The key of a party's registers; a sequencer has none. -/
def partyKey : Party → Option Nat
  | .path g sl _ => some (warpKey g sl)
  | .thread g sl => some (warpKey g sl)
  | .service g => some (serviceKey g)
  | .seq _ => none

/-- The core of a party. -/
def partyCore : Party → Nat
  | .path g _ _ => g / 2
  | .thread g _ => g / 2
  | .service g => g / 2
  | .seq c => c

/-- The lane group of a party; for a sequencer, which belongs to none, the first of its core stands in records. -/
def partyGroup : Party → Nat
  | .path g _ _ => g
  | .thread g _ => g
  | .service g => g
  | .seq c => 2 * c

/-- The die of a core (spec/01 R27). -/
def dieOf (core : Nat) : Nat := core / Config.coresPerDie

/-- The core cluster of a core (spec/01 R27). -/
def clusterOf (core : Nat) : Nat := core / 4

/-- The arithmetic cycle count of a core: cycles of the reference in which its clock ran (spec/00 R5; spec/08 R239). -/
def State.acyc (s : State) (core : Nat) : Nat := s.ccnt - (s.core core).lost

/-- The cycle count of a core's copy and matrix engines, which gating does not stop (spec/19 R431). -/
def State.ecyc (s : State) (core : Nat) : Nat := s.ccnt - (s.core core).lost + (s.core core).lostGated

/-- The launch a party works for. -/
def State.partyLaunch (s : State) (p : Party) : Option Launch :=
  match p with
  | .path g sl _ => s.launch? (s.warp (warpKey g sl)).launch
  | .thread g sl => s.launch? (s.warp (warpKey g sl)).launch
  | .service _ => none
  | .seq c => match (s.core c).seq with
    | some q => (s.block? q.block).bind fun b => s.launch? b.launch
    | none => none

/-- The number that stands for no launch: a service context works for none. -/
def noLaunch : Nat := 2 ^ 64

/-- The number of the launch a party works for. -/
def State.partyLaunchNo (s : State) (p : Party) : Nat :=
  match p with
  | .path g sl _ => (s.warp (warpKey g sl)).launch
  | .thread g sl => (s.warp (warpKey g sl)).launch
  | .service _ => noLaunch
  | .seq c => match (s.core c).seq with
    | some q => match s.block? q.block with | some b => b.launch | none => noLaunch
    | none => noLaunch

/-- The ACTIVE partition whose set holds a core (spec/19 R430, R435). -/
def State.corePartition (s : State) (core : Nat) : Nat :=
  match s.parts.find? fun kv => kv.2.state == .active && kv.2.set.testBit (core / 18) with
  | some (p, _) => p
  | none => 0

/-- The partition of a party. -/
def State.partyPart (s : State) (p : Party) : Nat :=
  match s.partyLaunch p with
  | some l => l.partition
  | none => s.corePartition (partyCore p)

/-- The placed block of a launch and bid. -/
def State.blockOf (s : State) (launch bid : Nat) : Option (Nat × Block) :=
  s.sched.blocks.find? fun kv => kv.2.launch == launch && kv.2.bid == bid

/-- The placed block of a party. -/
def State.partyBlock (s : State) (p : Party) : Option (Nat × Block) :=
  match p with
  | .path g sl _ => let w := s.warp (warpKey g sl); s.blockOf w.launch w.bid
  | .thread g sl => let w := s.warp (warpKey g sl); s.blockOf w.launch w.bid
  | .service _ => none
  | .seq c => match (s.core c).seq with
    | some q => (s.block? q.block).map fun b => (q.block, b)
    | none => none

/-- A field of a launch record (spec/09 R250). -/
def recBits (r : BitVec 1024) (lo w : Nat) : Nat := vbits r lo w

/-- Warps of a block of a launch (spec/09 R250). -/
def recWarps (r : BitVec 1024) : Nat := (recBits r 40 11 + 32) / 32

/-! ### Registers -/

/-- The physical row that a name stands for under a rotation base (spec/01 R31). -/
def physRow (base n : Nat) : Nat := if n < 48 then n else 48 + (n - 48 + 16 - base % 16) % 16

/-- The physical mask that a name stands for under a rotation base (spec/01 R31). -/
def physMask (base n : Nat) : Nat := if n < 8 then n else 8 + (n - 8 + 8 - base % 8) % 8

/-- The row a name reads. -/
def Warp.row (w : Warp) (n : Nat) : Row := w.v.getD (physRow w.vrot n) 0
/-- The s register a name reads; s0 reads zero (spec/01 R26). -/
def Warp.sreg (w : Warp) (n : Nat) : Word64 := if n = 0 then 0 else w.s.getD n 0
/-- The mask a name reads. -/
def Warp.mask (w : Warp) (n : Nat) : MaskBits := w.m.getD (physMask w.mrot n) 0

/-- Writes an s register; a write to s0 is discarded (spec/01 R26). -/
def setS (t : Tbl Word64) (n : Nat) (v : Word64) : Tbl Word64 := if n = 0 then t else t.set n v

/-- Replaces the bits of `bits` by those of `value`. -/
def mixBits {n : Nat} (old value bits : BitVec n) : BitVec n := (old &&& ~~~bits) ||| (value &&& bits)

/-- A result written to its physical register: exactly the bits it names change (spec/01 R25, R28). -/
def Warp.land (w : Warp) (f : InFlight) : Warp :=
  match f.reg with
  | .v n _ => { w with v := w.v.set n (mixBits (w.v.getD n 0) f.value f.bits) }
  | .s n => { w with s := setS w.s n (mixBits (w.s.getD n 0) (f.value.setWidth 64) (f.bits.setWidth 64)) }
  | .m n => { w with m := w.m.set n (mixBits (w.m.getD n 0) (f.value.setWidth 1024) (f.bits.setWidth 1024)) }

/-- A result among others in the order in which they land: by due count, those due together in issue order (spec/03 R88, R90). -/
def InFlight.among (f : InFlight) : List InFlight → List InFlight
  | [] => [f]
  | x :: r => if f.due ≤ x.due then f :: x :: r else x :: f.among r

/-- Results in flight in the order in which they land. -/
def landOrder (l : List InFlight) : List InFlight := l.foldr InFlight.among []

/-- Results written to their registers, in the order in which they land. -/
def Warp.lands (w : Warp) (l : List InFlight) : Warp := (landOrder l).foldl Warp.land w

/-- The results of a warp that are due land (spec/03 R88; spec/04 R113). -/
def Warp.landDue (w : Warp) (now : Nat) : Warp :=
  { w.lands (w.inflight.filter fun f => decide (f.due ≤ now)) with inflight := w.inflight.filter fun f => !decide (f.due ≤ now) }

/-- The count in which a warp's results fall due: issue slots in VLIW, arithmetic cycles in SIMT. -/
def dueNow (s : State) (group : Nat) (w : Warp) : Nat := if w.vliw.isSome then w.slots else s.acyc (group / 2)

/-- Results that are due land before a stop or a yield looks at those in flight. -/
def State.landNow (s : State) (g key : Nat) : State := s.modWarp key fun w => w.landDue (dueNow s g w)

/-- Every result in flight lands (spec/03 R90, R92; spec/19 R419). -/
def Warp.landAll (w : Warp) : Warp := { w.lands w.inflight with inflight := [] }

/-- Whether two registers have a part in common. -/
def RegId.overlaps : RegId → RegId → Bool
  | .v i a, .v j b => i == j && (a &&& b) != 0
  | .s i, .s j => i == j
  | .m i, .m j => i == j
  | _, _ => false

/-- Registers pending a variable-latency result of a party's warp (spec/04 R115). -/
def State.pending (s : State) (key : Nat) : List RegId :=
  s.accs.flatMap fun a => match a.party with
    | some p => if partyKey p = some key then a.pend else []
    | none => []

/-! ### SATF (spec/01 R35; spec/02 R62) -/

/-- ORs flags into a warp's SATF. -/
def Warp.orFlags (w : Warp) (flags : Nat) : Warp := { w with csr := { w.csr with satf := w.csr.satf ||| BitVec.ofNat 64 (flags % 16) } }

/-- ORs flags into the SATF of every live warp of a block (spec/02 R64). -/
def State.orBlockFlags (s : State) (launch bid flags : Nat) : State :=
  if flags = 0 then s
  else { s with warps := s.warps.mapVals fun _ w => if w.launch == launch && w.bid == bid then w.orFlags flags else w }

/-! ### Trap causes (spec/00 R19; spec/01 R37) -/

def causeILLOP : Nat := 0x01
def causeILLBUNDLE : Nat := 0x02
def causeILLMODE : Nat := 0x03
def causeROLE : Nat := 0x04
def causeSTALLCHK : Nat := 0x05
def causeSATURATE : Nat := 0x06
def causeLPILL : Nat := 0x07
def causeSQWIN : Nat := 0x08
def causeCPYTIME : Nat := 0x09
def causeCPYADDR : Nat := 0x0A
def causeWSWRITE : Nat := 0x0B
def causeFYIELD : Nat := 0x0C
def causeLOGFULL : Nat := 0x0D
def causePAGEPERM : Nat := 0x0E
def causeUE : Nat := 0x0F
def causeBKPT : Nat := 0x10
def causeWATCH : Nat := 0x11
def causeSVC : Nat := 0x12

/-- TRAPREC0 (spec/01 R37). -/
def rec0Of (t : Trap) (path : Nat) (vliw : Bool) : Word64 :=
  BitVec.ofNat 64 ((t.cause % 256) * 2 ^ 56 + (t.slots % 2 ^ 11) * 2 ^ 45 + (path % 32) * 2 ^ 40 + b2n vliw * 2 ^ 39 + t.info % 2 ^ 39)

/-- The 256 bits of a trap record, TRAPREC0 lowest (spec/09 R270). -/
def recordOf (t : Trap) (path : Nat) (vliw : Bool) (pc ccnt : Nat) : BitVec 256 :=
  BitVec.ofNat 64 ccnt ++ BitVec.ofNat 64 (t.addr % 2 ^ 57) ++ BitVec.ofNat 64 (pc % 2 ^ 57) ++ rec0Of t path vliw

/-- Bytes of the locked instruction store, little-endian (spec/19 R418). -/
def lockedNat (c : Core) (off n : Nat) : Nat := vbits c.locked (8 * off) (8 * n)

/-- The handler-table entry of a cause, in a view: the store offset, if the entry is valid (spec/19 R418). -/
def handlerEntry (c : Core) (cause : Nat) (vliw : Bool) : Option Nat :=
  let e := lockedNat c (8 * cause) 8
  let reserved := bits e 46 16 != 0 || bits e 14 18 != 0
  let valid := if vliw then bit e 62 else bit e 63
  if valid && !reserved then some (if vliw then bits e 32 14 else bits e 0 14) else none

/-- Whether a trap is discarding whatever the handler table holds (spec/19 R417): PAGEPERM and UE, a sequencer's trap, a trap of code in the locked store. -/
def alwaysDiscards (t : Trap) (p : Party) (locked : Bool) : Bool :=
  t.cause == causePAGEPERM || t.cause == causeUE || locked ||
  match p with
  | .seq _ => true
  | .service _ => true
  | _ => false

/-- The partition's discard unit takes a trap: the first one taken is kept (spec/19 R420). `launch` is the launch that took it. -/
def State.startDiscard (s : State) (part launch : Nat) (record : BitVec 256) : State :=
  if Config.partitions ≤ part then s
  else s.modPart part fun x => match x.discarding with
    | none => { x with discarding := some (launch, record) }
    | some _ => x

/-- Writes a warp's trap record (spec/01 R37). -/
def Warp.setRecord (w : Warp) (r : BitVec 256) : Warp :=
  { w with csr := { w.csr with rec0 := r.extractLsb' 0 64, rec1 := r.extractLsb' 64 64, rec2 := r.extractLsb' 128 64, rec3 := r.extractLsb' 192 64 } }

/-- A context that takes a trap goes on in its handler; the debugger's step of it is over (spec/19 R419; spec/20 R444). -/
def Vliw.inHandler (x : Vliw) (off : Nat) : Vliw :=
  { x with pc := off, locked := true, wait := .none, synced := none, slept := false, stall := 0, run := 0, ran := 0, yielded := true, released := false,
           steps := 0, halting := (if x.halting = .stepy then .none else x.halting) }

/-- Taking a trap (spec/19 R417 to R420; spec/08 R220). A handled trap lands every result in flight, writes the record, sets the handler bit and
continues the issuer at its handler in the locked store; a discarding trap writes the record and hands it to the partition's discard unit.
Another path of the warp that traps while a handler runs waits until TRET (R419). -/
def State.takeTrap (s : State) (p : Party) (pc : Nat) (locked : Bool) (t : Trap) : State :=
  let part := s.partyPart p
  let launch := s.partyLaunchNo p
  let core := s.core (partyCore p)
  match p with
  | .seq _ => s.startDiscard part launch (recordOf t 0 false pc s.ccnt)
  | .service _ => s.startDiscard part launch (recordOf t 0 true pc s.ccnt)
  | .path g sl i =>
    let k := warpKey g sl
    let r := recordOf t i false pc s.ccnt
    if (s.warp k).handler.isSome && !locked then
      s.modWarp k fun w => { w with paths := w.paths.modify i fun x => { x with wait := .handler } }
    else
      let s := s.modWarp k fun w => (w.landAll).setRecord r
      match alwaysDiscards t p locked, handlerEntry core t.cause false with
      | false, some off => s.modWarp k fun w =>
          { w with handler := some i, paths := w.paths.modify i fun x => ({ x with pc := off, locked := true, wait := .none, synced := none, slept := false, released := false, steps := 0 } : Path) }
      | _, _ => s.startDiscard part launch r
  | .thread g sl =>
    let k := warpKey g sl
    let r := recordOf t 0 true pc s.ccnt
    let s := s.modWarp k fun w => (w.landAll).setRecord r
    match alwaysDiscards t p locked, handlerEntry core t.cause true with
    | false, some off => s.modWarp k fun w =>
        { w with handler := some 0, vliw := w.vliw.map fun x => x.inHandler off }
    | _, _ => s.startDiscard part launch r

/-- Returning from a handler (spec/08 R241; spec/19 R419): the handler bit clears, the paths that waited for it may trap, and the issuer goes on at `target`. -/
def State.returnFromTrap (s : State) (p : Party) (target : Nat) : State :=
  match p with
  | .path g sl i => s.modWarp (warpKey g sl) fun w =>
      { w with handler := none,
               paths := (w.paths.mapVals fun _ x => if x.wait = .handler then { x with wait := .none } else x).modify i fun x =>
                 { x with pc := target, locked := false, wait := .none } }
  | .thread g sl => s.modWarp (warpKey g sl) fun w =>
      { w with handler := none, vliw := w.vliw.map fun x => { x with pc := target, locked := false, wait := .none } }
  | .service g => s.modGroup g fun x =>
      { x with service := none, predicate := none, requests := x.requests.drop 1, forced := false,
               deadline := if x.requests.length ≤ 1 && !(s.part (s.corePartition (g / 2))).halting then none
                 else some (if vbits (s.part (s.corePartition (g / 2))).desc 256 32 = 0 then 30000 else vbits (s.part (s.corePartition (g / 2))).desc 256 32) }
  | .seq _ => s

/-! ### The issue environment -/

/-- What an item sees when it issues: its party, view and addresses, the registers as they stand, and the values of the special operands. -/
structure Env where
  party : Party
  view : View
  core : Nat
  group : Nat
  key : Nat
  w : Warp
  /-- Threads of the issuing path; every lane in VLIW (spec/06 R166). -/
  mask : Word32
  pc : Nat
  next : Nat
  header : Word64
  locked : Bool
  ccnt : Nat
  acyc : Nat
  /-- Threads of a block, W x 32 (spec/01 R27), and the stochastic-rounding key (spec/09 R250). -/
  blockThreads : Nat
  srKey : Word64
  table0 : BitVec 8192
  table1 : BitVec 8192
  /-- The cluster, or in SIMT word scope the word, of the class-00 destination, else of the first class-00 source; in a vector slot the slot's cluster. -/
  hi : Nat
  /-- Whether `hi` comes from an operand or from a vector slot (spec/03 R85). -/
  named : Bool
deriving DecidableEq, Repr

/-- The registers of a sequencer, seen as those of a warp (spec/01 R26; spec/08 R217). -/
def seqWarp (q : Sequencer) (b : Option Block) : Warp :=
  { State.warp0 with s := q.s, bid := (match b with | some x => x.bid | none => 0), launch := (match b with | some x => x.launch | none => 0), wid := 64 }

/-- The environment of an issue. A service context has no launch record: its SR key is 0 and the gid of its lane 0 is 0 (DESIGN CHOICE, log entry 67;
spec/02 R57). -/
def State.env (s : State) (c : Cur) : Env :=
  let core := partyCore c.party
  let k := (partyKey c.party).getD 0
  let w := match c.party with
    | .seq n => match (s.core n).seq with
      | some q => seqWarp q (s.block? q.block)
      | none => State.warp0
    | _ => s.warp k
  let l := s.partyLaunch c.party
  { party := c.party
    view := match c.party, c.slot with
      | .seq _, _ => .stream
      | _, some sl => .slot sl
      | _, none => .simt
    core := core
    group := partyGroup c.party
    key := k
    w := w
    mask := match c.party with
      | .path _ _ i => match w.paths.get? i with | some x => x.mask | none => 0
      | _ => 0xFFFFFFFF
    pc := c.pc
    next := c.next
    header := c.header
    locked := c.locked
    ccnt := s.ccnt
    acyc := s.acyc core
    blockThreads := match l with | some x => 32 * recWarps x.record | none => 32
    srKey := match l with | some x => BitVec.ofNat 64 (recBits x.record 384 64) | none => 0
    table0 := (s.core core).bank0
    table1 := (s.core core).bank1
    hi := 0
    named := false }

/-- Bits 7:6 of the first class-00 operand among used ones. -/
def firstVec : List (Use × Operand) → Option Nat
  | [] => none
  | (u, .vec k _) :: r => if u.used then some k.val else firstVec r
  | _ :: r => firstVec r

/-- The environment as one operation of the item sees it: the cluster it stands for (spec/03 R85), the word of its first class-00 operand in SIMT, and word 0
for an operation that names none (DESIGN CHOICE, log entry 66; spec/05 R126). An operation of slot Vc with no class-00 operand tests cluster c's view of a mask,
not bit 0 (DEDUCED, log entry 69: of the two bullets of spec/03 R85 the model takes the slot's). -/
def Env.forOp (e : Env) (op : Nat) (w : IWord) : Env :=
  let c : Option Nat := match e.view with
    | .slot s => slotCluster s
    | _ => none
  let n : Option Nat := match c with
    | some k => some k
    | none => match formOf e.view op w.ext.toNat w.b with
      | .form f => firstVec [(f.d, w.d), (f.a, w.a), (f.b, w.b), (f.c, w.c)]
      | _ => none
  { e with hi := n.getD 0, named := n.isSome }

/-- The lowest-numbered thread of the issuing path (spec/05 R119). -/
def Env.leader (e : Env) : Nat := (lowestSet 32 0 e.mask.toNat).getD 0

/-- A special operand's value for a lane (spec/01 R27). -/
def Env.special (e : Env) (i lane : Nat) : Nat :=
  match i with
  | 0 => lane
  | 1 => e.w.wid
  | 2 => e.w.bid
  | 3 => e.core
  | 4 => e.group % 2
  | 5 => clusterOf e.core
  | 6 => (e.w.bid * e.blockThreads + e.w.wid * 32 + lane) % 2 ^ 64
  | _ => e.ccnt

/-! ### The outcome of a gate -/

/-- What stands before an item's effect: nothing, a wait (with what the wait itself changes), or a trap. -/
inductive Gate where
  | ok
  | wait (r : Wait)
  | hold (s : State) (r : Wait)
  | trap (t : Trap)
deriving DecidableEq, Repr

/-- Records of an item for which room is reserved at its issue: of the user buffer, and of scheduler decisions (spec/22 R474). -/
structure LogRoom where
  user : Nat
  decision : Nat
deriving DecidableEq, Repr

/-- The meaning of an instruction word: its opcode and fields, what it waits for or traps on, and its effect. The effect reads registers from the
environment, so that every operation of a bundle sees the values before the bundle (spec/03 R88). -/
structure Sem where
  op : Nat
  w : IWord
  gate : Env → State → Gate
  eff : Env → State → State
  /-- The records of kinds 0 and 1 that it needs room for (spec/22 R474): its own gate tests them, and a bundle their sum. -/
  room : Env → State → LogRoom := fun _ _ => ⟨0, 0⟩

/-- Sets the position of a party. -/
def State.setPc (s : State) (p : Party) (pc : Nat) : State :=
  match p with
  | .path g sl i => s.modWarp (warpKey g sl) fun w => { w with paths := w.paths.modify i fun x => { x with pc := pc } }
  | .thread g sl => s.modWarp (warpKey g sl) fun w => { w with vliw := w.vliw.map fun x => { x with pc := pc } }
  | .service g => s.modWarp (serviceKey g) fun w => { w with vliw := w.vliw.map fun x => { x with pc := pc } }
  | .seq c => s.modCore c fun x => { x with seq := x.seq.map fun q => { q with pc := pc } }

/-- The position of a party. -/
def State.pcOf (s : State) (p : Party) : Nat :=
  match p with
  | .path g sl i => match (s.warp (warpKey g sl)).paths.get? i with | some x => x.pc | none => 0
  | .thread g sl => match (s.warp (warpKey g sl)).vliw with | some x => x.pc | none => 0
  | .service g => match (s.warp (serviceKey g)).vliw with | some x => x.pc | none => 0
  | .seq c => match (s.core c).seq with | some q => q.pc | none => 0

/-- Records why a party waits, and that it tried to issue in this cycle. -/
def State.setWait (s : State) (p : Party) (r : Wait) : State :=
  match p with
  | .path g sl i => s.modWarp (warpKey g sl) fun w => { w with paths := w.paths.modify i fun x => { x with wait := r } }
  | .thread g sl => s.modWarp (warpKey g sl) fun w => { w with vliw := w.vliw.map fun x => { x with wait := r } }
  | .service g => s.modWarp (serviceKey g) fun w => { w with vliw := w.vliw.map fun x => { x with wait := r } }
  | .seq c => s.modCore c fun x => { x with seq := x.seq.map fun q => { q with wait := r } }

/-- Whether the debugger holds a party: STATE 3 (spec/20 R444). -/
def State.heldParty (s : State) (p : Party) : Bool :=
  match p with
  | .path g sl i => match (s.warp (warpKey g sl)).paths.get? i with | some x => x.held | none => false
  | .thread g sl => match (s.warp (warpKey g sl)).vliw with | some x => x.held | none => false
  | _ => false

/-- The wait of a party. -/
def State.waitOf (s : State) (p : Party) : Wait :=
  match p with
  | .path g sl i => match (s.warp (warpKey g sl)).paths.get? i with | some x => x.wait | none => .none
  | .thread g sl => match (s.warp (warpKey g sl)).vliw with | some x => x.wait | none => .none
  | .service g => match (s.warp (serviceKey g)).vliw with | some x => x.wait | none => .none
  | .seq c => match (s.core c).seq with | some q => q.wait | none => .none

/-- The phase a BAR sync has recorded. -/
def State.syncedOf (s : State) (p : Party) : Option Nat :=
  match p with
  | .path g sl i => match (s.warp (warpKey g sl)).paths.get? i with | some x => x.synced | none => none
  | .thread g sl => match (s.warp (warpKey g sl)).vliw with | some x => x.synced | none => none
  | .service g => match (s.warp (serviceKey g)).vliw with | some x => x.synced | none => none
  | .seq c => match (s.core c).seq with | some q => q.synced | none => none

/-- Records or clears the phase of a BAR sync. -/
def State.setSynced (s : State) (p : Party) (v : Option Nat) : State :=
  match p with
  | .path g sl i => s.modWarp (warpKey g sl) fun w => { w with paths := w.paths.modify i fun x => { x with synced := v } }
  | .thread g sl => s.modWarp (warpKey g sl) fun w => { w with vliw := w.vliw.map fun x => { x with synced := v } }
  | .service g => s.modWarp (serviceKey g) fun w => { w with vliw := w.vliw.map fun x => { x with synced := v } }
  | .seq c => s.modCore c fun x => { x with seq := x.seq.map fun q => { q with synced := v } }

/-- Whether a SLEEP of the item that a party is at has ended. -/
def State.sleptOf (s : State) (p : Party) : Bool :=
  match p with
  | .path g sl i => match (s.warp (warpKey g sl)).paths.get? i with | some x => x.slept | none => false
  | .thread g sl => match (s.warp (warpKey g sl)).vliw with | some x => x.slept | none => false
  | .service g => match (s.warp (serviceKey g)).vliw with | some x => x.slept | none => false
  | .seq _ => false

/-- Records that a SLEEP of a party's item has ended, or clears it. -/
def State.setSlept (s : State) (p : Party) (v : Bool) : State :=
  match p with
  | .path g sl i => s.modWarp (warpKey g sl) fun w => { w with paths := w.paths.modify i fun x => { x with slept := v } }
  | .thread g sl => s.modWarp (warpKey g sl) fun w => { w with vliw := w.vliw.map fun x => { x with slept := v } }
  | .service g => s.modWarp (serviceKey g) fun w => { w with vliw := w.vliw.map fun x => { x with slept := v } }
  | .seq _ => s

/-- The specifier of register `i` of a pair or quad of registers that an operand names. -/
def specAt (o : Operand) (i : Nat) : BitVec 10 := encodeSpec o + BitVec.ofNat 10 i

/-- Registers an operand names, as physical registers, each with its own specifier: register i of rows has the row i higher, of words the word i higher
(spec/03 R79, R87, R90). A vector register's `words` are words of a slot in SIMT and clusters in VLIW. -/
def operandRegs (e : Env) (u : Use) (o : Operand) : List (RegId × BitVec 10) :=
  if !u.used then []
  else
    match o with
    | .vec k n =>
      if e.view.inSlot then (List.range (if u.word then 1 else u.span)).map fun i => (.v (physRow e.w.vrot (n.val + i)) (2 ^ k.val), specAt o i)
      else if u.word then (List.range u.span).map fun i => (.v (physRow e.w.vrot n.val) (2 ^ ((k.val + i) % 4)), encodeSpec o + BitVec.ofNat 10 (64 * i))
      else (List.range u.span).map fun i => (.v (physRow e.w.vrot (n.val + i)) 15, specAt o i)
    | .sreg n => if n.val = 0 then [] else [(.s n.val, encodeSpec o)]
    | .mask i => [(.m (physMask e.w.mrot i.val), encodeSpec o)]
    | _ => []

/-- The mask a predicate names: none when the word is unpredicated (spec/01 R29). -/
def predMask (w : IWord) : Option Nat := if w.pred.toNat % 16 = 0 then none else some (w.pred.toNat % 16)

/-- The registers an instruction word reads and writes, in the order A, B, C, predicate, D (spec/03 R87), and the s registers it names beside them. -/
def wordRegs (e : Env) (op : Nat) (w : IWord) : List (RegId × BitVec 10) :=
  match formOf e.view op w.ext.toNat w.b with
  | .form f =>
    operandRegs e f.a w.a ++ operandRegs e f.b w.b ++ operandRegs e f.c w.c ++
    (if op = 0x91 then match w.c with | .sreg n => [(.s (n.val + 1), specAt w.c 1)] | _ => [] else []) ++
    (match predMask w with | some m => [(.m (physMask e.w.mrot m), BitVec.ofNat 10 (0x200 + m))] | none => []) ++
    operandRegs e f.d w.d ++
    (if op = 0xEC then [(.s 1, 0x101), (.s 2, 0x102), (.s 3, 0x103)] else [])
  | _ => []

/-- The registers an instruction word writes. -/
def wordDests (e : Env) (op : Nat) (w : IWord) : List (RegId × BitVec 10) :=
  match formOf e.view op w.ext.toNat w.b with
  | .form f => if f.d.isDst then operandRegs e f.d w.d else []
  | _ => []

/-- The fixed latency of an instruction word in its view (spec/04 R106). -/
def wordLat (e : Env) (op : Nat) (w : IWord) : Nat :=
  match formOf e.view op w.ext.toNat w.b with
  | .form f => f.lat
  | _ => 0

/-- The opcodes a logit program may hold (spec/04 R111). -/
def lpAllows (op : Nat) : Bool :=
  op ≤ 0x1B || (0x20 ≤ op && op ≤ 0x27) || (0x30 ≤ op && op ≤ 0x3B) || op == 0x50 || op == 0x51 || op == 0x55 || op == 0x56 ||
  op == 0x70 || op == 0x71 || op == 0xE9 || op == 0xD6 || op == 0xD7 || op == 0xD9 || op == 0xED

/-- Whether a word names a class-00 operand (spec/04 R110). -/
def namesVec (op : Nat) (v : View) (w : IWord) : Bool :=
  match formOf v op w.ext.toNat w.b with
  | .form f => (f.d.used && w.d.isVec) || (f.a.used && w.a.isVec) || (f.b.used && w.b.isVec) || (f.c.used && w.c.isVec)
  | _ => false

/-- Whether a role admits a form (spec/04 R110). -/
def roleAllows (r : Role) (v : View) (op : Nat) (w : IWord) : Bool :=
  if 0xC0 ≤ op ∧ op ≤ 0xC9 then false
  else
    match r with
    | .general => true
    | .vector => !(0xB0 ≤ op && op ≤ 0xB4)
    | .copy =>
      (0xA0 ≤ op && op ≤ 0xA5) || (0xB0 ≤ op && op ≤ 0xB4) || (0xD0 ≤ op && op ≤ 0xDA) || op == 0x93 || op == 0xE0 || op == 0xE1 || op == 0xE2 ||
      op == 0xE4 || op == 0xE5 || op == 0xE6 || op == 0xE7 || (op ≤ 0x4F && !namesVec op v w)

/-- The role's code (spec/09 R250). -/
def Role.code : Role → Nat
  | .general => 0 | .copy => 1 | .vector => 2

/-- Whether the issuer runs its handler, where LP mode and roles do not apply (spec/19 R419). -/
def Env.inHandler (e : Env) : Bool := e.locked

/-- The checks of spec/04 R109 steps 3 and 4, for one word. -/
def Env.modeCheck (e : Env) (op : Nat) (w : IWord) : Gate :=
  match e.view with
  | .stream => .ok
  | _ =>
    if e.inHandler then .ok
    else if e.w.lp.isSome && !lpAllows op then .trap { cause := causeLPILL, info := 1 * 2 ^ 32 }
    else if !roleAllows e.w.role e.view op w then .trap { cause := causeROLE, info := e.w.role.code }
    else .ok

/-- The SIMT interlock (spec/03 R86, R87; spec/04 R115): a register with a variable-latency result pending is waited for; one with a fixed-latency
result in flight is waited for, or raises STALLCHK when SCBCHK.EN is 1. -/
def State.interlock (s : State) (e : Env) (op : Nat) (w : IWord) : Gate :=
  let regs := wordRegs e op w
  let pend := s.pending e.key
  let late := regs.find? fun r => e.w.inflight.any fun f => f.reg.overlaps r.1
  if regs.any fun r => pend.any fun p => p.overlaps r.1 then .wait .pending
  else
    match late with
    | none => .ok
    | some r => if e.w.csr.scbchk then .trap { cause := causeSTALLCHK, info := r.2.toNat }
      else .wait (.result (((e.w.inflight.filter fun f => regs.any fun r => f.reg.overlaps r.1).map (·.due)).foldl max 0))

/-- A party's item has issued: its position moves on, the counts rise (spec/08 R239), and its next issue is STALL cycles away (spec/03 R86). -/
def State.advance (s : State) (e : Env) (stall : Nat) : State :=
  match e.party with
  | .path g sl i => s.modWarp (warpKey g sl) fun w =>
      { w with committed := w.committed + 1, lastPath := i, waited := 0,
               paths := (w.paths.mapVals fun _ x => { x with ready := max x.ready (e.acyc + 1 + stall), passed := x.passed + 1 }).modify i fun x =>
                 { x with pc := e.next, wait := .none, released := false, passed := 0 } }
  | .thread g sl => s.modWarp (warpKey g sl) fun w =>
      { w with committed := w.committed + 1, vliw := w.vliw.map fun x => { x with pc := e.next, wait := .none, released := false } }
  | .service g => s.modWarp (serviceKey g) fun w => { w with vliw := w.vliw.map fun x => { x with pc := e.next, wait := .none } }
  | .seq c => s.modCore c fun x => { x with seq := x.seq.map fun q => { q with pc := e.next, committed := q.committed + 1, wait := .none } }

/-! ### Waking a gated core (spec/19 R431) -/

/-- An event reaches a core: a gated one keeps its cause until CORE_WAKE has tested whether it made a waiter ready, which is before any other event. -/
def State.rouse (s : State) (core cause : Nat) : State :=
  if (s.core core).gated then s.modCore core fun c => { c with woken := c.woken ++ [cause] } else s

end Sys2Proof.Machine
end

