-- ==== Sys2Proof/Machine/Translate.lean ====
section
/-!
DEFINITION. Translation of global addresses, the TLBs, the faults of a walk, and the event counters
(spec/09 R272; spec/19 R416, R422 to R428).
-/
namespace Sys2Proof.Machine

open Sys2Proof

/-- The access a walk is made for (spec/19 R424). -/
inductive Acc where
  | read | write | atomic | fetch
deriving DecidableEq, Repr

/-- The code of an access in PAGEPERM's INFO bits 22:20. -/
def Acc.code : Acc → Nat
  | .read => 0 | .write => 1 | .atomic => 2 | .fetch => 3

/-! ### The partition descriptor (spec/19 R416) -/

def Partition.ptRoot (p : Partition) : Nat := vbits p.desc 21 27 * 2 ^ 21
def Partition.ring (p : Partition) : Nat := vbits p.desc 76 36 * 2 ^ 12
def Partition.flog (p : Partition) : Nat := vbits p.desc 64 5
def Partition.fev (p : Partition) : Nat := vbits p.desc 128 12
def Partition.rev (p : Partition) : Nat := vbits p.desc 140 12
def Partition.tev (p : Partition) : Nat := vbits p.desc 152 12
def Partition.lockImage (p : Partition) : Nat := vbits p.desc 192 42 * 2 ^ 6
def Partition.lockLen (p : Partition) : Nat := vbits p.desc 240 16
/-- The reload value of DEADLINE: 0 means 30,000 (spec/19 R416). -/
def Partition.reload (p : Partition) : Nat := if vbits p.desc 256 32 = 0 then 30000 else vbits p.desc 256 32
/-- The Pantry share on a die: first byte and size in bytes, from the start of the die's Pantry. -/
def Partition.share (p : Partition) (die : Nat) : Nat × Nat :=
  (vbits p.desc (288 + 11 * die + 6) 5 * 2 ^ 20, vbits p.desc (288 + 11 * die) 6 * 2 ^ 20)

/-- An event counter (spec/09 R272). -/
def State.counter (s : State) (c : Nat) : Nat := s.sched.counters.getD c 0

/-! ### Errors (spec/22 R462 to R469) -/

/-- The array class of a home. -/
def classOf : Home → Nat
  | .near _ => 5 | .far => 6 | .weights _ => 4 | .pantry _ => 2 | _ => 2

/-- Whether a far-memory address lies in a pair whose module was removed in a state other than DRAINED (spec/22 R469). -/
def farGone (s : State) (pa : Nat) : Bool :=
  homeOf s pa == .far &&
  let pair := ((pa - 2 ^ 40) / 4096 % 48) / 2
  s.ras.farLost.getD pair false

/-- The class of the uncorrectable error a read of a byte meets, if any: a poisoned line, a latent uncorrectable error, or a removed module. -/
def ueAt (s : State) (pa : Nat) : Option Nat :=
  if farGone s pa then some 6
  else if s.ras.poison.contains (pa / 64) || s.ras.upsets.contains (pa / 64, true) then some (classOf (homeOf s pa))
  else none

/-! ### The walk (spec/19 R422 to R424) -/

/-- The outcome of a walk. -/
inductive Walk where
  | hit (e : TlbEntry)
  /-- A resolvable fault: its kind, and the level at which the walk stopped. -/
  | fault (kind level : Nat)
  | trap (t : Trap)
deriving DecidableEq, Repr

/-- The index of a virtual address at a level; the root is level 3. -/
def walkIndex (va : Nat) : Nat → Nat
  | 3 => bits va 39 18
  | 2 => bits va 30 9
  | 1 => bits va 21 9
  | _ => bits va 16 5

/-- The bits of an address below a leaf page of a level. -/
def pageBits : Nat → Nat
  | 2 => 30 | 1 => 21 | _ => 16

/-- Bytes of a table of a level, to which it is aligned. -/
def tableBytes : Nat → Nat
  | 0 => 256 | _ => 4096

/-- A PAGEPERM of translation: the condition's bit, and the access. -/
def permTrap (bitNo : Nat) (acc : Acc) (va : Nat) : Trap :=
  { cause := causePAGEPERM, info := 2 ^ bitNo + acc.code * 2 ^ 20, addr := va }

/-- What a well-formed leaf allows. -/
def leafResult (part va level e : Nat) (acc : Acc) : Walk :=
  let n := pageBits level
  let r := bit e 2
  let wr := bit e 3
  let x := bit e 4
  let entry : TlbEntry :=
    { partition := part, va := roundDown va (2 ^ n), size := 2 ^ n, pa := bits e 8 40 * 2 ^ 8, r := r, w := wr, x := x, cow := bit e 5, cache := bits e 6 2 }
  match acc with
  | .read => if r then .hit entry else .trap (permTrap 16 acc va)
  | .fetch => if x then .hit entry else .trap (permTrap 16 acc va)
  | _ => if wr then .hit entry else if r && bit e 5 then .fault 1 level else .trap (permTrap 16 acc va)

/-- Whether an entry with V = 1 is malformed (spec/19 R423). -/
def entryBad (level e : Nat) : Bool :=
  let leaf := bit e 1
  let pa := bits e 8 40 * 2 ^ 8
  bits e 48 16 != 0 || (leaf && level == 3) || (!leaf && level == 0) ||
  (if leaf then pa % 2 ^ pageBits level != 0 || bits e 6 2 == 3 || ((bit e 3 || bit e 4) && !bit e 2)
   else pa % tableBytes (level - 1) != 0)

/-- One level of a walk, and the levels below it. -/
def walkAt (s : State) (part va : Nat) (acc : Acc) : Nat → Nat → Walk
  | level, table =>
    let at' := table + 8 * walkIndex va level
    if homeOf s at' == .outside then .trap (permTrap 18 acc va)
    else match ueAt s at' with
    | some c => .trap { cause := causeUE, info := 2 ^ 12 + c, addr := va }
    | none =>
      let e := memNat s at' 8
      if !bit e 0 then .fault 0 level
      else if entryBad level e then .trap (permTrap 17 acc va)
      else if bit e 1 then leafResult part va level e acc
      else match level with
        | 0 => .trap (permTrap 17 acc va)
        | n + 1 => walkAt s part va acc n (bits e 8 40 * 2 ^ 8)

/-- A walk of a partition's tables. -/
def walk (s : State) (part va : Nat) (acc : Acc) : Walk := walkAt s part va acc 3 (s.part part).ptRoot

/-- The address of the table entry at which a walk meets an uncorrectable error. -/
def tableUeAt (s : State) (va : Nat) : Nat → Nat → Option Nat
  | level, table =>
    let at' := table + 8 * walkIndex va level
    if (ueAt s at').isSome then some at'
    else match level with
      | 0 => none
      | n + 1 => tableUeAt s va n (bits (memNat s at' 8) 8 40 * 2 ^ 8)

/-- Whether a TLB entry serves an access: a translation that does not allow it is walked again (spec/19 R425). -/
def TlbEntry.serves (e : TlbEntry) (part va : Nat) (acc : Acc) : Bool :=
  e.partition == part && decide (e.va ≤ va) && decide (va < e.va + e.size) &&
  match acc with
  | .read => e.r
  | .fetch => e.x
  | _ => e.w

/-- The translation of an address for a core: its TLB, its die's TLB, or a walk. -/
def lookup (s : State) (core part va : Nat) (acc : Acc) : Walk :=
  match (s.core core).tlb.find? fun e => e.serves part va acc with
  | some e => .hit e
  | none =>
    match (s.die (dieOf core)).tlb.find? fun e => e.serves part va acc with
    | some e => .hit e
    | none => walk s part va acc

/-- The first address of each 64 KiB unit that a byte range touches, in a 57-bit space. -/
def unitsOf (va n : Nat) : List Nat :=
  if n = 0 then []
  else (range (va / 65536) ((va + n - 1) / 65536 + 1)).map fun u => if u = va / 65536 then va else u * 65536 % 2 ^ 57

/-- Pages for a list of byte ranges. -/
inductive Pages where
  | ok (l : List TlbEntry)
  | fault (kind level va : Nat)
  | trap (t : Trap)
deriving DecidableEq, Repr

/-- Translates a list of addresses, one in each unit; a trap goes before a resolvable fault. -/
def translateUnits (s : State) (core part : Nat) (acc : Acc) : List Nat → Pages
  | [] => .ok []
  | va :: r =>
    match lookup s core part va acc, translateUnits s core part acc r with
    | .trap t, _ => .trap t
    | _, .trap t => .trap t
    | .fault k l, _ => .fault k l va
    | _, .fault k l v => .fault k l v
    | .hit e, .ok l => .ok (if l.contains e then l else e :: l)

/-- Translates byte ranges: address and length. -/
def translate (s : State) (core part : Nat) (acc : Acc) (l : List (Nat × Nat)) : Pages :=
  translateUnits s core part acc ((l.flatMap fun x => unitsOf x.1 x.2).eraseDups)

/-- The physical address of a virtual one through translated pages. -/
def paVia (l : List TlbEntry) (va : Nat) : Nat :=
  match l.find? fun e => decide (e.va ≤ va) && decide (va < e.va + e.size) with
  | some e => e.pa + (va - e.va)
  | none => 0

/-- The cache attribute of the page of an address. -/
def cacheVia (l : List TlbEntry) (va : Nat) : Nat :=
  match l.find? fun e => decide (e.va ≤ va) && decide (va < e.va + e.size) with
  | some e => e.cache
  | none => 0

/-- Keeps the newest entries of a TLB. -/
def tlbAdd (cap : Nat) (t : List TlbEntry) (l : List TlbEntry) : List TlbEntry := (l ++ t.filter fun e => !l.contains e).take cap

/-- The lines of tables that a walk of an address reads, from a level down. -/
def walkLines (s : State) (va : Nat) : Nat → Nat → List Nat
  | level, table =>
    let at' := table + 8 * walkIndex va level
    let e := memNat s at' 8
    at' / 64 :: match level with
      | 0 => []
      | n + 1 => if bit e 0 && !bit e 1 then walkLines s va n (bits e 8 40 * 2 ^ 8) else []

/-- Every TLB entry of a partition is invalidated (spec/19 R426). -/
def State.forget (s : State) (part : Nat) : State :=
  { s with cores := s.cores.mapVals fun _ x => { x with tlb := x.tlb.filter fun e => e.partition != part },
           dies := s.dies.mapVals fun _ x => { x with tlb := x.tlb.filter fun e => e.partition != part } }

/-! ### Event counters -/

/-- Whether a counter has reached a count (spec/09 R272). -/
def counterMet (s : State) (c count : Nat) : Bool := (s.counter c + 2 ^ 32 - count % 2 ^ 32) % 2 ^ 32 < 2 ^ 31

/-- The ACTIVE partitions whose TEV is a counter. -/
def tevParts (s : State) (c : Nat) : List Nat := (s.parts.filter fun kv => kv.2.state == .active && kv.2.tev == c).map (·.1)

/-- Whether the waits of a launch record are met (spec/09 R250, R272). -/
def waitsMet (s : State) (r : BitVec 1024) : Bool :=
  (!r.getLsbD 575 || counterMet s (vbits r 544 12) (vbits r 512 32)) && (!r.getLsbD 639 || counterMet s (vbits r 608 12) (vbits r 576 32))

/-- Notes the moment at which a record's waits are first met (spec/09 R274). -/
def Pending.mark (s : State) (p : Pending) : Pending := if p.metAt.isNone && waitsMet s p.record then { p with metAt := some s.ccnt } else p

/-- Notes it for every record in the queues. -/
def State.markMet (s : State) : State := { s with sched := { s.sched with queues := s.sched.queues.mapVals fun _ l => l.map (·.mark s) } }

/-- Adds to an event counter modulo 2^32; an addition to a TEV invalidates translations first (spec/09 R272; spec/19 R426). -/
def State.addCounter (s : State) (c amount : Nat) : State :=
  let s := (tevParts s c).foldl State.forget s
  { s with sched := { s.sched with counters := s.sched.counters.set c ((s.counter c + amount) % 2 ^ 32) } }.markMet

end Sys2Proof.Machine
end

