-- ==== Sys2Proof/Machine/Unit.lean ====
section
/-!
DEFINITION. Errors and their records, interrupts, and what the module's own units write to memory: records of every kind, and the words beside them
(spec/10 R284, R285; spec/14 R355 to R357; spec/18 R412; spec/19 R428; spec/22 R462 to R467).
-/
namespace Sys2Proof.Machine

open Sys2Proof

/-! ### Interrupts and RAS records -/

/-- Sends an MSI-X vector to the owner of the lease: vector number and port (spec/18 R412). -/
def State.sendVector (s : State) (v : Nat) : State :=
  { s with host := { s.host with msix := s.host.msix ++ [256 * s.host.owner + v] } }

/-- Sends an MSI-X vector on both ports. -/
def State.sendBoth (s : State) (v : Nat) : State := { s with host := { s.host with msix := s.host.msix ++ [v, 256 + v] } }

/-- Vector 66, the RAS summary, which is not one of those kept to the owner (spec/18 R402, R412). -/
def State.sendRas (s : State) : State := s.sendBoth 66

/-- The 256 bits of a RAS record (spec/22 R466). -/
def rasRecord (ccnt addr unit detail kind cls die seq : Nat) : Nat :=
  ccnt % 2 ^ 64 * 2 ^ 192 + addr % 2 ^ 48 * 2 ^ 144 + unit % 2 ^ 16 * 2 ^ 128 + detail % 2 ^ 64 * 2 ^ 64 + kind % 256 * 2 ^ 56 + cls % 16 * 2 ^ 52 +
  die % 4 * 2 ^ 50 + seq % 2 ^ 32

/-- Writes a RAS record; every record other than a CE sends vector 66. -/
def State.rasAdd (s : State) (addr unit detail kind cls die : Nat) : State :=
  let n := s.ras.last
  let r := BitVec.ofNat 256 (rasRecord s.ccnt addr unit detail kind cls die n)
  let s := { s with ras := { s.ras with ring := s.ras.ring.set (n % 256) r, last := n + 1 } }
  if kind = 1 then s else s.sendRas

/-- Counts that stop at 0xFFFF_FFFF. -/
def bump (t : Tbl Nat) (c : Nat) : Tbl Nat := t.set c (min (t.getD c 0 + 1) 0xFFFFFFFF)

/-- The die under which errors of an address count (spec/22 R465): far-memory channels 12 d to 12 d + 11 count under die d. -/
def errDie (s : State) (pa : Nat) : Nat :=
  match homeOf s pa with
  | .near d => d | .weights d => d | .pantry d => d
  | .far => (pa - 2 ^ 40) / 4096 % 48 / 12
  | _ => 0

/-- A correctable error: counted, and recorded when the count is a multiple of 2^CESHIFT. -/
def State.countCe (s : State) (die cls addr unit : Nat) : State :=
  let s := s.modDie die fun x => { x with ce := bump x.ce cls }
  if (s.die die).ce.getD cls 0 % 2 ^ s.ras.ceShift = 0 then s.rasAdd addr unit 0 1 cls die else s

/-- The bank or channel of an address, for UNIT (spec/22 R466). -/
def unitOf (s : State) (pa : Nat) : Nat :=
  match homeOf s pa with
  | .weights d => bits (pa - 2 ^ 42 - d * 2 ^ 31) 12 6
  | .far => (pa - 2 ^ 40) / 4096 % 48
  | _ => 0

/-- The physical core that serves a logical core of a die. -/
def Die.phys (x : Die) (logical : Nat) : Nat := x.spares.getD logical logical

/-- The physical core behind a core, for UNIT. -/
def State.physCore (s : State) (core : Nat) : Nat := (s.die (dieOf core)).phys (core % Config.coresPerDie)

/-- An uncorrectable error of a class: counted and recorded. -/
def State.countUe (s : State) (die cls addr unit kind : Nat) : State :=
  (s.modDie die fun x => { x with ue := bump x.ue cls }).rasAdd addr unit 0 kind cls die

/-- A line of memory has met an error: its row may come due for repair (spec/22 R467). Correctable errors count within one patrol pass (R464). -/
def State.noteRow (s : State) (line : Nat) (hard : Bool) : State :=
  let pass := s.ccnt / 2 ^ 38
  if hard then (if s.ras.rowUes.contains line then s else { s with ras := { s.ras with rowUes := line :: s.ras.rowUes } })
  else { s with ras := { s.ras with rowPass := pass, rowCes := line :: if s.ras.rowPass = pass then s.ras.rowCes else [] } }

/-- An uncorrectable error in memory counts under the die of its home, with its bank or channel (spec/22 R465, R466). -/
def State.memoryUe (s : State) (pa cls kind : Nat) : State :=
  (if 4 ≤ cls ∧ cls ≤ 6 then s.noteRow (pa / 64) true else s).countUe (errDie s pa) cls (pa / 64 * 64) (unitOf s pa) kind

/-- The physical address behind a virtual one, as a read or a fetch finds it. -/
def State.paOf (s : State) (core part va : Nat) : Nat :=
  match translate s core part .read [(va, 1)] with
  | .ok pages => paVia pages va
  | _ => match translate s core part .fetch [(va, 1)] with
    | .ok pages => paVia pages va
    | _ => va

/-- An issuer of a core takes UE: an error in memory, at `pa`, or in the page tables it walked, is counted; one that no array gives is recorded alone
(spec/22 R466; log entry 65). -/
def State.meetUe (s : State) (core part pa : Nat) (t : Trap) : State :=
  if t.cause != causeUE then s
  else if t.info % 16 = 0 then s.rasAdd 0 (s.physCore core) 0 2 0 (dieOf core)
  else s.memoryUe (if bit t.info 12 then (tableUeAt s t.addr 3 (s.part part).ptRoot).getD pa else pa) (t.info % 16) 2

/-! ### Refresh windows (spec/10 R285; spec/01 R38) -/

/-- Whether the bank of a weight-store address is in its refresh window. -/
def inRefresh (s : State) (pa : Nat) : Bool :=
  match homeOf s pa with
  | .weights d =>
    let bank := bits (pa - 2 ^ 42 - d * 2 ^ 31) 12 6
    let t := s.ccnt % 2 ^ 20
    decide (t / 16384 = bank) && decide (t % 16384 < 512)
  | _ => false

/-- Whether a byte of a physical range lies in a bank in its refresh window: its first and last bytes and each 4 KiB bank between are tested. -/
def rangeRefresh (s : State) (pa n : Nat) : Bool :=
  n != 0 && ((range (pa / 4096) ((pa + n - 1) / 4096 + 1)).map fun u => max pa (u * 4096)).any (inRefresh s)

/-! ### Poison, and errors that are corrected (spec/22 R462, R463) -/

/-- A full line written clears its poison (spec/22 R463). -/
def State.unpoison (s : State) (line : Nat) : State :=
  if s.ras.poison.contains line then { s with ras := { s.ras with poison := s.ras.poison.filter (· != line) } } else s

/-- The class of the error a byte meets as some bytes are written: a partial write of a poisoned line, or a removed module (spec/22 R463, R469). -/
def writeUeAt (s : State) (pas : List Nat) (pa : Nat) : Option Nat :=
  if farGone s pa then some 6
  else if s.ras.poison.contains (pa / 64) && !((List.range 64).all fun i => pas.contains (pa / 64 * 64 + i)) then some (classOf (homeOf s pa))
  else none

/-- The class of the error a write of some bytes meets. -/
def writeUe (s : State) (pas : List Nat) : Option Nat := pas.findSome? (writeUeAt s pas)

/-- The class of the error a read of some bytes meets. -/
def readUe (s : State) (pas : List Nat) : Option Nat := pas.findSome? fun pa => ueAt s pa

/-- A latent correctable error of a line is corrected when the line is read, and counted (spec/22 R462). -/
def State.correct (s : State) (line : Nat) : State :=
  if s.ras.upsets.contains (line, false) then
    let pa := 64 * line
    (({ s with ras := { s.ras with upsets := s.ras.upsets.filter (· != (line, false)) } }).noteRow line false).countCe (errDie s pa) (classOf (homeOf s pa)) pa (unitOf s pa)
  else s

/-- A walk of an address has read its tables: what can be corrected there is. -/
def State.correctWalk (s : State) (part va : Nat) : State :=
  if s.ras.upsets.isEmpty then s else (walkLines s va 3 (s.part part).ptRoot).foldl State.correct s

/-- A core's and its die's TLBs hold new translations; those that neither held come from walks (spec/19 R425). -/
def State.learn (s : State) (core : Nat) (l : List TlbEntry) : State :=
  let walked := l.filter fun e => !(s.core core).tlb.contains e && !(s.die (dieOf core)).tlb.contains e
  let s := walked.foldl (fun s e => s.correctWalk e.partition e.va) s
  (s.modCore core fun x => { x with tlb := tlbAdd 128 x.tlb l }).modDie (dieOf core) fun x => { x with tlb := tlbAdd 16384 x.tlb l }

/-- Lines that a list of physical addresses covers whole lose their poison. -/
def State.unpoisonAll (s : State) (pas : List Nat) : State :=
  (pas.map (· / 64)).eraseDups.foldl (fun s n => if (List.range 64).all fun i => pas.contains (64 * n + i) then s.unpoison n else s) s

/-! ### Pantry shares (spec/14 R355 to R357) -/

/-- The first physical byte and the bytes of a partition's share on a die (spec/14 R355; spec/19 R416). -/
def shareOf (s : State) (part die : Nat) : Nat × Nat :=
  let x := (s.part part).share die
  (2 ^ 43 + die * 2 ^ 25 + x.1, x.2)

/-- Records of a share (spec/14 R356). -/
def recnOf (s : State) (base : Nat) : Nat := min (memNat s base 2) 16383

/-- The share that holds an address for a partition: its die and base. -/
def shareAt (s : State) (part pa : Nat) : Option (Nat × Nat) :=
  match homeOf s pa with
  | .pantry d =>
    let x := shareOf s part d
    if x.1 ≤ pa ∧ pa < x.1 + x.2 then some (d, x.1) else none
  | _ => none

/-- The record a physical address names for a partition: die, share base and slot (spec/14 R355). -/
def recordAt (s : State) (part pa : Nat) : Option (Nat × Nat × Nat) :=
  match shareAt s part pa with
  | some (d, base) =>
    let slot := (pa - base) / 256
    if 0 < slot ∧ slot ≤ recnOf s base then some (d, base, slot) else none
  | none => none

/-- The bytes that only the unit writes: words 0 to 6 of a header, word 0 of a record (spec/14 R357). -/
def unitOnly (s : State) (pa : Nat) : Bool :=
  s.parts.any fun kv => kv.2.state != .none &&
    match shareAt s kv.1 pa with
    | some (_, base) =>
      let slot := (pa - base) / 256
      let o := (pa - base) % 256
      if slot = 0 then decide (o < 56) else decide (slot ≤ recnOf s base) && decide (o < 8)
    | none => false

/-! ### What the units write -/

/-- Bytes have been stored: the fetch of a core that holds their lines does not see them yet. -/
def State.noteCode (s : State) (core : Option Nat) (agent : Option (Nat × Nat × Nat)) (pas : List Nat) : State :=
  if s.cores.all fun kv => kv.2.icache.isEmpty || pas.all fun pa => (kv.2.icache.get? (pa / 64)).isNone then s
  else { s with cores := s.cores.mapVals fun _ c =>
    { c with code := c.code ++ (pas.filter fun pa => (c.icache.get? (pa / 64)).isSome).map fun pa =>
        { pa := pa, value := memGet s.mem pa, core := core, agent := agent, covered := false, dropped := false } } }

/-- Whether memory takes a byte that a unit of the module writes: not where no memory stands, not in a weight store in READ state, and not over the bytes that
the Pantry atomic unit alone writes (spec/10 R281, R284; spec/14 R357; log entry 64). -/
def unitTakes (s : State) (pa : Nat) : Bool :=
  match homeOf s pa with
  | .near _ => true | .far => true | .host => true
  | .weights d => (s.die d).wsWrite
  | .pantry _ => !unitOnly s pa
  | _ => false

/-- A unit's write is performed: as one, or not at all where a byte is not taken or meets an uncorrectable error (spec/22 R463). -/
def State.putUnit (s : State) (pa : Nat) (l : List Byte) : State :=
  let pas := (List.range l.length).map (pa + ·)
  if !pas.all (unitTakes s) then s
  else match pas.find? fun a => (writeUeAt s pas a).isSome with
    | some a => s.memoryUe a ((writeUeAt s pas a).getD 0) 2
    | none => ({ s with mem := memWrite s.mem pa l }.unpoisonAll pas).noteCode none none pas

/-- A unit writes: at once, or behind its earlier writes when they or this one wait for a refresh window (spec/10 R285). -/
def State.unitWrite (s : State) (pa n v : Nat) : State :=
  if !s.late.isEmpty || rangeRefresh s pa n then { s with late := s.late ++ [(pa, natLe n v)] } else s.putUnit pa (natLe n v)

/-- The units' writes that waited are performed, oldest first, while no bank they reach is in its window. -/
def State.flushLate : Nat → State → State
  | 0, s => s
  | n + 1, s =>
    match s.late with
    | [] => s
    | x :: r => if rangeRefresh s x.1 x.2.length then s else State.flushLate n ({ s with late := r }.putUnit x.1 x.2)

/-! ### Fault records (spec/19 R428) -/

/-- The 256 bits of a fault record. -/
def faultRecord (ccnt va seq core acc kind level rev : Nat) : Nat :=
  ccnt % 2 ^ 64 * 2 ^ 192 + va % 2 ^ 57 * 2 ^ 135 + seq % 2 ^ 32 * 2 ^ 64 + core % 2 ^ 9 * 2 ^ 55 + acc % 8 * 2 ^ 52 + kind % 4 * 2 ^ 50 +
  level % 4 * 2 ^ 48 + rev % 2 ^ 32

/-- Posts a resolvable fault: the record in the ring, then FEV; nothing when the core has posted one for the page and the same REV. The page is the leaf of a
copy-on-write fault, and 64 KiB where there is no leaf (log entry 64). FEV waits while the record does, and one that is some partition's TEV as its rule says
(R426). -/
def State.postFault (s : State) (part core va acc kind level : Nat) : State :=
  let p := s.part part
  let rev := s.counter p.rev
  let page := if kind = 1 then roundDown va (2 ^ pageBits level) else roundDown va 65536
  let tag := (core, page, rev)
  if p.posted.contains tag then s
  else
    let s := s.unitWrite (p.ring + 32 * (p.faults % 2 ^ p.flog)) 32 (faultRecord s.ccnt va p.faults core acc kind level rev)
    let s := s.modPart part fun x => { x with faults := x.faults + 1, posted := tag :: x.posted.filter fun t => t.2.2 == rev }
    if (tevParts s p.fev).isEmpty && s.late.isEmpty then s.addCounter p.fev 1
    else
      let s := (tevParts s p.fev).foldl State.forget s
      { s with host := { s.host with closing := s.host.closing ++ [{ access := none, before := s.serial, signal := some (p.fev, 1), command := none }] } }

end Sys2Proof.Machine
end

