-- ==== Sys2Proof/Machine/Log.lean ====
section
/-!
DEFINITION. Log buffers and their records, stops and traps, and the ordering log (spec/08 R242; spec/19 R417; spec/20 R447, R451; spec/22 R473 to R476).
-/
namespace Sys2Proof.Machine

open Sys2Proof

/-! ### Log buffers (spec/22 R473, R474) -/

/-- Records a buffer holds. -/
def LogBuffer.cap (b : LogBuffer) : Nat := (b.bytes - 64) / 32

/-- The consumer's count, read at its home slice. -/
def logRp (s : State) (b : LogBuffer) : Nat := memNat s (b.pa + 8) 8

/-- Whether a reservation of `n` records fits. A kind that is off needs no room. -/
def logFits (s : State) (part kind n : Nat) : Bool :=
  match (s.part part).logs.get? kind with
  | none => true
  | some b => decide (b.wp + b.reserved + n ≤ logRp s b + b.cap)

/-- Whether `n` records of a kind fit, or as many as the buffer holds when they are more: then they wait until it is empty (log entry 68). -/
def roomFor (s : State) (part kind n : Nat) : Bool :=
  match (s.part part).logs.get? kind with
  | none => true
  | some b => logFits s part kind (min n b.cap)

/-- Whether a kind of log is on for a partition. -/
def logOn (s : State) (part kind : Nat) : Bool := ((s.part part).logs.get? kind).isSome

/-- LOGFULL for `n` records of a kind (spec/22 R474). -/
def logFull (kind n : Nat) : Trap := { cause := causeLOGFULL, info := kind + n % 256 * 2 ^ 8 }

/-- Raises a service request of a kind on a lane group, once while it is pending (spec/19 R437). -/
def State.request (s : State) (group kind : Nat) : State :=
  let c := s.core (group / 2)
  let e := lockedNat c (0xC0 + 8 * kind) 8
  if bit e 62 && bits e 46 16 == 0 && bits e 14 18 == 0 && !bit e 63 then
    if (s.group group).requests.contains kind then s
    else
      (s.modGroup group fun g =>
        { g with requests := g.requests ++ [kind],
                 deadline := match g.deadline with | some d => some d | none => some (s.part (s.corePartition (group / 2))).reload }).rouse (group / 2) 8
  else s

/-- Reserves room, and asks for a drain when half the buffer is spoken for (spec/22 R474). -/
def State.reserveLog (s : State) (part group kind n : Nat) : State :=
  match (s.part part).logs.get? kind with
  | none => s
  | some b =>
    let b' := { b with reserved := b.reserved + n }
    let s' := s.modPart part fun p => { p with logs := p.logs.set kind b' }
    if b.cap ≤ 2 * (b'.wp + b'.reserved - logRp s b) then s'.request group 1 else s'

/-- Returns reserved room. -/
def State.releaseLog (s : State) (part kind n : Nat) : State :=
  s.modPart part fun p => { p with logs := p.logs.modify kind fun b => { b with reserved := b.reserved - n } }

/-- Writes a record and publishes WP (spec/22 R473). -/
def State.appendLog (s : State) (part kind record : Nat) : State :=
  match (s.part part).logs.get? kind with
  | none => s
  | some b =>
    if b.cap = 0 then s
    else
      let s := s.unitWrite (b.pa + 64 + 32 * (b.wp % b.cap)) 32 record
      let s := s.unitWrite b.pa 8 (b.wp + 1)
      s.modPart part fun p => { p with logs := p.logs.set kind { b with wp := b.wp + 1 } }

/-- The 256 bits of a log record of any kind (spec/08 R242). -/
def logRecord (ccnt v1 v0 tag kind core lg wid seq : Nat) : Nat :=
  ccnt % 2 ^ 64 * 2 ^ 192 + v1 % 2 ^ 64 * 2 ^ 128 + v0 % 2 ^ 64 * 2 ^ 64 + tag % 256 * 2 ^ 56 + kind % 128 * 2 ^ 49 + core % 512 * 2 ^ 40 +
  lg % 2 * 2 ^ 39 + wid % 128 * 2 ^ 32 + seq % 2 ^ 32

/-- A scheduler-decision record of a lane group (spec/22 R475), for which room has been found. An issuer that runs its handler, and the service context, write
none (R474). -/
def State.decision (s : State) (part core group wid kind v0 v1 : Nat) : State :=
  if logOn s part 1 then
    let seq := (s.group group).decisions.getD kind 0
    let s := ((s.reserveLog part group 1 1).appendLog part 1 (logRecord s.ccnt v1 v0 0 kind core (group % 2) wid seq)).releaseLog part 1 1
    s.modGroup group fun g => { g with decisions := g.decisions.set kind (seq + 1) }
  else s

/-- A user-buffer record of a party: user, trace, sample and stop records share the warp's count (spec/08 R242; spec/20 R451). -/
def State.userRecord (s : State) (part core group key wid kind tag v0 v1 : Nat) : State :=
  if logOn s part 0 then
    let seq := (s.warp key).logged
    let s := ((s.reserveLog part group 0 1).appendLog part 0 (logRecord s.ccnt v1 v0 tag kind core (group % 2) wid seq)).releaseLog part 0 1
    s.modWarp key fun w => { w with logged := (w.logged + 1) % 2 ^ 32 }
  else s

/-- The TAG of a trace, sample or stop record: L of the launch. -/
def State.tagOf (s : State) (p : Party) : Nat := match s.partyLaunch p with | some l => l.number % 256 | none => 0

/-! ### Stops and traps (spec/19 R417; spec/20 R447) -/

/-- Whether a debugger holds a core. -/
def State.attached (s : State) (core : Nat) : Bool := (s.core core).dbg.dctl.getLsbD 63

/-- A stop or sample record that found no room is counted in SDROP (spec/20 R451). -/
def State.dropRecord (s : State) (core : Nat) : State :=
  s.modCore core fun c =>
    let n := c.dbg.dctl.toNat % 2 ^ 32
    { c with dbg := { c.dbg with dctl := BitVec.ofNat 64 (c.dbg.dctl.toNat / 2 ^ 32 * 2 ^ 32 + min (n + 1) 0xFFFFFFFF) } }

/-- A stop or sample record, dropped and counted when the buffer has no room (spec/20 R451). -/
def State.stopRecord (s : State) (part core group key wid kind tag v0 v1 : Nat) : State :=
  if !logOn s part 0 then s
  else if logFits s part 0 1 then s.userRecord part core group key wid kind tag v0 v1
  else s.dropRecord core

/-- A stop entry: results in flight land, the trap record and a stop record are written, and the path is held. INFO bits 28:24 count the results that land
early, those due at the end of the present slot or cycle apart. A path whose sibling runs a handler waits for its end, and then enters the stop before it
issues again (spec/19 R419). -/
def State.stop (s : State) (p : Party) (pc : Nat) (t : Trap) : State :=
  match partyKey p with
  | none => s
  | some k =>
    let g := partyGroup p
    let s := s.landNow g k
    let w := s.warp k
    let t' := { t with info := t.info + min w.inflight.length 31 * 2 ^ 24 }
    match p with
    | .path _ _ i =>
      if w.handler.isSome && w.handler != some i then
        s.modWarp k fun w => { w with paths := w.paths.modify i fun x => { x with wait := .handler, stopDue := some (pc, t) } }
      else
        let x := w.paths.getD i State.path0
        let s := s.modWarp k fun w =>
          let w := w.landAll.setRecord (recordOf t' i false pc s.ccnt)
          { w with paths := w.paths.modify i fun x => { x with held := true, steps := 0, stopDue := none } }
        s.stopRecord (s.partyPart p) (partyCore p) g k w.wid 0x04 (s.tagOf p) (i * 2 ^ 59 + x.pc % 2 ^ 57) (x.mask.toNat + w.bid % 2 ^ 32 * 2 ^ 32)
    | .thread _ _ =>
      let at' := match w.vliw with | some x => x.pc | none => pc
      let s := s.modWarp k fun w =>
        let w := w.landAll.setRecord (recordOf t' 0 true pc s.ccnt)
        { w with vliw := w.vliw.map fun x => { x with held := true, steps := 0, halting := .none } }
      let s := s.modGroup g fun x => { x with running := if x.running = some (k % Config.warpSlots) then none else x.running }
      s.stopRecord (s.partyPart p) (partyCore p) g k w.wid 0x04 (s.tagOf p) (at' % 2 ^ 57) (0xFFFFFFFF + w.bid % 2 ^ 32 * 2 ^ 32)
    | _ => s

/-- A party no longer waits to enter a copy command (spec/07 R211). -/
def State.leaveCopyQueue (s : State) (p : Party) : State :=
  match p with
  | .path g sl i => s.modCore (g / 2) fun c => { c with copyWait := c.copyWait.filter (· != ⟨g, sl, i⟩) }
  | .thread g sl => s.modCore (g / 2) fun c => { c with copyWait := c.copyWait.filter (· != ⟨g, sl, 0⟩) }
  | _ => s

/-- Taking a trap where a debugger may hold the core: BKPT and WATCH are then stops (spec/19 R417). -/
def State.raise (s : State) (p : Party) (pc : Nat) (locked : Bool) (t : Trap) : State :=
  let s := s.leaveCopyQueue p
  let s := s.meetUe (partyCore p) (s.partyPart p) (s.paOf (partyCore p) (s.partyPart p) t.addr) t
  let stops := (t.cause == causeBKPT || t.cause == causeWATCH) && s.attached (partyCore p) && !alwaysDiscards t p locked
  if stops then s.stop p pc t else s.takeTrap p pc locked t

/-! ### The ordering log (spec/22 R476) -/

/-- The code of a party in ordering records. -/
def partyCode (s : State) : Party → Nat
  | .path g sl _ => g / 2 * 256 + g % 2 * 128 + (s.warp (warpKey g sl)).wid
  | .thread g sl => g / 2 * 256 + g % 2 * 128 + (s.warp (warpKey g sl)).wid
  | .service g => g / 2 * 256 + g % 2 * 128
  | .seq c => c * 256 + 64

/-- The die and slice of a line's home (spec/10 R280). -/
def sliceOf (s : State) (pa : Nat) : Nat × Nat :=
  let die := match homeOf s pa with
    | .near d => d | .weights d => d | .pantry d => d
    | _ => bits pa 12 2
  (die, bits pa 6 6 ^^^ bits pa 12 6 ^^^ bits pa 18 6)

/-- A last recorded party of a line: its code, the written flag in bit 32, its partition above. -/
def lastOf (code part : Nat) (wrote : Bool) : Nat := code + b2n wrote * 2 ^ 32 + part * 2 ^ 33

/-- The partition in whose ordering buffer an access of a line is recorded; `own` is none for a host or a peer. -/
def orderPart (s : State) (line : Nat) (own : Option Nat) : Option Nat :=
  match own with
  | some p => if logOn s p 2 then some p else none
  | none => match s.ras.lastParty.get? line with
    | some y => if logOn s (y / 2 ^ 33) 2 then some (y / 2 ^ 33) else none
    | none => none

/-- Whether a recorded access of a line would write a record, and with which last party. -/
def orderDue (s : State) (line code : Nat) (wrote : Bool) : Option Nat :=
  match s.ras.lastParty.get? line with
  | none => none
  | some y => if y % 2 ^ 32 != code && (wrote || bit y 32) then some (y % 2 ^ 32) else none

/-- The partitions in whose ordering buffers accesses of lines, each with whether it writes, would write records. -/
def orderParts (s : State) (l : List (Nat × Bool)) (code : Nat) (own : Option Nat) : List Nat :=
  (l.filterMap fun x => if (orderDue s x.1 code x.2).isSome then orderPart s x.1 own else none).eraseDups

/-- How many records they would write into a partition's buffer. -/
def orderCount (s : State) (l : List (Nat × Bool)) (code : Nat) (own : Option Nat) (part : Nat) : Nat :=
  (l.filter fun x => orderPart s x.1 own == some part && (orderDue s x.1 code x.2).isSome).length

/-- Whether host, peer, copy or engine accesses of lines must wait for room (spec/22 R476). -/
def slicesBlocked (s : State) (l : List (Nat × Bool)) (code : Nat) (own : Option Nat) : Bool :=
  (orderParts s l code own).any fun p => !roomFor s p 2 (orderCount s l code own p) || match (s.part p).logs.get? 2 with | some b => b.wanted != 0 | none => false

/-- The buffers in which such accesses lack room, and the records they want there, where nothing has asked for room yet. -/
def slicesWant (s : State) (l : List (Nat × Bool)) (code : Nat) (own : Option Nat) : List (Nat × Nat) :=
  (orderParts s l code own).filterMap fun p =>
    let n := orderCount s l code own p
    if !roomFor s p 2 n && (match (s.part p).logs.get? 2 with | some b => b.wanted == 0 | none => false) then some (p, n) else none

/-- Accesses that must wait at a slice for room ask the device to reread RP. -/
def State.askRoom (s : State) (l : List (Nat × Bool)) (code : Nat) (own : Option Nat) : State :=
  (slicesWant s l code own).foldl (fun s x => s.modPart x.1 fun y => { y with logs := y.logs.modify 2 fun b => { b with wanted := x.2 } }) s

/-- An access of a line is performed at its slice: the ordering record, if one is due, and the line's last party (spec/22 R476). -/
def State.order (s : State) (line code : Nat) (own : Option Nat) (wrote : Bool) (access : Nat) : State :=
  match orderPart s line own with
  | none => s
  | some p =>
    let (die, slice) := sliceOf s (64 * line)
    let s := match orderDue s line code wrote with
      | some y =>
        let v0 := line * 64 % 2 ^ 48 + slice * 2 ^ 48 + die * 2 ^ 54 + access * 2 ^ 56
        let key := 64 * die + slice
        let seq := s.ras.sliceSeq.getD key 0
        let s := s.appendLog p 2 (logRecord s.ccnt (code + y * 2 ^ 32) v0 0 0x20 (code / 256 % 512) (code / 128 % 2) (code % 128) seq)
        { s with ras := { s.ras with sliceSeq := s.ras.sliceSeq.set key (seq + 1) } }
      | none => s
    { s with ras := { s.ras with lastParty := s.ras.lastParty.set line (lastOf code (own.getD p) wrote) } }

end Sys2Proof.Machine
end

