-- ==== Sys2Proof/Machine/Flags.lean ====
section
/-!
DEFINITION. The flags of SATF: how an operation's elements set them, how they are cleared, and when an armed SATF traps (spec/01 R35; spec/02 R62 to R64).
-/
namespace Sys2Proof.Machine

open Sys2Proof

/-- The flags of a list of element results: the OR of those of every written element (spec/02 R62). -/
def orFlagsOf : List (Nat × Nat) → Nat
  | [] => 0
  | (_, f) :: r => f ||| orFlagsOf r

/-- A result without flags. -/
def plain (v : Nat) : Nat × Nat := (v, 0)

/-- A SatTo result with SATF.SAT when it was clamped (spec/02 R59). -/
def satFlag (r : Nat × Bool) : Nat × Nat := (r.1, if r.2 then flagSat else 0)

/-- The sticky flags of SATF. -/
def satfFlags (x : Word64) : Nat := x.toNat % 16

/-- SATF.ARM. -/
def satfArm (x : Word64) : Bool := x.getLsbD 63

/-- The value SETSR leaves in SATF: ARM is written, the flags are cleared by ones, the rest is reserved (spec/01 R35; spec/00 R9). -/
def satfWrite (old v : Word64) : Word64 := (v &&& 0x8000000000000000) ||| (old &&& ~~~v &&& 0xF)

/-- SATURATE: an armed SATF with a flag set stops the next arrival at a block barrier (spec/02 R63). -/
def saturateGate (csr : Csrs) : Gate :=
  if satfArm csr.satf && satfFlags csr.satf != 0 then .trap { cause := causeSATURATE, info := satfFlags csr.satf } else .ok

/-- Sets flags for an issuer: its own SATF, or, for a sequencer, those of every live warp of its block (spec/02 R62, R64). -/
def State.raiseFlags (s : State) (e : Env) (flags : Nat) : State :=
  if flags = 0 then s
  else
    match e.party with
    | .seq _ => s.orBlockFlags e.w.launch e.w.bid flags
    | _ => s.modWarp e.key fun w => w.orFlags flags

end Sys2Proof.Machine
end

