-- ==== Sys2Proof/Machine/Transc.lean ====
section
/-!
DEFINITION. The correctly rounded functions (spec/06 R177, R178) and the activation tables (R179, R181).
RCP, RSQ and SQRT come from exact integer division and square root. EXP2, LOG2, SINP and COSP are evaluated in fixed point with 512 fraction
bits and a forced sticky bit; they are exact where the function value is rational (DEDUCED, log entry 4).
-/
namespace Sys2Proof.Machine

open Sys2Proof

/-- Integer square root, bit by bit from bit `n - 1` down. -/
def isqrtAux (x : Nat) : Nat → Nat → Nat
  | 0, r => r
  | n + 1, r => isqrtAux x n (if (r + 2 ^ n) * (r + 2 ^ n) ≤ x then r + 2 ^ n else r)

/-- Floor of the square root. -/
def isqrt (x : Nat) : Nat := isqrtAux x (bitLen x / 2 + 1) 0

/-- The sources of a one-argument f32 function: NaN, infinities, or a finite value. -/
def f32 : Fmt := .f32

/-- A nonzero finite magnitude rounded to f32. -/
def roundMag32 (mode : RMode) (rnd : Nat) (neg : Bool) (m : Nat) (e : Int) (sticky : Bool) : Nat × Nat :=
  roundTo f32 mode rnd ⟨neg, m, e, sticky⟩

/-- RCP: 1/a. -/
def fRcp (mode : RMode) (rnd a : Nat) : Nat × Nat :=
  match fDecode f32 a with
  | .nan => (quiet f32 a, 0)
  | .inf s => (f32.signBit s, 0)
  | .fin s m e =>
    if m = 0 then (f32.signBit s + f32.infMag, 0)
    else roundMag32 mode rnd s (2 ^ 128 / m) (-e - 128) (2 ^ 128 % m != 0)

/-- SQRT. -/
def fSqrt (mode : RMode) (rnd a : Nat) : Nat × Nat :=
  match fDecode f32 a with
  | .nan => (quiet f32 a, 0)
  | .inf s => if s then (f32.canonNaN, 0) else (a, 0)
  | .fin s m e =>
    if m = 0 then (a, 0)
    else if s then (f32.canonNaN, 0)
    else
      let odd := e % 2 != 0
      let y := (if odd then 2 * m else m) * 2 ^ 128
      let ey : Int := (if odd then e - 1 else e) - 128
      let r := isqrt y
      roundMag32 mode rnd false r (ey / 2) (r * r != y)

/-- RSQ: 1/sqrt a. -/
def fRsq (mode : RMode) (rnd a : Nat) : Nat × Nat :=
  match fDecode f32 a with
  | .nan => (quiet f32 a, 0)
  | .inf s => if s then (f32.canonNaN, 0) else (0, 0)
  | .fin s m e =>
    if m = 0 then (f32.signBit s + f32.infMag, 0)
    else if s then (f32.canonNaN, 0)
    else
      -- 1/(m 2^e) = (2^256 / m) 2^(-e-256), with an even exponent
      let odd := e % 2 != 0
      let den := if odd then 2 * m else m
      let ee : Int := if odd then e - 1 else e
      let y := 2 ^ 256 / den
      let r := isqrt y
      roundMag32 mode rnd false r (-(ee / 2) - 128) (r * r != y || 2 ^ 256 % den != 0)

/-- Fraction bits of the fixed-point evaluations. -/
def fixBits : Nat := 512

/-- The sum of `t`, `t y / k`, `t y^2 / (k (k+1))`, ...: the exponential series in fixed point. -/
def expSeries (y : Nat) : Nat → Nat → Nat → Nat
  | 0, _, _ => 0
  | n + 1, k, t => t + expSeries y n (k + 1) (((t * y) >>> fixBits) / k)

/-- Sum over odd k of t^k / k, with `p` the power and `t2` the square, in fixed point. -/
def oddSeries (t2 : Nat) : Nat → Nat → Nat → Nat
  | 0, _, _ => 0
  | n + 1, k, p => p / k + oddSeries t2 n (k + 2) ((p * t2) >>> fixBits)

/-- Alternating odd series of 1/x: arctangent of 1/x in fixed point; `x2` is x squared. -/
def atanInv (x2 : Nat) : Nat → Nat → Nat → Bool → Int
  | 0, _, _, _ => 0
  | n + 1, k, p, neg => (if neg then -((p / k : Nat) : Int) else ((p / k : Nat) : Int)) + atanInv x2 n (k + 2) (p / x2) (!neg)

/-- ln 2 in fixed point: 2 artanh(1/3). -/
def ln2Fix : Nat := 2 * oddSeries (2 ^ fixBits / 9) 170 1 (2 ^ fixBits / 3)

/-- pi in fixed point: 16 arctan(1/5) - 4 arctan(1/239). -/
def piFix : Nat := (16 * atanInv 25 120 1 (2 ^ fixBits / 5) false - 4 * atanInv 57121 40 1 (2 ^ fixBits / 239) false).toNat

/-- EXP2 (spec/06 R177, R178). Past plus or minus 2^12 the result has overflowed or underflowed. -/
def fExp2 (mode : RMode) (rnd a : Nat) : Nat × Nat :=
  match fDecode f32 a with
  | .nan => (quiet f32 a, 0)
  | .inf s => if s then (0, 0) else (a, 0)
  | .fin s m e =>
    if m = 0 then (0x3F800000, 0)
    else
      let big := (12 : Int) < (bitLen m : Int) + e
      -- a in fixed point; exact, since e is at least -149
      let v : Int := if big then (if s then -(4096 * 2 ^ fixBits : Int) else 4096 * 2 ^ fixBits)
        else
          let u : Nat := if 0 ≤ e + fixBits then m * 2 ^ (e + fixBits).toNat else 0
          if s then -(u : Int) else u
      let n : Int := v / 2 ^ fixBits
      let fr : Nat := (v % 2 ^ fixBits).toNat
      let r :=
        if fr = 0 then roundMag32 mode rnd false 1 n false
        else
          let y := (fr * ln2Fix) >>> fixBits
          roundMag32 mode rnd false (expSeries y 110 1 (2 ^ fixBits)) (n - fixBits) true
      r

/-- LOG2 (spec/06 R177, R178). -/
def fLog2 (mode : RMode) (rnd a : Nat) : Nat × Nat :=
  match fDecode f32 a with
  | .nan => (quiet f32 a, 0)
  | .inf s => if s then (f32.canonNaN, 0) else (a, 0)
  | .fin s m e =>
    if m = 0 then (f32.signBit true + f32.infMag, 0)
    else if s then (f32.canonNaN, 0)
    else
      let top := bitLen m - 1
      let k : Int := top + e
      if m = 2 ^ top then roundDy f32 mode rnd false ⟨k, 0⟩
      else
        -- z = m / 2^top in (1, 2); ln z = 2 artanh((m - 2^top) / (m + 2^top))
        let t := (m - 2 ^ top) * 2 ^ fixBits / (m + 2 ^ top)
        let lnz := 2 * oddSeries ((t * t) >>> fixBits) 170 1 t
        let lg : Nat := lnz * 2 ^ fixBits / ln2Fix
        let v : Int := k * 2 ^ fixBits + lg
        -- a magnitude read from a floor: for a negative value the true magnitude lies just below
        if v < 0 then roundMag32 mode rnd true (v.natAbs - 1) (-(fixBits : Int)) true
        else roundMag32 mode rnd false v.natAbs (-(fixBits : Int)) true

/-- The sine series of y, or with k = 1 and t = 1 the cosine series: t - t y^2/((k+1)(k+2)) + ... -/
def trigSeries (y2 : Nat) : Nat → Nat → Nat → Bool → Int
  | 0, _, _, _ => 0
  | n + 1, k, t, neg =>
    (if neg then -(t : Int) else (t : Int)) + trigSeries y2 n (k + 2) (((t * y2) >>> fixBits) / ((k + 1) * (k + 2))) (!neg)

/-- sin(2 pi r) for r in [0, 1/4] given in fixed point; floor of the value in fixed point. -/
def sinTurn (r : Nat) : Nat :=
  let y := (2 * r * piFix) >>> fixBits
  (trigSeries ((y * y) >>> fixBits) 90 1 y false).toNat

/-- cos(2 pi r) for r in [0, 1/4] given in fixed point. -/
def cosTurn (r : Nat) : Nat :=
  let y := (2 * r * piFix) >>> fixBits
  (trigSeries ((y * y) >>> fixBits) 90 0 (2 ^ fixBits) false).toNat

/-- A fixed-point function value with its sign; the value is irrational, so the sticky bit is forced. -/
def trigResult (mode : RMode) (rnd : Nat) (neg : Bool) (v : Nat) : Nat × Nat :=
  roundMag32 mode rnd neg (min v (2 ^ fixBits - 1)) (-(fixBits : Int)) true

/-- The fractional part of a magnitude m 2^e in quarters of a turn: the quadrant and the rest in fixed point. -/
def turnFrac (m : Nat) (e : Int) : Nat :=
  if 0 ≤ e then 0 else (m * 2 ^ (e + fixBits).toNat) % 2 ^ fixBits

/-- SINP: sin 2 pi a (spec/06 R177, R178). -/
def fSinp (mode : RMode) (rnd a : Nat) : Nat × Nat :=
  match fDecode f32 a with
  | .nan => (quiet f32 a, 0)
  | .inf _ => (f32.canonNaN, 0)
  | .fin s m e =>
    let one := 2 ^ fixBits
    let fr := if m = 0 then 0 else turnFrac m e
    let q := fr / (one / 4)
    let r := fr % (one / 4)
    if r = 0 then
      if q = 1 then (f32.signBit s + 0x3F800000, 0)
      else if q = 3 then (f32.signBit (!s) + 0x3F800000, 0)
      else (f32.signBit s, 0)
    else
      let neg := (decide (2 ≤ q)) != s
      -- the odd quadrants run backwards
      trigResult mode rnd neg (if q % 2 = 0 then sinTurn r else sinTurn (one / 4 - r))

/-- COSP: cos 2 pi a (spec/06 R177, R178). -/
def fCosp (mode : RMode) (rnd a : Nat) : Nat × Nat :=
  match fDecode f32 a with
  | .nan => (quiet f32 a, 0)
  | .inf _ => (f32.canonNaN, 0)
  | .fin _ m e =>
    let one := 2 ^ fixBits
    let fr := if m = 0 then 0 else turnFrac m e
    let q := fr / (one / 4)
    let r := fr % (one / 4)
    if r = 0 then
      if q = 0 then (0x3F800000, 0)
      else if q = 2 then (0xBF800000, 0)
      else (0, 0)
    else
      let neg := q == 1 || q == 2
      trigResult mode rnd neg (if q % 2 = 0 then cosTurn r else cosTurn (one / 4 - r))

/-- The value of an f32 field of an activation table at a byte offset; the table is 8,192 bits (spec/06 R179). -/
def tableWord (table : BitVec 8192) (bitOff : Nat) : Nat := vbits table bitOff 32

/-- ACT (spec/06 R181). -/
def fAct (table : BitVec 8192) (mode : RMode) (rnd a : Nat) : Nat × Nat :=
  let lo := tableWord table 0
  let sw := sInt 8 (vbits table 32 8)
  match fDecode f32 a with
  | .nan => (quiet f32 a, 0)
  | x0 =>
    match fDecode f32 lo with
    | .fin ls lm le =>
      let loD := Dy.ofFin ls lm le
      let hiD := loD.add ⟨64, sw⟩
      let below : Bool := match x0 with
        | .inf s => s
        | .fin s m e => (Dy.ofFin s m e).lt loD
        | .nan => false
      let above : Bool := match x0 with
        | .inf s => !s
        | .fin s m e => hiD.lt (Dy.ofFin s m e)
        | .nan => false
      let x1 : Option Dy :=
        if below && vbits table 40 1 = 1 then some loD
        else if above && vbits table 41 1 = 1 then some hiD
        else match x0 with
          | .fin s m e => some (Dy.ofFin s m e)
          | _ => none
      match x1 with
      | none => (f32.canonNaN, 0)
      | some x =>
        let d := x.add ⟨-loD.m, loD.e⟩
        -- Floor(d / 2^sw), limited to 0..63
        let kk : Int := if sw ≤ d.e then d.m * 2 ^ (d.e - sw).toNat else d.m / 2 ^ (sw - d.e).toNat
        let k : Nat := (max 0 (min 63 kk)).toNat
        let u := d.add ⟨-(k : Int), sw⟩
        let uF : FVal := .fin (u.m < 0) u.m.natAbs u.e
        let c0 := fDecode f32 (tableWord table (96 * k + 128))
        let c1 := fDecode f32 (tableWord table (96 * k + 160))
        let c2 := fDecode f32 (tableWord table (96 * k + 192))
        roundSum f32 mode rnd f32.canonNaN (sumTerms mode [c0, c1.mul uF, (c2.mul uF).mul uF])
    | _ => (f32.canonNaN, 0)

/-- The Whisk generator: counter of 128 bits, key of 64 bits, result of 128 bits (spec/06 R185). -/
def whiskRounds : Nat → BitVec 32 → BitVec 32 → BitVec 32 → BitVec 32 → BitVec 32 → BitVec 32 → BitVec 128
  | 0, x0, x1, x2, x3, _, _ => x3 ++ x2 ++ x1 ++ x0
  | n + 1, x0, x1, x2, x3, k0, k1 =>
    let x0 := x0 + (x1 ^^^ k0)
    let x1 := x1.rotateLeft 11 ^^^ x0
    let x2 := x2 + (x3 ^^^ k1)
    let x3 := x3.rotateLeft 19 ^^^ x2
    let x0 := x0 + x3
    let x3 := x3.rotateLeft 7 ^^^ x0
    let x2 := x2 + x1
    let x1 := x1.rotateLeft 23 ^^^ x2
    whiskRounds n x0 x1 x2 x3 (k0 + 0x9E3779B9#32) (k1 + 0x6A09E667#32)

/-- Whisk(counter, key) (spec/06 R185). -/
def whisk (ctr : BitVec 128) (key : BitVec 64) : BitVec 128 :=
  whiskRounds 4 (ctr.extractLsb' 0 32) (ctr.extractLsb' 32 32) (ctr.extractLsb' 64 32) (ctr.extractLsb' 96 32)
    (key.extractLsb' 0 32) (key.extractLsb' 32 32)

/-- The random word of element e of a stochastic rounding (spec/02 R57). -/
def srWord (srseq : BitVec 64) (gid0 : Nat) (key : BitVec 64) (e : Nat) : Nat :=
  let ctr := BitVec.ofNat 128 (srseq.toNat <<< 64 ||| (gid0 % 2 ^ 32) <<< 32 ||| (e / 4) % 2 ^ 32)
  bits (whisk ctr key).toNat (32 * (e % 4)) 32

end Sys2Proof.Machine
end

