-- ==== Sys2Proof/Machine/Operands.lean ====
section
/-!
DEFINITION. Operands: which elements an operation touches, the value each source supplies, the predicate test, and how results reach registers
(spec/01 R24 to R31; spec/03 R78, R81, R82, R85, R88; spec/05 R118 to R120; spec/06 R151, R166).
-/
namespace Sys2Proof.Machine

open Sys2Proof

/-! ### Immediates -/

/-- A 32-bit literal widened to f64 (spec/03 R82). -/
def widenLit (l : Nat) : Nat :=
  if bits l 23 8 = 255 ∧ bits l 0 23 ≠ 0 then (bits l 31 1 <<< 63) + (0x7FF <<< 52) + (1 <<< 51) + (bits l 0 22 <<< 29)
  else (fConv .f32 .f64 .rne 0 l).1

/-- The value an immediate supplies to every element of an operation of a type (spec/03 R81). -/
def immBits (t : Ty) (w : IWord) : Operand → Nat
  | .small n =>
    if t.isFloat then (roundDy (Fmt.ofTy t) .rne 0 false ⟨smallInt n, 0⟩).1
    else wrap t.width (smallInt n)
  | .lit pair j =>
    let v := litRaw w pair j
    if pair then v % 2 ^ t.width
    else if t == .f64 then widenLit v
    else if t == .i64 then wrap 64 (sInt 32 v)
    else v % 2 ^ t.width
  | _ => 0

/-- An element in its register container: an f6e3 element has bits 7:6 written as 0 and ignored when read (spec/02 R49). -/
def cellBits (t : Ty) (x : Nat) : Nat := if t == .f6e3 then x % 64 else x

/-! ### Places in a register -/

/-- Lanes an operation covers: the warp in SIMT, one cluster in a slot (spec/06 R166). -/
def Env.lanes (e : Env) : Nat := if e.view.inSlot then 8 else 32

/-- The bit offset in a row of a lane's part of a class-00 operand: its slot, or its word in word scope (spec/01 R24, R25, R30). -/
def Env.unitOff (e : Env) (word : Bool) (k lane : Nat) : Nat :=
  if e.view.inSlot then 128 * (8 * k + lane)
  else if word then 128 * lane + 32 * k
  else 128 * lane

/-- Whether lane `lane` issues: in SIMT the threads of the path, in a slot every lane (spec/06 R166). -/
def Env.active (e : Env) (lane : Nat) : Bool := e.view.inSlot || e.mask.getLsbD lane

/-- The predicate test at a granule bit of the mask (spec/01 R28, R29). -/
def Env.predAt (e : Env) (w : IWord) (granule : Nat) : Bool :=
  match predMask w with
  | none => true
  | some m => (e.w.mask m).getLsbD granule != w.pred.getLsbD 4

/-- The granule at which an operation with no vector result tests its predicate: in SIMT bit 32 t of the leader, in a slot bit 0 of the view of the
cluster it stands for, or of the whole mask (spec/03 R85; spec/05 R119). -/
def Env.scalarGranule (e : Env) : Nat :=
  match e.view with
  | .simt => 32 * e.leader
  | .stream => 0
  | .slot _ => if e.named then 256 * e.hi else 0

/-- The predicate of an operation with no vector result. -/
def Env.scalarPred (e : Env) (w : IWord) : Bool := e.predAt w e.scalarGranule

/-- The number of a lane in its warp or thread. -/
def Env.laneNo (e : Env) (lane : Nat) : Nat := if e.view.inSlot then 8 * e.hi + lane else lane

/-- The predicate of a whole lane: bit 32 t (spec/01 R28). -/
def Env.lanePred (e : Env) (w : IWord) (lane : Nat) : Bool := e.predAt w (32 * e.laneNo lane)

/-- The lanes that issue and whose predicate bit 32 t passes. -/
def Env.lanesOn (e : Env) (w : IWord) : List Nat := (List.range e.lanes).filter fun t => e.active t && e.lanePred w t

/-! ### Sources -/

/-- The bits a source supplies at a place: `i` counts elements of width `t.width` in the lane's slot or word, `q` registers of a pair or quad. -/
def Env.elem (e : Env) (w : IWord) (t : Ty) (word : Bool) (o : Operand) (q lane i : Nat) : Nat :=
  match o with
  | .vec k n => vbits (e.w.row (n.val + q)) (e.unitOff word k.val lane + t.width * i) t.width
  | .sreg n => (e.w.sreg n.val).toNat % 2 ^ t.width
  | .special j => e.special j.val (e.laneNo lane) % 2 ^ t.width
  | .mask m => vbits (e.w.mask m.val) ((e.unitOff word e.hi lane + t.width * i) / 4) (t.width / 4)
  | o => immBits t w o

/-- The value of a uniform source for a type: the lane-0 value of a special operand (spec/01 R27). -/
def Env.uniform (e : Env) (w : IWord) (t : Ty) (o : Operand) : Nat :=
  match o with
  | .special j => e.special j.val 0 % 2 ^ t.width
  | o => e.elem w t false o 0 0 0

/-- U(a) of an operand taken as a 64-bit unsigned number (spec/07 R186; spec/05 R141). -/
def Env.u64 (e : Env) (w : IWord) (o : Operand) : Nat := e.uniform w .n64 o

/-- A 64-bit operand read as a signed integer: literals sign-extended (spec/07 R186). -/
def Env.i64 (e : Env) (w : IWord) (o : Operand) : Int := sInt 64 (e.uniform w .i64 o)

/-! ### Rounding -/

/-- The mode of an operation: the one its word names, else RMODE (spec/02 R58; spec/03 R76). -/
def Env.mode (e : Env) (rnd : Nat) : RMode := RMode.ofCode (if rnd = 0 then e.w.csr.rmode else rnd - 1)

/-- The random word of element `n` of the destination (spec/02 R57). -/
def Env.rand (e : Env) (n : Nat) : Nat :=
  srWord e.w.srseq ((e.w.bid * e.blockThreads + e.w.wid * 32) % 2 ^ 32) e.srKey n

/-! ### Results -/

/-- A register result: the physical register, its specifier, and the bits it replaces. -/
structure Res where
  reg : RegId
  spec : BitVec 10
  value : Nat
  mask : Nat
deriving DecidableEq, Repr

/-- What an operation leaves: register results, SATF flags, and whether it took a value of SRSEQ. -/
structure Out where
  writes : List Res
  flags : Nat
  random : Bool
deriving DecidableEq, Repr

/-- The number of elements of a type in a lane's slot or word. -/
def perUnit (t : Ty) (word : Bool) : Nat := (if word then 32 else 128) / t.width

/-- The places of register `q` of a class-00 destination that are written: lane, element of the lane, and bit offset in the row. An element is written
when its lane issues and the predicate bit of its lowest granule passes (spec/01 R28). -/
def Env.places (e : Env) (w : IWord) (t : Ty) (word : Bool) (k : Nat) : List (Nat × Nat × Nat) :=
  (List.range e.lanes).flatMap fun lane =>
    if e.active lane then
      (List.range (perUnit t word)).filterMap fun i =>
        let off := e.unitOff word k lane + t.width * i
        if e.predAt w (off / 4) then some (lane, i, off) else none
    else []

/-- The pattern an s-register destination receives: sign-extended for i types, else zero-extended (spec/05 R118). -/
def extendTo64 (t : Ty) (v : Nat) : Nat := if t.isSigned then wrap 64 (sInt t.width v) else v % 2 ^ 64

/-- The value and mask of a vector row write, and the flags, of a list of places with an element function of the place and the element number: it counts in the
whole register, in a vector slot too (DESIGN CHOICE, log entry 66; spec/02 R57). -/
def rowWrite (t : Ty) (l : List (Nat × Nat × Nat)) (f : Nat → Nat → Nat → Nat × Nat) : (Nat × Nat) × Nat :=
  let r := l.map fun p => (p.2.2, f p.1 p.2.1 (p.2.2 / t.width))
  (gatherBits (r.map fun x => (x.1, t.width, x.2.1)), orFlagsOf (r.map fun x => x.2))

/-- One register result of an element-wise operation (spec/05 R120). A write to s0 is discarded and sets no flag; an unwritten result still takes its
latency (spec/04 R113). `f` takes the lane, the element of the lane and the element number in the whole
register, which is 0 for an s-register destination. -/
def Env.result (e : Env) (w : IWord) (t : Ty) (word : Bool) (q : Nat) (f : Nat → Nat → Nat → Nat × Nat) : List Res × Nat :=
  match w.d with
  | .vec k n =>
    let r := rowWrite t (e.places w t word k.val) f
    ([{ reg := .v (physRow e.w.vrot (n.val + q)) (if e.view.inSlot then 2 ^ k.val else if word then 2 ^ k.val else 15), spec := specAt w.d q,
        value := r.1.1, mask := r.1.2 }], r.2)
  | .sreg n =>
    let r := f 0 0 0
    let on := e.scalarPred w
    if n = 0 then ([], 0)
    else ([{ reg := .s n.val, spec := encodeSpec w.d, value := extendTo64 t r.1, mask := if on then 2 ^ 64 - 1 else 0 }], if on then r.2 else 0)
  | .mask m =>
    let l := e.places w t word e.hi
    let r := l.map fun p => (p.2.2, f p.1 p.2.1 (p.2.2 / t.width))
    let g := gatherBits (r.map fun x => (x.1 / 4, t.width / 4, if x.2.1 % 2 = 1 then 2 ^ (t.width / 4) - 1 else 0))
    ([{ reg := .m (physMask e.w.mrot m.val), spec := encodeSpec w.d, value := g.1, mask := g.2 }], orFlagsOf (r.map fun x => x.2))
  | _ => ([], 0)

/-- A single value written to an s register under the operation's predicate (spec/05 R119). -/
def Env.sResult (e : Env) (w : IWord) (v : Nat) : Out :=
  match w.d with
  | .sreg n =>
    if n = 0 then ⟨[], 0, false⟩
    else ⟨[{ reg := .s n.val, spec := encodeSpec w.d, value := v % 2 ^ 64, mask := if e.scalarPred w then 2 ^ 64 - 1 else 0 }], 0, false⟩
  | _ => ⟨[], 0, false⟩

/-- The results of the `span` registers of a destination. -/
def Env.results (e : Env) (w : IWord) (t : Ty) (word : Bool) (span : Nat) (sr : Bool) (f : Nat → Nat → Nat → Nat → Nat × Nat) : Out :=
  let n := match w.d with | .vec _ _ => span | _ => 1
  let rs := (List.range n).map fun q => e.result w t word q (f q)
  ⟨rs.flatMap (·.1), (rs.map (·.2)).foldl (· ||| ·) 0, sr⟩

/-- The count in which a party's results fall due: arithmetic cycles in SIMT, issue slots in VLIW (spec/04 R113; spec/03 R88). -/
def Env.dueBase (e : Env) : Nat := if e.view.inSlot then e.w.slots else e.acyc

/-- A result as it stands in flight. -/
def Res.inFlight (r : Res) (due : Nat) : InFlight :=
  { reg := r.reg, value := BitVec.ofNat 4096 r.value, bits := BitVec.ofNat 4096 r.mask, due := due, spec := r.spec,
    bank := none, reads := [], born := 0 }

/-- Sends results on their way with a latency. A sequencer's registers are written at once (spec/08 R218). -/
def State.send (s : State) (e : Env) (lat : Nat) (l : List Res) : State :=
  match e.party with
  | .seq c => s.modCore c fun x => { x with seq := x.seq.map fun q =>
      { q with s := l.foldl (fun t r => match r.reg with | .s n => setS t n (BitVec.ofNat 64 r.value) | _ => t) q.s } }
  | _ => s.modWarp e.key fun w => { w with inflight := w.inflight ++ l.map (·.inFlight (e.dueBase + lat)) }

/-- Commits the results of an operation: its registers fall due, its flags are set at once, and SR takes one value of SRSEQ (spec/02 R57, R62). -/
def State.commit (s : State) (e : Env) (lat : Nat) (o : Out) : State :=
  let s := (s.send e lat o.writes).raiseFlags e o.flags
  if o.random then s.modWarp e.key fun w => { w with srseq := w.srseq + 1 } else s

/-- An operation that only computes: nothing of its own stands before it, and its results fall due after its latency. -/
def computeSem (op : Nat) (w : IWord) (out : Env → Out) : Sem :=
  { op := op, w := w, gate := fun _ _ => .ok, eff := fun e s => s.commit e (wordLat e op w) (out e) }

end Sys2Proof.Machine
end

