-- ==== Sys2Proof/Machine/Issue.lean ====
section
/-!
DEFINITION. How one operation issues in the view of its party: a word of SIMT or of the matrix stream by itself, an operation of a bundle together with
the rest of its bundle (spec/03 R86 to R93; spec/04 R109, R113 to R116; spec/05 R144).
-/
namespace Sys2Proof.Machine

open Sys2Proof

/-- An operation of a bundle. -/
structure SlotOp where
  slot : Slot
  sem : Sem

/-- The environment of a slot's operation. -/
def State.slotEnv (s : State) (c : Cur) (o : SlotOp) : Env := (s.env { c with slot := some o.slot }).forOp o.sem.op o.sem.w

/-- A trap of the first failing operation, naming every slot whose operation traps for the same cause. -/
def mergeTraps : List (Slot × Gate) → Option Trap
  | [] => none
  | (sl, .trap t) :: r =>
    match mergeTraps r with
    | some u => if u.cause = t.cause then some { t with slots := u.slots ||| slotBit sl } else some { t with slots := slotBit sl }
    | none => some { t with slots := slotBit sl }
  | _ :: r => mergeTraps r

/-- The first plain wait among gates. -/
def firstWait : List (Slot × Gate) → Option Wait
  | [] => none
  | (_, .wait r) :: _ => some r
  | _ :: r => firstWait r

/-- The first wait that itself changes the state, such as a BAR sync that arrives. -/
def firstHold : List (Slot × Gate) → Option (State × Wait)
  | [] => none
  | (_, .hold s r) :: _ => some (s, r)
  | _ :: r => firstHold r

/-- The latency of the registers a word writes: LOOP.dec's count register is written with latency 1 (DESIGN CHOICE, log entry 66). -/
def destLat (e : Env) (op : Nat) (w : IWord) : Nat := if op = 0xD6 then 1 else wordLat e op w

/-- A collision of a new fixed-latency result with one in flight, when SCBCHK.EN is 1 (spec/03 R90). -/
def collision (e : Env) (op : Nat) (w : IWord) : Option (BitVec 10) :=
  let due := e.w.slots + destLat e op w
  ((wordDests e op w).find? fun d => destLat e op w != 0 && e.w.inflight.any fun f => f.due == due && f.reg.overlaps d.1).map (·.2)

/-- What stands before a bundle as a whole (spec/04 R109 steps 3 and 4; spec/03 R89, R90), and then each operation's own gate. -/
def bundleGates (ops : List SlotOp) (c : Cur) (s : State) : List (Slot × Gate) :=
  let envs := ops.map fun o => (o, s.slotEnv c o)
  let mode := envs.map fun x => (x.1.slot, x.2.modeCheck x.1.sem.op x.1.sem.w)
  let lp := mode.filter fun x => match x.2 with | .trap t => t.cause == causeLPILL | _ => false
  if !lp.isEmpty then lp
  else if (mergeTraps mode).isSome then mode
  else
    let key := (partyKey c.party).getD 0
    let pend := s.pending key
    if envs.any fun x => (wordRegs x.2 x.1.sem.op x.1.sem.w).any fun r => pend.any fun p => p.overlaps r.1 then [(.s0, .wait .pending)]
    else
      let coll := envs.filterMap fun x =>
        if x.2.w.csr.scbchk then (collision x.2 x.1.sem.op x.1.sem.w).map fun r => (x.1.slot, (.trap { cause := causeSTALLCHK, info := r.toNat } : Gate))
        else none
      if !coll.isEmpty then coll
      else envs.map fun x => (x.1.slot, x.1.sem.gate x.2 s)

/-- The place of an operation's effect among those of its bundle: a SETSR of SATF comes before the flags that the bundle sets, which stay set (spec/02
R62); any other SETSR comes after the operations, which see the old value (spec/08 R238); EXIT and MODE come last, so that the other operations act for
the warp as it was (spec/05 R140, R148). -/
def SlotOp.rank (o : SlotOp) : Nat :=
  if o.sem.op = 0xE1 then (if immInt o.sem.w o.sem.w.a = some 0 then 0 else 2)
  else if o.sem.op = 0xD5 ∨ o.sem.op = 0xD8 then 3
  else 1

/-- The operations of a bundle in the order of their effects, slot order within each place. -/
def effectOrder (l : List (SlotOp × Env)) : List (SlotOp × Env) := ([0, 1, 2, 3] : List Nat).flatMap fun k => l.filter fun x => x.1.rank == k

/-- The effects of a bundle's operations: every operation reads the registers as they stood before the bundle, and operations that round
in SR take consecutive values of SRSEQ (spec/02 R57; spec/03 R88). -/
def bundleEffects : List (SlotOp × Env) → State → State
  | [], s => s
  | (o, e) :: r, s =>
    let e' := { e with w := { e.w with srseq := (s.warp e.key).srseq } }
    bundleEffects r (o.sem.eff e' s)

/-- Moves a VLIW thread or a service context to an address: a taken transfer of control (spec/05 R136, R144). -/
def State.jump (s : State) (p : Party) (pc : Nat) : State :=
  match partyKey p with
  | some k => s.modWarp k fun w => { w with vliw := w.vliw.map fun x => { x with pc := pc, jumped := true } }
  | none => s

/-- A loop entry after one more run of its body (spec/05 R144). -/
def Loop.next (e : Loop) : Loop :=
  let e := { e with iter := (e.iter + 1) % 2 ^ 32, pro := e.pro - 1 }
  if 0 < e.count then { e with count := e.count - 1 } else { e with epi := e.epi - 1 }

/-- Rotates the vector rows and masks by one; a thread with fewer than 64 rows rotates only masks (spec/01 R31). -/
def Warp.rotate (w : Warp) : Warp :=
  { w with vrot := if w.rows = 64 then (w.vrot + 1) % 16 else w.vrot, mrot := (w.mrot + 1) % 8 }

/-- Writes every bit of a mask name. -/
def Warp.setMask (w : Warp) (n : Nat) (v : MaskBits) : Warp := { w with m := w.m.set (physMask w.mrot n) v }

/-- The end of a loop body, processed after a bundle or the last empty bundle of a run commits (spec/05 R144). `before` is the depth of the loop stack
before the item issued, `after` gives the address of the bundle after END. -/
def loopEnd (s : State) (key pc before : Nat) (after : Nat → Nat) : State :=
  s.modWarp key fun w =>
    match w.vliw with
    | none => w
    | some x =>
      match x.loops with
      | [] => w
      | e :: rest =>
        if x.jumped || e.last != pc || before < x.loops.length then w
        else
          let e' := e.next
          let w := (w.rotate).setMask 8 0
          let w := if 0 < e'.count then w.setMask 8 (BitVec.allOnes 1024) else w
          if e'.count = 0 ∧ e'.epi = 0 then { w with vliw := some { x with loops := rest, pc := after e.last } }
          else { w with vliw := some { x with loops := e' :: rest, pc := e'.start } }

/-- Counts an issue slot of a service run, and a bundle of a watchpoint predicate (spec/19 R437; spec/20 R449). -/
def State.serviceSlot (s : State) (p : Party) (bundle : Bool) : State :=
  match p with
  | .service g => s.modGroup g fun x => { x with service := x.service.map (· + 1), predicate := if bundle then x.predicate.map (· + 1) else x.predicate }
  | _ => s

/-- A bundle has issued: the position moves on, the counts rise, its STALL slots follow (spec/03 R88; spec/08 R239). -/
def State.advanceBundle (s : State) (c : Cur) (h : Header) : State :=
  (s.serviceSlot c.party true).modWarp ((partyKey c.party).getD 0) fun w =>
    { w with committed := w.committed + 1, slots := w.slots + 1,
             vliw := w.vliw.map fun x => { x with pc := c.next, wait := .none, released := false, stall := h.stall, yielded := h.yield, jumped := false } }

/-! ### The top-down tree (spec/22 R470, R471) -/

/-- Moves units of a tick from one leaf to another. -/
def moveUnits (t : Tbl Nat) (src dst n : Nat) : Tbl Nat := (t.set src (t.getD src 0 - n)).set dst ((t.set src (t.getD src 0 - n)).getD dst 0 + n)

/-- Whether an item of a lane group has issued in this cycle. -/
def Group.issuedIn (x : Group) (ccnt : Nat) : Bool :=
  x.issuedSimt == ccnt + 1 || x.issuedPrimary == ccnt + 1 || x.issuedSecondary == ccnt + 1 || x.issuedService == ccnt + 1

/-- Units that the operations of an item take from EMPTY: all 11 of a service context go to SERVICE; in a conflict cycle the M0 unit goes to BANK unless
M0 holds an issued operation (spec/22 R471). -/
def itemUnits (first service conflict : Bool) (l : List (Slot × Nat)) (t : Tbl Nat) : Tbl Nat :=
  if service then (if first then [(4, 11)] else t)
  else
    let t : Tbl Nat := if first then [(3, 11)] else t
    let m0 := l.any fun x => x.1 == .m0
    let t := if !conflict then t
      else if first && !m0 then moveUnits t 3 7 1
      else if !first && m0 then moveUnits t 7 3 1
      else t
    l.foldl (fun t x => moveUnits t 3 x.2 1) t

/-- The stream a party issues in. -/
inductive IssueStream where
  | simt | primary | secondary | service | matrix
deriving DecidableEq, Repr

/-- A context issues as the primary stream when it is the running one (spec/09 R261). -/
def State.stream (s : State) : Party → IssueStream
  | .path _ _ _ => .simt
  | .thread g sl => if (s.group g).running = some sl then .primary else .secondary
  | .service _ => .service
  | .seq _ => .matrix

/-- An item of a party issues, with its operations: slot and leaf each. -/
def State.account (s : State) (p : Party) (pc : Nat) (l : List (Slot × Nat)) : State :=
  match s.stream p with
  | .matrix => s
  | st =>
    let now := s.ccnt + 1
    let w := s.warp ((partyKey p).getD 0)
    let conflict := decide (s.acyc (partyCore p) < (s.group (partyGroup p)).bankUntil)
    let tag := s.tagOf p
    s.modGroup (partyGroup p) fun x =>
      let x := { x with units := itemUnits (!x.issuedIn s.ccnt) (st == IssueStream.service) conflict l x.units }
      let x := match st with
        | .simt => { x with issuedSimt := now }
        | .primary => { x with issuedPrimary := now }
        | .secondary => { x with issuedSecondary := now }
        | _ => { x with issuedService := now }
      let x := if (st == IssueStream.primary || st == IssueStream.secondary) && !l.isEmpty then { x with issuedBundle := now } else x
      if x.issuer.cycle == now || st == IssueStream.service then x
      else
        match p with
        | .path _ _ i => { x with issuer := ⟨now, (partyKey p).getD 0, w.wid, w.bid, i, pc, (match w.paths.get? i with | some y => y.mask.toNat | none => 0), tag⟩ }
        | _ => { x with issuer := ⟨now, (partyKey p).getD 0, w.wid, w.bid, 0, pc, 0xFFFFFFFF, tag⟩ }

/-- Whether an operation has nothing to write: a NOP, a form that only waits, and one that only computes or reads for s0. -/
def writesNothing (op : Nat) (w : IWord) : Bool :=
  op == 0xD9 || op == 0xDA || op == 0xB2 || op == 0xA2 || (op == 0xA0 && bits w.ext.toNat 4 2 == 1) ||
  (w.d == .sreg 0 && (decide (op < 0x67) || op == 0x80 || op == 0xA1 || op == 0xB4 || op == 0xE0 || op == 0xE7 || (op == 0x70 && w.ext.toNat % 8 != 1) ||
    (op == 0xE9 && (w.ext == 0 || w.ext == 4))))

/-- The type whose elements a form that computes writes, and whether in words (spec/05 R118; spec/06 R151, R157 to R185). -/
def destTy (op : Nat) (w : IWord) : Ty × Bool :=
  let typed := (Ty.ofCode (w.ext.toNat % 32)).getD .n32
  let ws := w.ext.getLsbD 5
  if op = 0x21 ∨ op = 0x22 ∨ (0x30 ≤ op ∧ op ≤ 0x39) then (Ty.ofFt (w.ext.toNat % 4), ws)
  else if op = 0x3A ∨ op = 0x3B ∨ (0x60 ≤ op ∧ op ≤ 0x67) then (.f32, ws)
  else if op = 0x40 ∨ op = 0x44 then (Ty.ofCode3 (bits w.ext.toNat 3 3), false)
  else match op with
    | 0x25 => (.n4, false)
    | 0x42 => ((match packSrc w.ext.toNat with | some (.f6e3p, _) => .n8 | some (t, _) => t | none => .n8), false)
    | 0x43 => ((match typed with | .i16 | .n16 => .n32 | .i8 | .n8 => .n16 | .i4 | .n4 => .n8 | _ => .f6e3), false)
    | 0x50 => (.b128, false)
    | 0x69 => (if ws then .n32 else .b128, ws)
    | _ => (typed, ws)

/-- Whether an operation writes in some lane: it has something to write, and its predicate passes where the form tests it, at the lowest granule of an
element, at bit 32 t of a lane, or once for all (spec/01 R28; spec/05 R119; spec/06 R168, R171, R172; spec/22 R470, R471). -/
def Env.writes (e : Env) (op : Nat) (w : IWord) : Bool :=
  let t := destTy op w
  let computes := decide (op ≤ 0x69) && op != 0x68 || op == 0xCA || op == 0xCB
  let threads := !(e.lanesOn w).isEmpty
  !writesNothing op w && (match predMask w with
    | none => true
    | some _ =>
      if computes then
        match w.d with
        | .vec k _ => if op = 0x51 then threads else !(e.places w t.1 t.2 k.val).isEmpty
        | .mask _ => if op = 0x54 then threads else !(e.places w t.1 t.2 e.hi).isEmpty
        | _ => op == 0x53 || e.scalarPred w
      else if namesVec op e.view w || (e.view == .simt && (op == 0xD0 || op == 0xD1 || op == 0xD5)) then threads
      else e.scalarPred w)

/-- The leaf of an operation that commits: RET or NULL. -/
def Env.leaf (e : Env) (op : Nat) (w : IWord) : Nat := if e.writes op w then 0 else 1

/-- The unit of a SIMT instruction: the first slot that admits its form, or S0 (spec/22 R471). -/
def simtUnit (op : Nat) (w : IWord) : Slot :=
  match formOf .simt op w.ext.toNat w.b with
  | .form f => f.slots.headD .s0
  | _ => .s0

/-! ### Scheduler-decision records of an issue (spec/22 R474, R475) -/

/-- Whether an issuer writes no records of kinds 1 and 2: its handler bit is set, or it is a service context (spec/22 R474). -/
def Env.quiet (e : Env) : Bool := e.w.handler.isSome || (match e.party with | .service _ => true | _ => false)

/-- Records of kind 1 the issue itself writes: of a path other than the warp's last, of the first issue after a swap into the active set, and of a
secondary bundle that merges. -/
def Env.decisions (e : Env) (s : State) : Nat :=
  if !logOn s (s.partyPart e.party) 1 || e.quiet then 0
  else
    match e.party with
    | .path _ _ i => b2n (i != e.w.lastPath) + b2n e.w.swapped.isSome
    | .thread _ _ => b2n (s.stream e.party == .secondary)
    | _ => 0

/-- Room for `n` scheduler-decision records of an operation, beside those of its issue (spec/22 R474). -/
def Env.decisionGate (e : Env) (s : State) (n : Nat) : Gate :=
  let part := s.partyPart e.party
  if n = 0 || e.quiet || !logOn s part 1 || logFits s part 1 (e.decisions s + n) then .ok else .trap (logFull 1 (e.decisions s + n))

/-- What they take of a bundle's room. -/
def Env.decisionRoom (e : Env) (s : State) (n : Nat) : Nat := if e.quiet || !logOn s (s.partyPart e.party) 1 then 0 else n

/-- The context of a warp. -/
def Warp.context (w : Warp) : Nat := (w.vliw.bind (·.ctx)).getD 0

/-- Writes those records. -/
def State.logDecisions (s : State) (e : Env) : State :=
  match e.party with
  | .path g sl i =>
    let s := if e.decisions s = 0 then s
      else
        let part := s.partyPart e.party
        let s := if i != e.w.lastPath then s.decision part e.core g e.w.wid 0x10 (i * 2 ^ 59 + e.pc % 2 ^ 57) e.mask.toNat else s
        match e.w.swapped with
        | some out => s.decision part e.core g e.w.wid 0x11 (e.w.wid % 64 + out % 64 * 2 ^ 8) e.w.bid
        | none => s
    s.modWarp (warpKey g sl) fun w => { w with swapped := none }
  | .thread g _ =>
    if e.decisions s = 0 then s
    else
      let first := match (s.group g).running with | some sl => (s.warp (warpKey g sl)).context | none => 0
      s.decision (s.partyPart e.party) e.core g e.w.wid 0x13 (first % 4 + e.w.context % 4 * 4) (e.pc % 2 ^ 57)
  | _ => s

/-! ### Bundles (spec/03 R83, R88 to R93; spec/04 R109, R117; spec/09 R261 to R264) -/

/-- The depth of an issuer's loop stack. -/
def Env.depth (e : Env) : Nat := match e.w.vliw with | some x => x.loops.length | none => 0

/-- Whether the end of a loop body follows an item, and returns to START: `s` is the state after the item's effects (spec/05 R144). -/
def loopReturns (s : State) (key pc before : Nat) : Bool :=
  match (s.warp key).vliw with
  | none => false
  | some x => match x.loops with
    | [] => false
    | l :: _ => !x.jumped && l.last == pc && decide (x.loops.length ≤ before) && !(l.next.count == 0 && l.next.epi == 0)

/-- The LP mode that limits the issuer's forms: none in a handler. -/
def Env.lpMode (e : Env) : Option LpMode := if e.inHandler then none else e.w.lp

/-- The end of an item of a VLIW stream: the loop end, with a logit program's count of returns. None when the item would pass the limit (spec/14 R366). -/
def endItem (e : Env) (after : Nat) (s : State) : Option State :=
  let returns := loopReturns s e.key e.pc e.depth
  let s' := loopEnd s e.key e.pc e.depth fun _ => after
  match e.lpMode with
  | none => some s'
  | some m =>
    if !returns then some s'
    else if 2 ^ 20 ≤ m.taken then none
    else some (s'.modWarp e.key fun w => { w with lp := w.lp.map fun m => { m with taken := m.taken + 1 } })

/-- LPILL with a code (spec/14 R366). -/
def lpIll (code : Nat) : Trap := { cause := causeLPILL, info := code * 2 ^ 32 }

/-- A cycle in which no secondary is tried any more (spec/09 R262). -/
def State.noMerge (s : State) (p : Party) : State := s.modGroup (partyGroup p) fun x => { x with issuedSecondary := s.ccnt + 1 }

/-- An item that traps takes its place in the cycle but does not issue, so no secondary merges with it (spec/09 R262; spec/19 R417). -/
def State.accountTrap (s : State) (p : Party) (pc : Nat) (l : List (Slot × Nat)) : State :=
  let t := s.account p pc l
  if s.stream p == .primary then t.noMerge p else t

/-- The item of a VLIW stream traps: its present slots are LOST. -/
def State.trapItem (s : State) (c : Cur) (slots : List Slot) (t : Trap) : State :=
  (s.accountTrap c.party c.pc (slots.map (·, 2))).raise c.party c.pc c.locked t

/-- The ports of an item that has issued as the primary stream. -/
def State.takePorts (s : State) (p : Party) (ports : Ports) : State :=
  match p, s.stream p with
  | .thread g _, .primary => s.modGroup g fun x => { x with ports := ports }
  | _, _ => s

/-- Whether an item may merge with the primary's (spec/04 R117). -/
def mergesWith (a b : Ports) : Bool :=
  (a.slots &&& b.slots) == 0 && decide (a.swrites + b.swrites ≤ 2) && (List.range 4).all fun c => decide (((a.cross ++ b.cross).filter (· = c)).length ≤ 1)

/-- Whether an item stands as the secondary stream and does not fit beside the primary's. -/
def State.misfit (s : State) (p : Party) (ports : Ports) : Bool :=
  s.stream p == .secondary && !mergesWith (s.group (partyGroup p)).ports ports

/-- LOGFULL of a bundle: its operations' records and those of its issue need room together (spec/22 R474). Of one operation alone its gate has tested its own. -/
def bundleRoom (ops : List SlotOp) (c : Cur) (s : State) (n : Nat) : Option Trap :=
  let part := s.partyPart c.party
  let l : List LogRoom := if ops.length ≤ 1 then [] else ops.map fun o => o.sem.room (s.slotEnv c o) s
  let user := (l.map (·.user)).sum
  let decision := n + (l.map (·.decision)).sum
  if user != 0 && !logFits s part 0 user then some (logFull 0 user)
  else if decision != 0 && !logFits s part 1 decision then some (logFull 1 decision)
  else none

/-- Runs the operations of a bundle (spec/03 R89, R92; spec/04 R109). -/
def runBundle (ops : List SlotOp) (ports : Ports) (c : Cur) (s : State) : State :=
  let gates := bundleGates ops c s
  let e := s.env c
  let n := e.decisions s
  let slots := ops.map (·.slot)
  match mergeTraps gates with
  | some t => if s.misfit c.party ports then s.noMerge c.party else s.trapItem c slots t
  | none =>
    match firstWait gates with
    | some r => s.setWait c.party r
    | none =>
      if s.misfit c.party ports then s.noMerge c.party
      else match bundleRoom ops c s n with
      | some t => s.trapItem c slots t
      | none =>
        match firstHold gates with
        | some (s', r) => s'.setWait c.party r
        | none =>
          let envs := ops.map fun o => (o, s.slotEnv c o)
          let leaves := envs.map fun x => (x.1.slot, x.2.leaf x.1.sem.op x.1.sem.w)
          let s1 := ((s.logDecisions e).account c.party c.pc leaves).takePorts c.party ports
          let s2 := bundleEffects (effectOrder envs) (s1.advanceBundle c (headerOf c.header))
          match endItem e c.next s2 with
          | some s3 => s3
          | none => s.trapItem c slots (lpIll 4)

/-- An empty bundle of a run issues (spec/03 R83): the run stands at `header`'s address until its last one. -/
def runEmpty (header : Word64) (c : Cur) (s : State) : State :=
  let e := s.env c
  let n := e.decisions s
  let ports : Ports := ⟨0, 0, []⟩
  if headerBad header then s.trapItem c [] { cause := causeILLBUNDLE, info := 1 }
  else if n != 0 && !logFits s (s.partyPart c.party) 1 n then s.trapItem c [] (logFull 1 n)
  else
    let total := match e.w.vliw with | some x => if x.run = 0 then runCount header else x.run | none => 0
    let last := decide (total ≤ 1)
    let s1 := (((s.logDecisions e).account c.party c.pc []).takePorts c.party ports).serviceSlot c.party true
    let s2 := s1.modWarp e.key fun w =>
      { w with slots := w.slots + 1, committed := w.committed + 1,
               vliw := w.vliw.map fun x =>
                 { x with pc := if last then c.next else x.pc, run := total - 1, ran := if last then 0 else x.ran + 1, wait := .none, released := false,
                          yielded := false, jumped := false } }
    if !last then s2
    else match endItem e c.next s2 with
      | some s3 => s3
      | none => s.trapItem c [] (lpIll 4)

/-- Runs one instruction word in SIMT or in the matrix stream (spec/04 R109; spec/03 R86, R87, R94). -/
def runWord (sem : Sem) (c : Cur) (s : State) : State :=
  let e := (s.env c).forOp sem.op sem.w
  let stop : Gate := match e.modeCheck sem.op sem.w with
    | .ok => match e.view with
      | .stream => .ok
      | _ => s.interlock e sem.op sem.w
    | g => g
  let n := e.decisions s
  let gate : Gate := match stop with
    | .ok => if n != 0 && !logFits s (s.partyPart e.party) 1 n then .trap (logFull 1 n) else sem.gate e s
    | g => g
  match gate with
  | .ok =>
    let s := s.logDecisions e
    let s := match e.view with
      | .stream => s
      | _ => s.account c.party c.pc [(simtUnit sem.op sem.w, e.leaf sem.op sem.w)]
    sem.eff e (s.advance e sem.w.stall.toNat)
  | .wait r => s.setWait c.party r
  | .hold s' r => s'.setWait c.party r
  | .trap t =>
    let s := match e.view with
      | .stream => s
      | _ => s.account c.party c.pc [(simtUnit sem.op sem.w, 2)]
    s.raise c.party c.pc c.locked t

/-- The meaning of an instruction word: nothing when no item is being issued; else its issue in the view of the issuer. -/
def runSem (sem : Sem) (s : State) : Host.Outcome State Fault Refusal :=
  match s.cur with
  | none => .next s
  | some c =>
    match c.slot with
    | some sl => .next (runBundle [⟨sl, sem⟩] ⟨slotBit sl, 0, []⟩ c s)
    | none => .next (runWord sem c s)

end Sys2Proof.Machine
end

