-- ==== Sys2Proof/Machine/Integer.lean ====
section
/-!
DEFINITION. Integer and bit forms, opcodes 0x00 to 0x1B (spec/05 R121 to R125).
-/
namespace Sys2Proof.Machine

open Sys2Proof

/-- The type of the typed EXT layout (spec/03 R75). -/
def typedTy (w : IWord) : Ty := (Ty.ofCode (w.ext.toNat % 32)).getD .n32

/-- WS (spec/03 R75). -/
def typedWs (w : IWord) : Bool := w.ext.getLsbD 5

/-- An element-wise operation on A, B and C of the typed layout; `f` takes the element number in the register and the patterns (spec/05 R120). -/
def intOut (w : IWord) (f : Ty → Nat → Nat → Nat → Nat → Nat × Nat) (e : Env) : Out :=
  let t := typedTy w
  let ws := typedWs w
  e.results w t ws 1 false fun _ lane i n =>
    f t n (e.elem w t ws w.a 0 lane i) (e.elem w t ws w.b 0 lane i) (e.elem w t ws w.c 0 lane i)

/-- Int of spec/05 R122. -/
def tyVal (t : Ty) (x : Nat) : Int := iInt t.isSigned t.width x

/-- IDIV and IREM (spec/05 R123): quotient, remainder, and whether the case is borderline. -/
def divide (t : Ty) (a b : Nat) : Nat × Nat × Bool :=
  let x := tyVal t a
  let y := tyVal t b
  if y = 0 then
    (wrap t.width (if t.isSigned && decide (x < 0) then intMin true t.width else intMax t.isSigned t.width), a, true)
  else if t.isSigned && x == intMin true t.width && y == -1 then (wrap t.width (intMax true t.width), 0, true)
  else (wrap t.width (x.tdiv y), wrap t.width (x.tmod y), false)

/-- The field of BFX and BFI: position and cut length (spec/05 R124). -/
def fieldOf (width ctl : Nat) : Nat × Nat :=
  let pos := ctl % 256
  let len := ctl / 256 % 256
  (pos, if pos < width then min len (width - pos) else 0)

/-- BFX (spec/05 R124). -/
def bfxVal (t : Ty) (a ctl : Nat) : Nat :=
  let (pos, len) := fieldOf t.width ctl
  if len = 0 then 0
  else
    let v := bits a pos len
    if t.isSigned then wrap t.width (sInt len v) else v

/-- BFI (spec/05 R124). -/
def bfiVal (t : Ty) (a b ctl : Nat) : Nat :=
  let (pos, len) := fieldOf t.width ctl
  if len = 0 then a else putBits a pos len b

/-- RSHR (spec/05 R122): half toward plus infinity. A shift far past the width gives 0. -/
def rshrVal (t : Ty) (a k : Nat) : Nat :=
  let x := tyVal t a
  if k = 0 then a
  else if t.width + 1 < k then 0
  else wrap t.width ((x + 2 ^ (k - 1)) / 2 ^ k)

/-- SHL (spec/05 R122). -/
def shlVal (t : Ty) (a k : Nat) : Nat := if t.width ≤ k then 0 else (a <<< k) % 2 ^ t.width

/-- SHR (spec/05 R122). -/
def shrVal (t : Ty) (a k : Nat) : Nat := if t.width ≤ k then 0 else a >>> k

/-- SAR (spec/05 R122). -/
def sarVal (t : Ty) (a k : Nat) : Nat := wrap t.width (sInt t.width a / 2 ^ (min k t.width))

/-- ROTL (spec/05 R122). -/
def rotlVal (t : Ty) (a k : Nat) : Nat :=
  let r := k % t.width
  ((a <<< r) % 2 ^ t.width) ||| (a >>> (t.width - r))

/-- ISAT (spec/05 R122): clamped to n bits of the signedness of T, n from 1 to w. -/
def isatVal (t : Ty) (a k : Nat) : Nat × Nat :=
  let n := min (max k 1) t.width
  let x := tyVal t a
  if x < intMin t.isSigned n then (wrap t.width (intMin t.isSigned n), flagSat)
  else if intMax t.isSigned n < x then (wrap t.width (intMax t.isSigned n), flagSat)
  else plain a

/-- CLZ (spec/05 R122). -/
def clzVal (t : Ty) (a : Nat) : Nat := t.width - bitLen a

/-- Whether a reads as no more than b. -/
def tyLe (t : Ty) (a b : Nat) : Bool := decide (tyVal t a ≤ tyVal t b)

/-- The value of a small immediate; 0 for any other operand. -/
def smallOf : Operand → Int
  | .small n => smallInt n
  | _ => 0

/-- IADD (spec/05 R122). -/
def semIadd (w : IWord) : Sem := computeSem 0x00 w (intOut w (fun t _ a b _ => plain (wrap t.width (tyVal t a + tyVal t b))))
/-- IADD issues. -/
def execIadd (w : IWord) (s : State) : Host.Outcome State Fault Refusal := runSem (semIadd w) s

/-- ISUB (spec/05 R122). -/
def semIsub (w : IWord) : Sem := computeSem 0x01 w (intOut w (fun t _ a b _ => plain (wrap t.width (tyVal t a - tyVal t b))))
/-- ISUB issues. -/
def execIsub (w : IWord) (s : State) : Host.Outcome State Fault Refusal := runSem (semIsub w) s

/-- IMUL (spec/05 R122). -/
def semImul (w : IWord) : Sem := computeSem 0x02 w (intOut w (fun t _ a b _ => plain (wrap t.width (tyVal t a * tyVal t b))))
/-- IMUL issues. -/
def execImul (w : IWord) (s : State) : Host.Outcome State Fault Refusal := runSem (semImul w) s

/-- IMULH (spec/05 R122). -/
def semImulh (w : IWord) : Sem := computeSem 0x03 w (intOut w (fun t _ a b _ => plain (wrap t.width (tyVal t a * tyVal t b / 2 ^ t.width))))
/-- IMULH issues. -/
def execImulh (w : IWord) (s : State) : Host.Outcome State Fault Refusal := runSem (semImulh w) s

/-- IMAD (spec/05 R122). -/
def semImad (w : IWord) : Sem := computeSem 0x04 w (intOut w (fun t _ a b c => plain (wrap t.width (tyVal t a * tyVal t b + tyVal t c))))
/-- IMAD issues. -/
def execImad (w : IWord) (s : State) : Host.Outcome State Fault Refusal := runSem (semImad w) s

/-- IDIV (spec/05 R123). -/
def semIdiv (w : IWord) : Sem := computeSem 0x05 w (intOut w (fun t _ a b _ => let r := divide t a b; (r.1, if r.2.2 then flagSat else 0)))
/-- IDIV issues. -/
def execIdiv (w : IWord) (s : State) : Host.Outcome State Fault Refusal := runSem (semIdiv w) s

/-- IREM (spec/05 R123). -/
def semIrem (w : IWord) : Sem := computeSem 0x06 w (intOut w (fun t _ a b _ => let r := divide t a b; (r.2.1, if r.2.2 then flagSat else 0)))
/-- IREM issues. -/
def execIrem (w : IWord) (s : State) : Host.Outcome State Fault Refusal := runSem (semIrem w) s

/-- IMIN (spec/05 R122). -/
def semImin (w : IWord) : Sem := computeSem 0x07 w (intOut w (fun t _ a b _ => plain (if tyLe t a b then a else b)))
/-- IMIN issues. -/
def execImin (w : IWord) (s : State) : Host.Outcome State Fault Refusal := runSem (semImin w) s

/-- IMAX (spec/05 R122). -/
def semImax (w : IWord) : Sem := computeSem 0x08 w (intOut w (fun t _ a b _ => plain (if tyLe t a b then b else a)))
/-- IMAX issues. -/
def execImax (w : IWord) (s : State) : Host.Outcome State Fault Refusal := runSem (semImax w) s

/-- IABS (spec/05 R122). -/
def semIabs (w : IWord) : Sem := computeSem 0x09 w (intOut w (fun t _ a _ _ => satFlag (satTo true t.width (tyVal t a).natAbs)))
/-- IABS issues. -/
def execIabs (w : IWord) (s : State) : Host.Outcome State Fault Refusal := runSem (semIabs w) s

/-- ISAT (spec/05 R122). -/
def semIsat (w : IWord) : Sem := computeSem 0x0A w (intOut w (fun t _ a b _ => isatVal t a b))
/-- ISAT issues. -/
def execIsat (w : IWord) (s : State) : Host.Outcome State Fault Refusal := runSem (semIsat w) s

/-- AND (spec/05 R122). -/
def semAnd (w : IWord) : Sem := computeSem 0x0B w (intOut w (fun _ _ a b _ => plain (a &&& b)))
/-- AND issues. -/
def execAnd (w : IWord) (s : State) : Host.Outcome State Fault Refusal := runSem (semAnd w) s

/-- OR (spec/05 R122). -/
def semOr (w : IWord) : Sem := computeSem 0x0C w (intOut w (fun _ _ a b _ => plain (a ||| b)))
/-- OR issues. -/
def execOr (w : IWord) (s : State) : Host.Outcome State Fault Refusal := runSem (semOr w) s

/-- XOR (spec/05 R122). -/
def semXor (w : IWord) : Sem := computeSem 0x0D w (intOut w (fun _ _ a b _ => plain (a ^^^ b)))
/-- XOR issues. -/
def execXor (w : IWord) (s : State) : Host.Outcome State Fault Refusal := runSem (semXor w) s

/-- ANDN (spec/05 R122). -/
def semAndn (w : IWord) : Sem := computeSem 0x0E w (intOut w (fun t _ a b _ => plain (a &&& (2 ^ t.width - 1 - b))))
/-- ANDN issues. -/
def execAndn (w : IWord) (s : State) : Host.Outcome State Fault Refusal := runSem (semAndn w) s

/-- SHL (spec/05 R122). -/
def semShl (w : IWord) : Sem := computeSem 0x0F w (intOut w (fun t _ a b _ => plain (shlVal t a b)))
/-- SHL issues. -/
def execShl (w : IWord) (s : State) : Host.Outcome State Fault Refusal := runSem (semShl w) s

/-- SHR (spec/05 R122). -/
def semShr (w : IWord) : Sem := computeSem 0x10 w (intOut w (fun t _ a b _ => plain (shrVal t a b)))
/-- SHR issues. -/
def execShr (w : IWord) (s : State) : Host.Outcome State Fault Refusal := runSem (semShr w) s

/-- SAR (spec/05 R122). -/
def semSar (w : IWord) : Sem := computeSem 0x11 w (intOut w (fun t _ a b _ => plain (sarVal t a b)))
/-- SAR issues. -/
def execSar (w : IWord) (s : State) : Host.Outcome State Fault Refusal := runSem (semSar w) s

/-- ROTL (spec/05 R122). -/
def semRotl (w : IWord) : Sem := computeSem 0x12 w (intOut w (fun t _ a b _ => plain (rotlVal t a b)))
/-- ROTL issues. -/
def execRotl (w : IWord) (s : State) : Host.Outcome State Fault Refusal := runSem (semRotl w) s

/-- CLZ (spec/05 R122). -/
def semClz (w : IWord) : Sem := computeSem 0x13 w (intOut w (fun t _ a _ _ => plain (clzVal t a)))
/-- CLZ issues. -/
def execClz (w : IWord) (s : State) : Host.Outcome State Fault Refusal := runSem (semClz w) s

/-- POPC (spec/05 R122). -/
def semPopc (w : IWord) : Sem := computeSem 0x14 w (intOut w (fun t _ a _ _ => plain (popCount t.width a)))
/-- POPC issues. -/
def execPopc (w : IWord) (s : State) : Host.Outcome State Fault Refusal := runSem (semPopc w) s

/-- BREV (spec/05 R122). -/
def semBrev (w : IWord) : Sem := computeSem 0x15 w (intOut w (fun t _ a _ _ => plain (reverseBits t.width a)))
/-- BREV issues. -/
def execBrev (w : IWord) (s : State) : Host.Outcome State Fault Refusal := runSem (semBrev w) s

/-- BFX (spec/05 R124). -/
def semBfx (w : IWord) : Sem := computeSem 0x16 w (intOut w (fun t _ a b _ => plain (bfxVal t a b)))
/-- BFX issues. -/
def execBfx (w : IWord) (s : State) : Host.Outcome State Fault Refusal := runSem (semBfx w) s

/-- BFI (spec/05 R124). -/
def semBfi (w : IWord) : Sem := computeSem 0x17 w (intOut w (fun t _ a b c => plain (bfiVal t a b c)))
/-- BFI issues. -/
def execBfi (w : IWord) (s : State) : Host.Outcome State Fault Refusal := runSem (semBfi w) s

/-- LEA (spec/05 R125). -/
def semLea (w : IWord) : Sem := computeSem 0x18 w (intOut w (fun t _ a b _ => plain (wrap t.width (tyVal t a + tyVal t b * 2 ^ (smallOf w.c).toNat))))
/-- LEA issues. -/
def execLea (w : IWord) (s : State) : Host.Outcome State Fault Refusal := runSem (semLea w) s

/-- MOV (spec/05 R125). -/
def semMov (w : IWord) : Sem := computeSem 0x19 w (intOut w (fun t _ a _ _ => plain (cellBits t a)))
/-- MOV issues. -/
def execMov (w : IWord) (s : State) : Host.Outcome State Fault Refusal := runSem (semMov w) s

/-- MOVL (spec/05 R125). -/
def semMovl (w : IWord) : Sem := computeSem 0x1A w (intOut w (fun t n a b _ => plain (wrap t.width (tyVal t a + (n : Int) * tyVal t b))))
/-- MOVL issues. -/
def execMovl (w : IWord) (s : State) : Host.Outcome State Fault Refusal := runSem (semMovl w) s

/-- RSHR (spec/05 R122). -/
def semRshr (w : IWord) : Sem := computeSem 0x1B w (intOut w (fun t _ a b _ => plain (rshrVal t a b)))
/-- RSHR issues. -/
def execRshr (w : IWord) (s : State) : Host.Outcome State Fault Refusal := runSem (semRshr w) s

end Sys2Proof.Machine
end

