-- ==== Sys2Proof/Machine/Mask.lean ====
section
/-!
DEFINITION. Compares, masks and selects, opcodes 0x20 to 0x27 (spec/05 R126 to R132).
-/
namespace Sys2Proof.Machine

open Sys2Proof

/-- The type of the float EXT layout (spec/03 R75). -/
def floatTy (w : IWord) : Ty := Ty.ofFt (w.ext.toNat % 4)

/-- The pattern of a truth value in an element's result. -/
def truth (b : Bool) : Nat × Nat := (b2n b, 0)

/-- The condition of ICMP (spec/05 R126). -/
def icmpCond (t : Ty) (c a b : Nat) : Bool :=
  match c with
  | 0 => a == b
  | 1 => a != b
  | 2 => decide (tyVal t a < tyVal t b)
  | 3 => decide (tyVal t a ≤ tyVal t b)
  | 4 => decide (tyVal t b < tyVal t a)
  | 5 => decide (tyVal t b ≤ tyVal t a)
  | 6 => (a &&& b) != 0
  | _ => (a &&& b) == 0

/-- The condition of FCMP (spec/05 R127). -/
def fcmpCond (f : Fmt) (c a b : Nat) : Bool :=
  let un := isNaN f a || isNaN f b
  match c with
  | 0 => fEq f a b
  | 1 => !fEq f a b
  | 2 => fLess f a b
  | 3 => fLess f a b || fEq f a b
  | 4 => fLess f b a
  | 5 => fLess f b a || fEq f a b
  | 6 => !un
  | _ => un

/-- The condition number in C. -/
def condOf (w : IWord) : Nat := (smallOf w.c).toNat

/-- An element-wise test of A and B. -/
def testOut (w : IWord) (t : Ty) (f : Nat → Nat → Bool) (e : Env) : Out :=
  let ws := typedWs w
  e.results w t ws 1 false fun _ lane i _ => truth (f (e.elem w t ws w.a 0 lane i) (e.elem w t ws w.b 0 lane i))

/-- ICMP (spec/05 R126). -/
def semIcmp (w : IWord) : Sem := computeSem 0x20 w (testOut w (typedTy w) (icmpCond (typedTy w) (condOf w)))
/-- ICMP issues. -/
def execIcmp (w : IWord) (s : State) : Host.Outcome State Fault Refusal := runSem (semIcmp w) s

/-- FCMP (spec/05 R127). -/
def semFcmp (w : IWord) : Sem := computeSem 0x21 w (testOut w (floatTy w) (fcmpCond (Fmt.ofTy (floatTy w)) (condOf w)))
/-- FCMP issues. -/
def execFcmp (w : IWord) (s : State) : Host.Outcome State Fault Refusal := runSem (semFcmp w) s

/-- FCLASS (spec/05 R128): bit `fClass` of the immediate set in B. -/
def fclassOut (w : IWord) (e : Env) : Out :=
  let t := floatTy w
  let set := ((immInt w w.b).getD 0).toNat
  testOut w t (fun a _ => bit set (fClass (Fmt.ofTy t) a)) e
/-- FCLASS (spec/05 R128). -/
def semFclass (w : IWord) : Sem := computeSem 0x22 w (fclassOut w)
/-- FCLASS issues. -/
def execFclass (w : IWord) (s : State) : Host.Outcome State Fault Refusal := runSem (semFclass w) s

/-- SEL (spec/05 R129): the bit of the destination element's lowest granule in the mask C chooses A or B; an s-register destination tests bit 0. -/
def selOut (w : IWord) (e : Env) : Out :=
  let t := typedTy w
  let ws := typedWs w
  let m := match w.c with | .mask i => e.w.mask i.val | _ => 0
  e.results w t ws 1 false fun _ lane i _ =>
    let g := match w.d with
      | .vec k _ => (e.unitOff ws k.val lane + t.width * i) / 4
      | _ => 0
    plain (cellBits t (if m.getLsbD g then e.elem w t ws w.a 0 lane i else e.elem w t ws w.b 0 lane i))
/-- SEL (spec/05 R129). -/
def semSel (w : IWord) : Sem := computeSem 0x23 w (selOut w)
/-- SEL issues. -/
def execSel (w : IWord) (s : State) : Host.Outcome State Fault Refusal := runSem (semSel w) s

/-- The mask a mask operand reads. -/
def Env.maskOf (e : Env) : Operand → MaskBits
  | .mask i => e.w.mask i.val
  | _ => 0

/-- A result of some bits of the mask D. -/
def maskRes (w : IWord) (e : Env) (value bits : MaskBits) : List Res :=
  match w.d with
  | .mask i => [{ reg := .m (physMask e.w.mrot i.val), spec := encodeSpec w.d, value := (value &&& bits).toNat, mask := bits.toNat }]
  | _ => []

/-- The mask bits 32 t + 31 : 32 t of a list of lanes. -/
def laneBits : List Nat → Nat
  | [] => 0
  | t :: r => (0xFFFFFFFF <<< (32 * t)) ||| laneBits r

/-- The mask bits of the threads of the issuing path; every bit in a slot. -/
def Env.pathBits (e : Env) : MaskBits :=
  if e.view.inSlot then BitVec.allOnes 1024 else BitVec.ofNat 1024 (laneBits ((List.range 32).filter fun t => e.mask.getLsbD t))

/-- A truth table applied to two masks, bit by bit. -/
def plogBits (tt : Nat) (a b : MaskBits) : MaskBits :=
  let term (i : Nat) (x : MaskBits) : MaskBits := if bit tt i then x else 0
  term 0 (~~~a &&& ~~~b) ||| term 1 (~~~a &&& b) ||| term 2 (a &&& ~~~b) ||| term 3 (a &&& b)

/-- PLOG (spec/05 R130). -/
def plogOut (w : IWord) (e : Env) : Out :=
  ⟨maskRes w e (plogBits (condOf w) (e.maskOf w.a) (e.maskOf w.b)) e.pathBits, 0, false⟩
/-- PLOG (spec/05 R130). -/
def semPlog (w : IWord) : Sem := computeSem 0x24 w (plogOut w)
/-- PLOG issues. -/
def execPlog (w : IWord) (s : State) : Host.Outcome State Fault Refusal := runSem (semPlog w) s

/-- PMOV.mm and PMOV.vm (spec/05 R131): each granule bit is the bit of A, or whether the granule of A is nonzero. -/
def pmovMask (w : IWord) (e : Env) : Out :=
  e.results w .n4 false 1 false fun _ lane i _ => truth (e.elem w .n4 false w.a 0 lane i != 0)
/-- PMOV.mv (spec/05 R131). -/
def pmovVec (w : IWord) (e : Env) : Out :=
  e.results w .n4 false 1 false fun _ lane i _ => plain (if e.elem w .n4 false w.a 0 lane i != 0 then 0xF else 0)

/-- PMOV.mm (spec/05 R131). -/
def semPmovMm (w : IWord) : Sem := computeSem 0x25 w (pmovMask w)
/-- PMOV.mm issues. -/
def execPmovMm (w : IWord) (s : State) : Host.Outcome State Fault Refusal := runSem (semPmovMm w) s
/-- PMOV.mv (spec/05 R131). -/
def semPmovMv (w : IWord) : Sem := computeSem 0x25 w (pmovVec w)
/-- PMOV.mv issues. -/
def execPmovMv (w : IWord) (s : State) : Host.Outcome State Fault Refusal := runSem (semPmovMv w) s
/-- PMOV.vm (spec/05 R131). -/
def semPmovVm (w : IWord) : Sem := computeSem 0x25 w (pmovMask w)
/-- PMOV.vm issues. -/
def execPmovVm (w : IWord) (s : State) : Host.Outcome State Fault Refusal := runSem (semPmovVm w) s

/-- The candidate bits of PCNT and PFIRST: thread bits, or every bit with G = 1; in SIMT those of the path's threads (spec/05 R132). -/
def Env.candidates (e : Env) (g : Bool) (m : MaskBits) : List Nat :=
  let all := if g then List.range 1024 else (List.range 32).map (32 * ·)
  all.filter fun b => (e.view.inSlot || e.mask.getLsbD (b / 32)) && m.getLsbD b

/-- PCNT (spec/05 R132). -/
def pcntOut (w : IWord) (e : Env) : Out := e.sResult w (e.candidates (w.ext.getLsbD 0) (e.maskOf w.a)).length
/-- PCNT (spec/05 R132). -/
def semPcnt (w : IWord) : Sem := computeSem 0x26 w (pcntOut w)
/-- PCNT issues. -/
def execPcnt (w : IWord) (s : State) : Host.Outcome State Fault Refusal := runSem (semPcnt w) s

/-- PFIRST (spec/05 R132). -/
def pfirstOut (w : IWord) (e : Env) : Out :=
  let g := w.ext.getLsbD 0
  e.sResult w (match e.candidates g (e.maskOf w.a) with
    | b :: _ => if g then b else b / 32
    | [] => if g then 1024 else 32)
/-- PFIRST (spec/05 R132). -/
def semPfirst (w : IWord) : Sem := computeSem 0x27 w (pfirstOut w)
/-- PFIRST issues. -/
def execPfirst (w : IWord) (s : State) : Host.Outcome State Fault Refusal := runSem (semPfirst w) s

end Sys2Proof.Machine
end

