-- ==== Sys2Proof/Machine/Float.lean ====
section
/-!
DEFINITION. Float arithmetic, opcodes 0x30 to 0x3B (spec/06 R154 to R157).
-/
namespace Sys2Proof.Machine

open Sys2Proof

/-- RND of the float EXT layout (spec/03 R75, R76). -/
def rndCode (w : IWord) : Nat := bits w.ext.toNat 2 3

/-- The random word of an element, drawn only in SR mode (spec/02 R57). -/
def Env.randIf (e : Env) (mode : RMode) (n : Nat) : Nat := if mode == .sr then e.rand n else 0

/-- An element-wise float operation: `f` takes the format, the mode, the random word and the patterns of A, B and C. -/
def floatOut (w : IWord) (f : Fmt → RMode → Nat → Nat → Nat → Nat → Nat × Nat) (e : Env) : Out :=
  let t := floatTy w
  let ws := typedWs w
  let mode := e.mode (rndCode w)
  e.results w t ws 1 (mode == .sr) fun _ lane i n =>
    f (Fmt.ofTy t) mode (e.randIf mode n) (e.elem w t ws w.a 0 lane i) (e.elem w t ws w.b 0 lane i) (e.elem w t ws w.c 0 lane i)

/-- A float operation that does not round (spec/06 R154). -/
def floatExact (w : IWord) (f : Fmt → Nat → Nat → Nat) (e : Env) : Out :=
  let t := floatTy w
  let ws := typedWs w
  e.results w t ws 1 false fun _ lane i _ => plain (f (Fmt.ofTy t) (e.elem w t ws w.a 0 lane i) (e.elem w t ws w.b 0 lane i))

/-- FSCALE (spec/06 R156): n is B's bits as a signed integer; an immediate is read as for an integer type of the same width. -/
def fscaleOut (w : IWord) (e : Env) : Out :=
  let t := floatTy w
  let ws := typedWs w
  let it : Ty := match t with | .f64 => .i64 | .f32 => .i32 | _ => .i16
  let mode := e.mode (rndCode w)
  e.results w t ws 1 (mode == .sr) fun _ lane i n =>
    fScale (Fmt.ofTy t) mode (e.randIf mode n) (e.elem w t ws w.a 0 lane i) (sInt t.width (e.elem w it ws w.b 0 lane i))

/-- The element type of FDOT2 and FDOT4 (spec/06 R157). -/
def dotTy (op : Nat) (w : IWord) : Ty :=
  if op = 0x3A then (if w.ext.toNat % 4 = 0 then .bf16 else .f16)
  else if w.ext.toNat % 4 = 0 then .f8e4 else if w.ext.toNat % 4 = 1 then .f8e5 else .f6e3

/-- FDOT2 and FDOT4 (spec/06 R157): the products and c are summed exactly and rounded once; a NaN is canonical. -/
def dotOut (op : Nat) (w : IWord) (e : Env) : Out :=
  let t := dotTy op w
  let ws := typedWs w
  let mode := e.mode (rndCode w)
  let k := 32 / t.width
  e.results w .f32 ws 1 (mode == .sr) fun _ lane i n =>
    let val (o : Operand) (j : Nat) : FVal := fDecode (Fmt.ofTy t) (cellBits t (e.elem w t ws o 0 lane (k * i + j)))
    let prods := (List.range k).map fun j => (val w.a j).mul (val w.b j)
    roundSum .f32 mode (e.randIf mode n) Fmt.f32.canonNaN (sumTerms mode (prods ++ [fDecode .f32 (e.elem w .f32 ws w.c 0 lane i)]))

/-- FADD (spec/06 R155). -/
def semFadd (w : IWord) : Sem := computeSem 0x30 w (floatOut w fun f m r a b _ => fAdd f m r a b)
/-- FADD issues. -/
def execFadd (w : IWord) (s : State) : Host.Outcome State Fault Refusal := runSem (semFadd w) s

/-- FSUB (spec/06 R155). -/
def semFsub (w : IWord) : Sem := computeSem 0x31 w (floatOut w fun f m r a b _ => fSub f m r a b)
/-- FSUB issues. -/
def execFsub (w : IWord) (s : State) : Host.Outcome State Fault Refusal := runSem (semFsub w) s

/-- FMUL (spec/06 R155). -/
def semFmul (w : IWord) : Sem := computeSem 0x32 w (floatOut w fun f m r a b _ => fMul f m r a b)
/-- FMUL issues. -/
def execFmul (w : IWord) (s : State) : Host.Outcome State Fault Refusal := runSem (semFmul w) s

/-- FFMA (spec/06 R155). -/
def semFfma (w : IWord) : Sem := computeSem 0x33 w (floatOut w fFma)
/-- FFMA issues. -/
def execFfma (w : IWord) (s : State) : Host.Outcome State Fault Refusal := runSem (semFfma w) s

/-- FMIN (spec/06 R155). -/
def semFmin (w : IWord) : Sem := computeSem 0x34 w (floatExact w fun f a b => fMinMax f false a b)
/-- FMIN issues. -/
def execFmin (w : IWord) (s : State) : Host.Outcome State Fault Refusal := runSem (semFmin w) s

/-- FMAX (spec/06 R155). -/
def semFmax (w : IWord) : Sem := computeSem 0x35 w (floatExact w fun f a b => fMinMax f true a b)
/-- FMAX issues. -/
def execFmax (w : IWord) (s : State) : Host.Outcome State Fault Refusal := runSem (semFmax w) s

/-- FNEG (spec/06 R155). -/
def semFneg (w : IWord) : Sem := computeSem 0x36 w (floatExact w fun f a _ => a ^^^ 2 ^ (f.width - 1))
/-- FNEG issues. -/
def execFneg (w : IWord) (s : State) : Host.Outcome State Fault Refusal := runSem (semFneg w) s

/-- FABS (spec/06 R155). -/
def semFabs (w : IWord) : Sem := computeSem 0x37 w (floatExact w fun f a _ => a % 2 ^ (f.width - 1))
/-- FABS issues. -/
def execFabs (w : IWord) (s : State) : Host.Outcome State Fault Refusal := runSem (semFabs w) s

/-- FRND (spec/06 R155). -/
def semFrnd (w : IWord) : Sem := computeSem 0x38 w (floatOut w fun f m r a _ _ => fRnd f m r a)
/-- FRND issues. -/
def execFrnd (w : IWord) (s : State) : Host.Outcome State Fault Refusal := runSem (semFrnd w) s

/-- FSCALE (spec/06 R156). -/
def semFscale (w : IWord) : Sem := computeSem 0x39 w (fscaleOut w)
/-- FSCALE issues. -/
def execFscale (w : IWord) (s : State) : Host.Outcome State Fault Refusal := runSem (semFscale w) s

/-- FDOT2 (spec/06 R157). -/
def semFdot2 (w : IWord) : Sem := computeSem 0x3A w (dotOut 0x3A w)
/-- FDOT2 issues. -/
def execFdot2 (w : IWord) (s : State) : Host.Outcome State Fault Refusal := runSem (semFdot2 w) s

/-- FDOT4 (spec/06 R157). -/
def semFdot4 (w : IWord) : Sem := computeSem 0x3B w (dotOut 0x3B w)
/-- FDOT4 issues. -/
def execFdot4 (w : IWord) (s : State) : Host.Outcome State Fault Refusal := runSem (semFdot4 w) s

end Sys2Proof.Machine
end

