-- ==== Sys2Proof/Machine/Convert.lean ====
section
/-!
DEFINITION. Conversions, opcodes 0x40 to 0x44 (spec/06 R158 to R165).
-/
namespace Sys2Proof.Machine

open Sys2Proof

/-- The place of the source element of a conversion: the register of a pair or quad, and the element in the lane's slot (spec/02 R65; spec/06 R159).
`q` and `i` are the register and element of the destination; `wd` and `ws` the element widths. -/
def convPlace (wd ws q i : Nat) : Nat × Nat :=
  if ws ≤ wd then (0, q * (128 / wd) + i)
  else (i / (128 / ws), i % (128 / ws))

/-- A conversion from type `st` to type `dt` in a mode; `f` takes the random word and the source pattern (spec/06 R159). -/
def convOut (w : IWord) (dt st : Ty) (mode : RMode) (sr : Bool) (f : Nat → Nat → Nat × Nat) (e : Env) : Out :=
  let span := ((ratioSpans dt.width st.width).getD (1, 1)).1
  e.results w dt false span sr fun q lane i n =>
    let (sq, si) := convPlace dt.width st.width q i
    f (e.randIf mode n) (e.elem w st false w.a sq lane si)

/-- The mode in C of FCVT and ICVT: 0 is RMODE (spec/06 R160). -/
def convMode (w : IWord) (e : Env) : RMode := e.mode (smallOf w.c).toNat

/-- FCVT (spec/06 R160). -/
def fcvtOut (w : IWord) (e : Env) : Out :=
  let dt := Ty.ofCode3 (bits w.ext.toNat 3 3)
  let st := Ty.ofCode3 (w.ext.toNat % 8)
  let mode := convMode w e
  convOut w dt st mode (mode == .sr) (fun r x => fConv (Fmt.ofTy st) (Fmt.ofTy dt) mode r (cellBits st x)) e

/-- ICVT (spec/06 R161). -/
def icvtOut (w : IWord) (e : Env) : Out :=
  let dt := typedTy w
  let st := (Ty.ofCode (smallOf w.b).toNat).getD .i32
  let mode := convMode w e
  if dt.isInt && st.isInt then convOut w dt st .rne false (fun _ x => satFlag (satTo dt.isSigned dt.width (tyVal st x))) e
  else if dt.isInt then convOut w dt st mode (mode == .sr) (fun r x => fToInt (Fmt.ofTy st) dt.isSigned dt.width mode r x) e
  else convOut w dt st mode (mode == .sr) (fun r x => intToF (Fmt.ofTy dt) mode r (tyVal st x)) e

/-- Four 6-bit values in three bytes (spec/06 R163): the byte `j` of a packed slot whose values are `f`. -/
def packByte (f : Nat → Nat) (j : Nat) : Nat :=
  let g := j / 3
  let v := f (4 * g) % 64 + f (4 * g + 1) % 64 * 2 ^ 6 + f (4 * g + 2) % 64 * 2 ^ 12 + f (4 * g + 3) % 64 * 2 ^ 18
  bits v (8 * (j % 3)) 8

/-- Value `i` of packed f6e3 whose bytes are `f` (spec/06 R163). -/
def unpackVal (f : Nat → Nat) (i : Nat) : Nat :=
  let g := i / 4
  bits (f (3 * g) + f (3 * g + 1) * 2 ^ 8 + f (3 * g + 2) * 2 ^ 16) (6 * (i % 4)) 6

/-- PACK (spec/06 R162): A's elements fill bytes 0 to 7 of each slot, B's bytes 8 to 15; f6e3 containers fill bytes 0 to 11. -/
def packOut (w : IWord) (e : Env) : Out :=
  match packSrc w.ext.toNat with
  | some (.f6e3p, _) =>
    e.results w .n8 false 1 false fun _ lane i _ => plain (if i < 12 then packByte (fun j => e.elem w .f6e3 false w.a 0 lane j) i else 0)
  | some (dt, st) =>
    let n := 128 / st.width
    e.results w dt false 1 false fun _ lane i _ =>
      let x := if i < n then e.elem w st false w.a 0 lane i else e.elem w st false w.b 0 lane (i - n)
      satFlag (satTo dt.isSigned dt.width (tyVal st x))
  | none => ⟨[], 0, false⟩

/-- The type of twice the width (spec/06 R164). -/
def widerTy : Ty → Ty
  | .i16 => .i32 | .n16 => .n32 | .i8 => .i16 | .n8 => .n16 | .i4 => .i8 | _ => .n8

/-- UNPK (spec/06 R164). Of f6e3p, an A that is no class-00 operand supplies its low byte, read as n8, to every packed byte (DESIGN CHOICE, log entry 64). -/
def unpkOut (w : IWord) (e : Env) : Out :=
  let st := typedTy w
  if st == .f6e3p then
    e.results w .f6e3 false 1 false fun _ lane i _ => plain (unpackVal (fun j => e.elem w .n8 false w.a 0 lane j) i)
  else
    let dt := widerTy st
    e.results w dt false 2 false fun q lane i _ =>
      plain (wrap dt.width (tyVal st (e.elem w st false w.a 0 lane (q * (128 / dt.width) + i))))

/-- The scale byte of a source element: width `ws`, lane, element of the lane's slot (spec/02 R51). -/
def Env.scaleByte (e : Env) (w : IWord) (ws lane i sel : Nat) : Nat :=
  match w.b with
  | .vec k n =>
    let (l, b) := if ws = 4 then (lane, sel + i / 16) else if ws = 8 then (lane, sel) else (lane - lane % (ws / 8), sel)
    vbits (e.w.row n.val) (e.unitOff false k.val l + 8 * b) 8
  | _ => 0

/-- BSCALE (spec/06 R165; spec/02 R50, R51). -/
def bscaleOut (w : IWord) (e : Env) : Out :=
  let dt := Ty.ofCode3 (bits w.ext.toNat 3 3)
  let st := Ty.ofCode3 (w.ext.toNat % 8)
  let mode := e.mode 0
  let span := ((ratioSpans dt.width st.width).getD (1, 1)).1
  e.results w dt false span (mode == .sr) fun q lane i n =>
    let (sq, si) := convPlace dt.width st.width q i
    fScaled (Fmt.ofTy st) (Fmt.ofTy dt) mode (e.randIf mode n) (cellBits st (e.elem w st false w.a sq lane si))
      (e.scaleByte w st.width lane si (smallOf w.c).toNat)

/-- FCVT (spec/06 R160). -/
def semFcvt (w : IWord) : Sem := computeSem 0x40 w (fcvtOut w)
/-- FCVT issues. -/
def execFcvt (w : IWord) (s : State) : Host.Outcome State Fault Refusal := runSem (semFcvt w) s

/-- ICVT (spec/06 R161). -/
def semIcvt (w : IWord) : Sem := computeSem 0x41 w (icvtOut w)
/-- ICVT issues. -/
def execIcvt (w : IWord) (s : State) : Host.Outcome State Fault Refusal := runSem (semIcvt w) s

/-- PACK (spec/06 R162). -/
def semPack (w : IWord) : Sem := computeSem 0x42 w (packOut w)
/-- PACK issues. -/
def execPack (w : IWord) (s : State) : Host.Outcome State Fault Refusal := runSem (semPack w) s

/-- UNPK (spec/06 R164). -/
def semUnpk (w : IWord) : Sem := computeSem 0x43 w (unpkOut w)
/-- UNPK issues. -/
def execUnpk (w : IWord) (s : State) : Host.Outcome State Fault Refusal := runSem (semUnpk w) s

/-- BSCALE (spec/06 R165). -/
def semBscale (w : IWord) : Sem := computeSem 0x44 w (bscaleOut w)
/-- BSCALE issues. -/
def execBscale (w : IWord) (s : State) : Host.Outcome State Fault Refusal := runSem (semBscale w) s

end Sys2Proof.Machine
end

