-- ==== Sys2Proof/Machine/Lanes.lean ====
section
/-!
DEFINITION. Lane forms, opcodes 0x50 to 0x59 (spec/06 R166 to R176), and the transposes 0xCA and 0xCB (spec/08 R236).
-/
namespace Sys2Proof.Machine

open Sys2Proof

/-- PERM (spec/06 R167): byte j of a slot. -/
def permByte (a b q : Nat) : Nat := if bit q 7 then 0 else bits (a + b * 2 ^ 128) (8 * (q % 32)) 8

/-- PERM (spec/06 R167). -/
def permOut (w : IWord) (e : Env) : Out :=
  e.results w .b128 false 1 false fun _ lane _ _ =>
    let a := e.elem w .b128 false w.a 0 lane 0
    let b := e.elem w .b128 false w.b 0 lane 0
    let c := e.elem w .b128 false w.c 0 lane 0
    let q (j : Nat) : Nat := match w.c with
      | .sreg _ => bits c (8 * (j % 8)) 8
      | _ => bits c (8 * j) 8
    plain (gatherBits ((List.range 16).map fun j => (8 * j, 8, permByte a b (q j)))).1

/-- The source lane of SHUF (spec/06 R168). -/
def shufLane (mode g t k : Nat) : Nat :=
  match mode with
  | 0 => k % g
  | 1 => if k ≤ t then t - k else t
  | 2 => if t + k < g then t + k else t
  | _ => (t ^^^ (k % g)) % g

/-- SHUF (spec/06 R168): predication tests bit 32t of each lane, in both scopes. -/
def shufOut (w : IWord) (e : Env) : Out :=
  let ws := typedWs w
  let t : Ty := if ws then .n32 else .b128
  match w.d with
  | .vec k n =>
    let g := gatherBits ((e.lanesOn w).map fun lane =>
      (e.unitOff ws k.val lane, t.width, e.elem w t ws w.a 0 (shufLane (w.ext.toNat % 4) e.lanes lane (e.elem w .n32 ws w.b 0 lane 0)) 0))
    ⟨[{ reg := .v (physRow e.w.vrot n.val) (if e.view.inSlot || ws then 2 ^ k.val else 15), spec := encodeSpec w.d, value := g.1, mask := g.2 }], 0, false⟩
  | _ => ⟨[], 0, false⟩

/-- BCAST (spec/06 R169). -/
def bcastOut (w : IWord) (e : Env) : Out :=
  let t := typedTy w
  let per := 128 / t.width
  let n := e.lanes * per
  e.results w t false 1 false fun _ lane _ _ =>
    let k := (match w.b with
      | .vec _ _ => e.elem w .n32 false w.b 0 lane 0
      | o => e.elem w .n64 false o 0 lane 0) % n
    plain (cellBits t (e.elem w t false w.a 0 (k / per) (k % per)))

/-- XMOV (spec/06 R170). -/
def xmovOut (w : IWord) (e : Env) : Out :=
  let t := typedTy w
  e.results w t false 1 false fun _ lane i _ => plain (cellBits t (e.elem w t false w.a 0 lane i))

/-- BALLOT (spec/06 R171): written whenever the path issues. -/
def ballotOut (w : IWord) (e : Env) : Out :=
  let m := e.maskOf w.a
  let v := ((e.lanesOn w).filter fun t => m.getLsbD (32 * t)).foldl (fun acc t => acc ||| 2 ^ t) 0
  match w.d with
  | .sreg n => if n = 0 then ⟨[], 0, false⟩ else ⟨[{ reg := .s n.val, spec := encodeSpec w.d, value := v, mask := 2 ^ 64 - 1 }], 0, false⟩
  | _ => ⟨[], 0, false⟩

/-- VOTE (spec/06 R172). -/
def voteOut (w : IWord) (e : Env) : Out :=
  let m := e.maskOf w.a
  let l := e.lanesOn w
  let v := l.map fun t => m.getLsbD (32 * t)
  let r := match w.ext.toNat % 4 with
    | 0 => v.any id
    | 1 => v.all id
    | _ => v.all id || v.all not
  ⟨maskRes w e (if r then BitVec.allOnes 1024 else 0) (BitVec.ofNat 1024 (laneBits l)), 0, false⟩

/-! ### Reductions and scans (spec/06 R173 to R175) -/

/-- Two values combined under an operation of R173. -/
def combine (t : Ty) (op : Nat) (mode : RMode) (rnd a b : Nat) : Nat × Nat :=
  match op with
  | 0 => if t.isFloat then fAdd (Fmt.ofTy t) mode rnd a b else plain (wrap t.width (tyVal t a + tyVal t b))
  | 1 => plain (if t.isFloat then fMinMax (Fmt.ofTy t) false a b else if tyLe t a b then a else b)
  | 2 => plain (if t.isFloat then fMinMax (Fmt.ofTy t) true a b else if tyLe t a b then b else a)
  | 3 => plain (a &&& b)
  | 4 => plain (a ||| b)
  | _ => plain (a ^^^ b)

/-- A node of the tree over a present or absent value on each side (spec/06 R174). -/
def treeNode (t : Ty) (op : Nat) (mode : RMode) (rnd : Nat) : Option (Nat × Nat) → Option (Nat × Nat) → Option (Nat × Nat)
  | some a, some b => let r := combine t op mode rnd a.1 b.1; some (r.1, a.2 ||| b.2 ||| r.2)
  | some a, none => some a
  | none, x => x

/-- The root over lanes 2^l i to 2^l (i + 1) - 1; `rnd` gives the random word of a lane's element. -/
def tree (t : Ty) (op : Nat) (mode : RMode) (rnd : Nat → Nat) (leaf : Nat → Option (Nat × Nat)) : Nat → Nat → Option (Nat × Nat)
  | 0, i => leaf i
  | l + 1, i => treeNode t op mode (rnd (2 ^ (l + 1) * i)) (tree t op mode rnd leaf l (2 * i)) (tree t op mode rnd leaf l (2 * i + 1))

/-- The number of levels of the tree. -/
def Env.levels (e : Env) : Nat := if e.view.inSlot then 3 else 5

/-- The word and row of the destination of a lane form. -/
def destOf (w : IWord) : Nat × Nat := match w.d with | .vec k n => (k.val, n.val) | _ => (0, 0)

/-- Whether element `p` of a lane participates (spec/06 R166). -/
def Env.takesPart (e : Env) (w : IWord) (t : Ty) (ws : Bool) (lane p : Nat) : Bool :=
  e.active lane && e.predAt w ((e.unitOff ws (destOf w).1 lane + t.width * p) / 4)

/-- The element number, in the destination register, of element `p` of a lane. -/
def Env.elemNo (e : Env) (w : IWord) (t : Ty) (ws : Bool) (lane p : Nat) : Nat := (e.unitOff ws (destOf w).1 lane + t.width * p) / t.width

/-- REDX (spec/06 R174). -/
def redxOut (w : IWord) (e : Env) : Out :=
  let t := typedTy w
  let ws := typedWs w
  let op := (smallOf w.c).toNat % 8
  let mode := e.mode 0
  let sr := mode == .sr && t.isFloat && op == 0
  let roots := (List.range (perUnit t ws)).map fun p =>
    tree t op mode (fun lane => e.randIf mode (e.elemNo w t ws lane p))
      (fun lane => if e.takesPart w t ws lane p then some (e.elem w t ws w.a 0 lane p, 0) else none) e.levels 0
  e.results w t ws 1 sr fun _ _ i _ => ((roots.getD i none).getD (0, 0))

/-- The identity of an operation (spec/06 R175). -/
def identityOf (t : Ty) (op : Nat) : Nat :=
  match op with
  | 1 => if t.isFloat then (infPat (Fmt.ofTy t) false).1 else wrap t.width (intMax t.isSigned t.width)
  | 2 => if t.isFloat then (infPat (Fmt.ofTy t) true).1 else wrap t.width (intMin t.isSigned t.width)
  | 3 => 2 ^ t.width - 1
  | _ => 0

/-- A scan over lanes in ascending order from a running value: each participating lane's result and flags. -/
def scan (t : Ty) (op : Nat) (mode : RMode) (excl : Bool) (rnd : Nat → Nat) (leaf : Nat → Option Nat) : List Nat → Nat → List (Nat × Nat × Nat)
  | [], _ => []
  | lane :: r, run =>
    match leaf lane with
    | none => scan t op mode excl rnd leaf r run
    | some x =>
      let c := combine t op mode (rnd lane) run x
      if excl then (lane, run, if r.any fun l => (leaf l).isSome then c.2 else 0) :: scan t op mode excl rnd leaf r c.1
      else (lane, c.1, c.2) :: scan t op mode excl rnd leaf r c.1

/-- The entry of a scan for a lane. -/
def scanAt : List (Nat × Nat × Nat) → Nat → Nat × Nat
  | [], _ => (0, 0)
  | (l, v, f) :: r, lane => if l = lane then (v, f) else scanAt r lane

/-- SCANX (spec/06 R175). -/
def scanxOut (w : IWord) (e : Env) : Out :=
  let t := typedTy w
  let ws := typedWs w
  let c := (smallOf w.c).toNat
  let op := c % 8
  let mode := e.mode 0
  let sr := mode == .sr && t.isFloat && op == 0
  let cols := (List.range (perUnit t ws)).map fun p =>
    scan t op mode (bit c 3) (fun lane => e.randIf mode (e.elemNo w t ws lane p))
      (fun lane => if e.takesPart w t ws lane p then some (e.elem w t ws w.a 0 lane p) else none) (List.range e.lanes) (identityOf t op)
  e.results w t ws 1 sr fun _ lane i _ => scanAt (cols.getD i []) lane

/-! ### Reductions with an index (spec/06 R176) -/

/-- Whether value x goes before value y: -1, 0 or 1 as a rank difference. A NaN loses to every number. -/
def rankBefore (t : Ty) (isMax : Bool) (x y : Nat) : Bool :=
  if t == .f32 then
    match isNaN .f32 x, isNaN .f32 y with
    | true, _ => false
    | false, true => true
    | false, false => if isMax then decide (fRank .f32 y < fRank .f32 x) else decide (fRank .f32 x < fRank .f32 y)
  else if isMax then decide (tyVal t y < tyVal t x) else decide (tyVal t x < tyVal t y)

/-- The winner of a list of (value, index) pairs in lane order. -/
def winner (t : Ty) (isMax : Bool) : List (Nat × Nat) → Option (Nat × Nat)
  | [] => none
  | x :: r =>
    match winner t isMax r with
    | none => some x
    | some y =>
      if rankBefore t isMax y.1 x.1 then some y
      else if rankBefore t isMax x.1 y.1 then some x
      else if y.2 < x.2 then some y else some x

/-- The list of positions of a position row: lane and offset, for one element position. -/
def Env.partLanes (e : Env) (w : IWord) (t : Ty) (ws : Bool) (p : Nat) : List Nat := (List.range e.lanes).filter fun l => e.takesPart w t ws l p

/-- MAXI and MINI (spec/06 R176). -/
def maxiOut (isMax : Bool) (w : IWord) (e : Env) : Out :=
  let t := typedTy w
  let ws := typedWs w
  let (k, n) := destOf w
  let cols := (List.range (perUnit t ws)).map fun p =>
    let lanes := e.partLanes w t ws p
    let win := (winner t isMax (lanes.map fun l => (e.elem w t ws w.a 0 l p, e.elem w .n32 ws w.b 0 l p))).getD (0, 0)
    lanes.map fun l => (e.unitOff ws k l + 32 * p, win)
  let all := cols.flatten
  let value := gatherBits (all.map fun x => (x.1, 32, x.2.1))
  let index (d : Nat) := gatherBits (all.map fun x => (x.1 + d, 32, x.2.2))
  if ws then
    let i := index 32
    ⟨[{ reg := .v (physRow e.w.vrot n) (2 ^ k + 2 ^ (k + 1)), spec := encodeSpec w.d, value := value.1 ||| i.1, mask := value.2 ||| i.2 }], 0, false⟩
  else
    let i := index 0
    let words := if e.view.inSlot then 2 ^ k else 15
    ⟨[{ reg := .v (physRow e.w.vrot n) words, spec := encodeSpec w.d, value := value.1, mask := value.2 },
      { reg := .v (physRow e.w.vrot (n + 1)) words, spec := specAt w.d 1, value := i.1, mask := i.2 }], 0, false⟩

/-- PERM (spec/06 R167). -/
def semPerm (w : IWord) : Sem := computeSem 0x50 w (permOut w)
/-- PERM issues. -/
def execPerm (w : IWord) (s : State) : Host.Outcome State Fault Refusal := runSem (semPerm w) s

/-- SHUF (spec/06 R168). -/
def semShuf (w : IWord) : Sem := computeSem 0x51 w (shufOut w)
/-- SHUF issues. -/
def execShuf (w : IWord) (s : State) : Host.Outcome State Fault Refusal := runSem (semShuf w) s

/-- BCAST (spec/06 R169). -/
def semBcast (w : IWord) : Sem := computeSem 0x52 w (bcastOut w)
/-- BCAST issues. -/
def execBcast (w : IWord) (s : State) : Host.Outcome State Fault Refusal := runSem (semBcast w) s

/-- BALLOT (spec/06 R171). -/
def semBallot (w : IWord) : Sem := computeSem 0x53 w (ballotOut w)
/-- BALLOT issues. -/
def execBallot (w : IWord) (s : State) : Host.Outcome State Fault Refusal := runSem (semBallot w) s

/-- VOTE (spec/06 R172). -/
def semVote (w : IWord) : Sem := computeSem 0x54 w (voteOut w)
/-- VOTE issues. -/
def execVote (w : IWord) (s : State) : Host.Outcome State Fault Refusal := runSem (semVote w) s

/-- REDX (spec/06 R174). -/
def semRedx (w : IWord) : Sem := computeSem 0x55 w (redxOut w)
/-- REDX issues. -/
def execRedx (w : IWord) (s : State) : Host.Outcome State Fault Refusal := runSem (semRedx w) s

/-- MAXI (spec/06 R176). -/
def semMaxi (w : IWord) : Sem := computeSem 0x56 w (maxiOut true w)
/-- MAXI issues. -/
def execMaxi (w : IWord) (s : State) : Host.Outcome State Fault Refusal := runSem (semMaxi w) s

/-- MINI (spec/06 R176). -/
def semMini (w : IWord) : Sem := computeSem 0x57 w (maxiOut false w)
/-- MINI issues. -/
def execMini (w : IWord) (s : State) : Host.Outcome State Fault Refusal := runSem (semMini w) s

/-- SCANX (spec/06 R175). -/
def semScanx (w : IWord) : Sem := computeSem 0x58 w (scanxOut w)
/-- SCANX issues. -/
def execScanx (w : IWord) (s : State) : Host.Outcome State Fault Refusal := runSem (semScanx w) s

/-- XMOV (spec/06 R170). -/
def semXmov (w : IWord) : Sem := computeSem 0x59 w (xmovOut w)
/-- XMOV issues. -/
def execXmov (w : IWord) (s : State) : Host.Outcome State Fault Refusal := runSem (semXmov w) s

/-! ### Transposes (spec/08 R235, R236) -/

/-- TRN (spec/08 R236). -/
def trnOut (w : IWord) (e : Env) : Out :=
  let t := typedTy w
  e.results w t false 1 false fun _ lane i _ => plain (cellBits t (e.elem w t false w.a 0 (i % 8) (8 * (i / 8) + lane)))

/-- TRNW (spec/08 R236). -/
def trnwOut (w : IWord) (e : Env) : Out :=
  let t := typedTy w
  let q := if t.width = 32 then 2 else 4
  e.results w t false q false fun r lane i _ =>
    plain (e.elem w t false w.a (lane / (8 / q)) (r * (8 / q) + i) (lane % (8 / q)))

/-- TRN (spec/08 R236). -/
def semTrn (w : IWord) : Sem := computeSem 0xCA w (trnOut w)
/-- TRN issues. -/
def execTrn (w : IWord) (s : State) : Host.Outcome State Fault Refusal := runSem (semTrn w) s
/-- TRNW (spec/08 R236). -/
def semTrnw (w : IWord) : Sem := computeSem 0xCB w (trnwOut w)
/-- TRNW issues. -/
def execTrnw (w : IWord) (s : State) : Host.Outcome State Fault Refusal := runSem (semTrnw w) s

end Sys2Proof.Machine
end

