-- ==== Sys2Proof/Machine/Special.lean ====
section
/-!
DEFINITION. Correctly rounded functions, the activation tables and random words, opcodes 0x60 to 0x67 and 0x69 (spec/06 R177 to R185).
-/
namespace Sys2Proof.Machine

open Sys2Proof

/-- A function of one f32 element (spec/06 R177). -/
def functionOut (w : IWord) (f : RMode → Nat → Nat → Nat × Nat) (e : Env) : Out :=
  let ws := typedWs w
  let mode := e.mode (rndCode w)
  e.results w .f32 ws 1 (mode == .sr) fun _ lane i n => f mode (e.randIf mode n) (e.elem w .f32 ws w.a 0 lane i)

/-- EXP2 (spec/06 R177, R178). -/
def semExp2 (w : IWord) : Sem := computeSem 0x60 w (functionOut w fExp2)
/-- EXP2 issues. -/
def execExp2 (w : IWord) (s : State) : Host.Outcome State Fault Refusal := runSem (semExp2 w) s

/-- LOG2 (spec/06 R177, R178). -/
def semLog2 (w : IWord) : Sem := computeSem 0x61 w (functionOut w fLog2)
/-- LOG2 issues. -/
def execLog2 (w : IWord) (s : State) : Host.Outcome State Fault Refusal := runSem (semLog2 w) s

/-- RCP (spec/06 R177, R178). -/
def semRcp (w : IWord) : Sem := computeSem 0x62 w (functionOut w fRcp)
/-- RCP issues. -/
def execRcp (w : IWord) (s : State) : Host.Outcome State Fault Refusal := runSem (semRcp w) s

/-- RSQ (spec/06 R177, R178). -/
def semRsq (w : IWord) : Sem := computeSem 0x63 w (functionOut w fRsq)
/-- RSQ issues. -/
def execRsq (w : IWord) (s : State) : Host.Outcome State Fault Refusal := runSem (semRsq w) s

/-- SQRT (spec/06 R177, R178). -/
def semSqrt (w : IWord) : Sem := computeSem 0x64 w (functionOut w fSqrt)
/-- SQRT issues. -/
def execSqrt (w : IWord) (s : State) : Host.Outcome State Fault Refusal := runSem (semSqrt w) s

/-- SINP (spec/06 R177, R178). -/
def semSinp (w : IWord) : Sem := computeSem 0x65 w (functionOut w fSinp)
/-- SINP issues. -/
def execSinp (w : IWord) (s : State) : Host.Outcome State Fault Refusal := runSem (semSinp w) s

/-- COSP (spec/06 R177, R178). -/
def semCosp (w : IWord) : Sem := computeSem 0x66 w (functionOut w fCosp)
/-- COSP issues. -/
def execCosp (w : IWord) (s : State) : Host.Outcome State Fault Refusal := runSem (semCosp w) s

/-- The bank a warp or context reads (spec/06 R181). -/
def Env.bank (e : Env) : Nat := e.w.csr.sfbank % 2

/-- ACT waits while its bank is busy (spec/06 R183). -/
def actGate (e : Env) (s : State) : Gate := if (s.core e.core).sft.any fun x => x.bank == e.bank then .wait .bank else .ok

/-- ACT (spec/06 R181). -/
def actOut (w : IWord) (e : Env) : Out := functionOut w (fAct (if e.bank = 0 then e.table0 else e.table1)) e

/-- Marks the results an ACT has just sent with the bank they were read from and the cycle in which the unit has produced them, for R183. -/
def State.markAct (s : State) (e : Env) (before lat : Nat) : State :=
  s.modWarp e.key fun w =>
    { w with inflight := w.inflight.take before ++ (w.inflight.drop before).map fun f => { f with bank := some (e.bank, e.acyc + lat) } }

/-- ACT (spec/06 R181, R183). -/
def semAct (w : IWord) : Sem :=
  { op := 0x67, w := w, gate := actGate,
    eff := fun e s => (s.commit e (wordLat e 0x67 w) (actOut w e)).markAct e (s.warp e.key).inflight.length (wordLat e 0x67 w) }
/-- ACT issues. -/
def execAct (w : IWord) (s : State) : Host.Outcome State Fault Refusal := runSem (semAct w) s

/-- RNDW (spec/06 R184): each lane's 16-byte slot of A is the counter, B the key; word scope takes the named word. -/
def rndwOut (w : IWord) (e : Env) : Out :=
  let ws := typedWs w
  let key := BitVec.ofNat 64 (e.uniform w .n64 w.b)
  let draw (lane : Nat) : Nat := (whisk (BitVec.ofNat 128 (e.elem w .b128 false w.a 0 lane 0)) key).toNat
  if ws then e.results w .n32 true 1 false fun _ lane _ _ => plain (bits (draw lane) (32 * (destOf w).1) 32)
  else e.results w .b128 false 1 false fun _ lane _ _ => plain (draw lane)
/-- RNDW (spec/06 R184). -/
def semRndw (w : IWord) : Sem := computeSem 0x69 w (rndwOut w)
/-- RNDW issues. -/
def execRndw (w : IWord) (s : State) : Host.Outcome State Fault Refusal := runSem (semRndw w) s

end Sys2Proof.Machine
end

