-- ==== Sys2Proof/Machine/Memory.lean ====
section
/-!
DEFINITION. Global memory as the parties reach it: homes that refuse an access, L1 lines, transformed tiles, reads and writes at the home slice,
stores to code (spec/10 R275, R280 to R287, R294; spec/11 R300 to R302; spec/18 R397, R413, R414; spec/20 R443; spec/22 R462).
-/
namespace Sys2Proof.Machine

open Sys2Proof

/-! ### What a home refuses -/

/-- The kinds of global access. -/
inductive GKind where
  | ld | st | ldb | stb
  /-- An ATOM with its OP and width, and CAS. -/
  | atom (op : Nat) (wide : Bool)
  | cas
  /-- ULA, SQREC and SQACC actions. -/
  | pantry
  /-- SQBIND's write and LPCALL's read of a record's word 1. -/
  | record (write : Bool)
  | copyRead | copyWrite
  | mload | matrixRead | drain | addStore
  | fetch
  /-- SFTLOAD, CTABLE, LAUNCH, SQBIND reads and the like: plain reads by other forms. -/
  | read
deriving DecidableEq, Repr

/-- The access a walk makes for a kind. -/
def GKind.acc : GKind → Acc
  | .st => .write | .stb => .write | .copyWrite => .write | .drain => .write
  | .atom _ _ => .atomic | .cas => .atomic | .pantry => .atomic | .addStore => .atomic | .record true => .atomic
  | .fetch => .fetch
  | _ => .read

/-- ACC of a fault record for a kind (spec/19 R428). -/
def GKind.faultAcc : GKind → Nat
  | .st => 1 | .stb => 1
  | .atom _ _ => 2 | .cas => 2 | .pantry => 2 | .record true => 2
  | .fetch => 3 | .copyRead => 4 | .copyWrite => 5
  | .mload => 6 | .matrixRead => 6 | .drain => 6 | .addStore => 6
  | _ => 0

/-- Whether a physical address is peer memory. -/
def isPeer (pa : Nat) : Bool := decide (2 ^ 45 ≤ pa) && decide (pa < 2 ^ 46)

/-- The route entry of a peer address (spec/18 R413). -/
def routeOf (s : State) (pa : Nat) : Word64 := s.host.routes.getD ((pa - 2 ^ 45) / 2 ^ 38) 0

/-- Whether a peer address lies in the page of the peer's event counters. -/
def counterPage (pa : Nat) : Bool := decide (0x3FFFFFC000 ≤ (pa - 2 ^ 45) % 2 ^ 38)

/-- A PAGEPERM with one INFO bit and the virtual address. -/
def permBit (b va : Nat) : Trap := { cause := causePAGEPERM, info := 2 ^ b, addr := va }

/-- What the home of a byte refuses a kind of access, beyond translation. -/
def homeTrap (s : State) (k : GKind) (va pa : Nat) : Option Trap :=
  match homeOf s pa with
  | .outside => some (permTrap 18 k.acc va)
  | .weights d =>
    match k with
    | .atom _ _ => some (permBit 6 va)
    | .cas => some (permBit 6 va)
    | .pantry => some (permBit 6 va)
    | .record _ => some (permBit 2 va)
    | .addStore => if (s.die d).wsWrite then some (permBit 6 va) else some { cause := causeWSWRITE, addr := va }
    | .st | .stb | .copyWrite | .drain => if (s.die d).wsWrite then none else some { cause := causeWSWRITE, addr := va }
    | _ => none
  | .host =>
    match k with
    | .atom op _ => if op = 0 ∨ op = 8 then none else some (permBit 8 va)
    | .addStore => some (permBit 8 va)
    | _ => none
  | .peer =>
    if !(routeOf s pa).getLsbD 63 then some { cause := causePAGEPERM, info := k.acc.code * 2 ^ 20, addr := va }
    else
      match k with
      | .atom op wide => if counterPage pa && !(op == 0 && !wide) then some (permBit 10 va) else none
      | .st | .stb | .copyWrite | .drain | .cas | .addStore => if counterPage pa then some (permBit 10 va) else none
      | .pantry | .record _ => some (permBit 2 va)
      | _ => some (permBit 9 va)
  | .debug =>
    match k with
    | .ld => none
    | .st => none
    | _ => some (permBit 19 va)
  | _ => none

/-- The first refusal among the bytes of a range. Homes are aligned to 4 KiB at least, so its first and last bytes and each 4 KiB unit are tested. -/
def rangeTrap (s : State) (k : GKind) (pages : List TlbEntry) (va n : Nat) : Option Trap :=
  if n = 0 then none
  else
    ((range (va / 4096) ((va + n - 1) / 4096 + 1)).map fun u => if u = va / 4096 then va else u * 4096 % 2 ^ 57).findSome? fun a =>
      homeTrap s k a (paVia pages a)

/-! ### Pantry (spec/10 R286) -/

/-- Whether an address lies in the Pantry aperture. -/
def inPantry (s : State) (pa : Nat) : Bool := match homeOf s pa with | .pantry _ => true | _ => false

/-! ### Refresh windows (spec/10 R285; spec/01 R38) -/

/-- The state as accesses issued at serial number `id` see its routes: an entry written since stands for them as it was (spec/18 R413). -/
def State.routesAt (s : State) (id : Nat) : State :=
  match s.host.oldRoutes.filter fun x => decide (id < x.1) with
  | [] => s
  | l => { s with host := { s.host with routes := l.foldr (fun x t => t.set x.2.1 x.2.2) s.host.routes } }

/-! ### Caches -/

/-- A core's L1 without a line. -/
def Core.dropLine (c : Core) (line : Nat) : Core := { c with l1 := c.l1.erase line }

/-- Tiles of a core but those built from a line (spec/10 R294). -/
def Core.dropTiles (c : Core) (line : Nat) : Core :=
  if c.tiles.isEmpty then c else { c with tiles := c.tiles.filter fun t => (t.lines.get? line).isNone }

/-- Lines that a byte range touches. -/
def linesOf (pa n : Nat) : List Nat := if n = 0 then [] else range (pa / 64) ((pa + n - 1) / 64 + 1)

/-- The bytes of a line at its home. -/
def homeLine (s : State) (line : Nat) : BitVec 512 := BitVec.ofNat 512 (memNat s (64 * line) 64)

/-- Lines an L1 holds, tiles counted: 256 KiB (spec/10 R280). -/
def l1Lines : Nat := 4096

/-- Lines in use: those kept, and those that tiles fill. -/
def Core.l1Used (c : Core) : Nat := c.l1.length + (c.tiles.map (·.room)).sum

/-- The line a full L1 gives up: one marked streaming, else the one filled first. -/
def l1Victim (t : Tbl L1Line) : Option Nat :=
  match t.find? fun kv => kv.2.stream with
  | some (k, _) => some k
  | none => (t.foldl (fun acc kv => match acc with
      | none => some (kv.1, kv.2.filled)
      | some (k, f) => if kv.2.filled < f then some (kv.1, kv.2.filled) else some (k, f)) (none : Option (Nat × Nat))).map (·.1)

/-- A full L1 gives up a line, or its oldest tile when it holds no line. -/
def Core.evict (c : Core) : Core :=
  match l1Victim c.l1 with
  | some k => { c with l1 := c.l1.erase k }
  | none => { c with tiles := c.tiles.dropLast }

/-- Gives up lines and tiles, at most `fuel` times, until `need` more lines fit. -/
def Core.makeRoom (need : Nat) : Nat → Core → Core
  | 0, c => c
  | fuel + 1, c => if c.l1Used + need ≤ l1Lines then c else Core.makeRoom need fuel c.evict

/-- A core's L1 takes a line from its home; tiles built from an older copy go, so that no party reads a newer value and then an older one
(spec/10 R280; spec/11 R302). -/
def State.fill (s : State) (core line : Nat) (stream : Bool) : State :=
  let data := homeLine s line
  let s := { s with serial := s.serial + 1 }
  s.modCore core fun c =>
    let c := (if (c.l1.get? line).isNone then c.makeRoom 1 1 else c).dropTiles line
    { c with l1 := c.l1.set line { data := data, filled := s.serial, stream := stream } }

/-- Whether a home's lines are kept in L1: peer memory and the debug window are not. -/
def l1Home (s : State) (pa : Nat) : Bool :=
  match homeOf s pa with
  | .peer => false | .debug => false | .outside => false
  | _ => true

/-- Whether a plain load may use an L1 line (spec/11 R301): one filled after the party's last acquire at .cluster or wider. -/
def l1Usable (c : Core) (line acquired : Nat) : Bool :=
  match c.l1.get? line with
  | some x => decide (acquired < x.filled)
  | none => false

/-- Before a plain load binds: each line it touches that L1 does not hold usably is filled, unless the cache attribute keeps it out of L1. -/
def State.fillFor (s : State) (core acquired cache : Nat) (line : Nat) : State :=
  if cache = 1 || !l1Home s (64 * line) || l1Usable (s.core core) line acquired then s
  else s.fill core line (cache == 2)

/-- A write of some bits of a byte: its physical address, the bits as a mask, and their value. -/
structure BytePut where
  pa : Nat
  mask : Nat
  value : Nat
deriving DecidableEq, Repr

/-- A byte after a write of some of its bits. -/
def mixByte (old : Byte) (mask value : Nat) : Byte := mixBits old (BitVec.ofNat 8 value) (BitVec.ofNat 8 mask)

/-- A byte as the stores in a core's memory pipeline leave it, oldest first (spec/11 R300). -/
def overlay (l : List BytePut) (pa : Nat) (v : Byte) : Byte := l.foldl (fun v x => if x.pa = pa then mixByte v x.mask x.value else v) v

/-- A byte as a load of a core reads it: from L1 when `l1` and the line is there, else at its home, under the stores in the core's pipeline. -/
def readByte (s : State) (core : Nat) (l1 : Bool) (l : List BytePut) (pa : Nat) : Byte :=
  overlay l pa <|
    if l1 then
      match (s.core core).l1.get? (pa / 64) with
      | some x => BitVec.ofNat 8 (vbits x.data (8 * (pa % 64)) 8)
      | none => memGet s.mem pa
    else memGet s.mem pa

/-- A core's L1 copies and tiles of the lines of some bytes go: what is read at home may be newer (spec/11 R302). -/
def State.dropLines (s : State) (core : Nat) (pas : List Nat) : State :=
  let c := s.core core
  if c.l1.isEmpty && c.tiles.isEmpty then s
  else s.setCore core ((pas.map (· / 64)).eraseDups.foldl (fun c l => (c.dropLine l).dropTiles l) c)

/-! ### Writes -/

/-- A byte is written at its home, and the writing core's own L1 copy with it; tiles of the line are discarded (spec/10 R280, R294; spec/11 R301). -/
def State.storeByte (s : State) (core : Option Nat) (pa : Nat) (v : Byte) : State :=
  let s := { s with mem := memPut s.mem pa v }
  match core with
  | none => s
  | some c => s.modCore c fun x =>
      (match x.l1.get? (pa / 64) with
       | some l => { x with l1 := x.l1.set (pa / 64) { l with data := BitVec.ofNat 512 (putBits l.data.toNat (8 * (pa % 64)) 8 v.toNat) } }
       | none => x).dropTiles (pa / 64)

/-- Bytes are written to a list of physical addresses. -/
def State.storeBytes (s : State) (core : Option Nat) : List Nat → List Byte → State
  | pa :: ps, v :: vs => (s.storeByte core pa v).storeBytes core ps vs
  | _, _ => s

/-! ### Stores to code (spec/10 R275) -/

/-- Whether a store to code was made by a party of a scope, given as an ORD code, of an issuer on a core (spec/11 R297). -/
def CodeStore.within (x : CodeStore) (core : Nat) (agent : Nat × Nat × Nat) (scope : Nat) : Bool :=
  match scope with
  | 1 => x.agent == some agent
  | 2 => match x.agent with | some a => a.1 == agent.1 && a.2.1 == agent.2.1 | none => false
  | 3 => match x.core with | some c => c / 4 == core / 4 | none => false
  | 4 => match x.core with | some c => dieOf c == dieOf core | none => false
  | 5 => x.core.isSome
  | _ => true

/-- Whether the core's fetch sees a store to code: a CINV.all of the core and a FENCE.acq that includes its party have followed it. -/
def CodeStore.seen (x : CodeStore) : Bool := x.covered && x.dropped

/-- The stores that stay unseen: those to a byte of which a later store is seen go with it. -/
def unseenCode : List CodeStore → List CodeStore
  | [] => []
  | x :: r => if x.seen || r.any (fun y => y.pa == x.pa && y.seen) then unseenCode r else x :: unseenCode r

/-- The core's fetch sees stores to the lines that it holds. -/
def Core.seeCode (c : Core) : Core :=
  let put (t : Tbl (BitVec 512)) (x : CodeStore) : Tbl (BitVec 512) :=
    t.modify (x.pa / 64) fun l => BitVec.ofNat 512 (putBits l.toNat (8 * (x.pa % 64)) 8 x.value.toNat)
  { c with icache := (c.code.filter (·.seen)).foldl put c.icache, code := unseenCode c.code }

/-- A CINV.all of the core follows the stores to code that its fetch does not see yet. -/
def Core.dropCode (c : Core) : Core := ({ c with code := c.code.map fun x => { x with dropped := true } } : Core).seeCode

/-- The UE trap of an error class (spec/22 R462). -/
def ueTrap (cls va : Nat) : Trap := { cause := causeUE, info := cls, addr := va }

end Sys2Proof.Machine
end

