-- ==== Sys2Proof/Machine/Panel.lean ====
section
/-!
DEFINITION. Codebook weights, ladder groups and B slots as the matrix engine holds them, and as the debug window presents them
(spec/02 R52 to R55; spec/08 R221 to R223; spec/13 R344).
-/
namespace Sys2Proof.Machine

open Sys2Proof

/-! ### Codebook weights (spec/02 R52, R53) -/

/-- Sign and magnitude, in eighths, of element `j` of a codebook index. -/
def cb2Elem (table : BitVec 8192) (idx j : Nat) : Bool × Nat :=
  let q := vbits table (32 * bits idx 8 8 + 4 * j) 4
  let m := 2 * q + idx % 2
  let s := if j < 7 then bit idx (j + 1) else popCount 7 (bits idx 1 7) % 2 = 1
  (s && m != 0, m)

/-- The weight of element `j` of an index with an e8m0 scale; a scale of 0xFF is not a number of this kind. -/
def cb2Weight (table : BitVec 8192) (idx j scale : Nat) : FVal :=
  if scale = 255 then .nan
  else
    let x := cb2Elem table idx j
    .fin x.1 x.2 ((scale : Int) - 130)

/-! ### Packed column images (spec/08 R221) -/

/-- Bytes of a packed column of 64 elements. -/
def colBytes : Ty → Nat
  | .f64 => 512 | .f32 => 256 | .bf16 => 128 | .f16 => 128
  | .f4e2 => 32 | .i4 => 32 | .cb2 => 20 | .ld4 => 96
  | _ => 64

/-- Slots of a type: 0 stands for half a slot. -/
def typeSlots : Ty → Nat
  | .f64 => 8 | .f32 => 4 | .bf16 => 2 | .f16 => 2 | .f4e2 => 0 | .i4 => 0 | .cb2 => 0 | _ => 1

/-- A little-endian number in a list of bytes. -/
def imgNat (l : List Byte) (at' n : Nat) : Nat := leNat ((l.drop at').take n)

/-- Index and scale of K element `k` of a cb2 column of 20 bytes. -/
def cb2Col (col : List Byte) (k : Nat) : Nat × Nat := (imgNat col (2 * (k / 8)) 2, imgNat col (16 + k / 16) 1)

/-! ### Ladder groups -/

/-- Stable insertion of an index into a list that ascends by value. -/
def insertBy (v : Nat → Int) (i : Nat) : List Nat → List Nat
  | [] => [i]
  | j :: r => if v i < v j then i :: j :: r else j :: insertBy v i r

/-- Indices 0 to n - 1 by ascending value, ties by ascending index. -/
def sortIdx (v : Nat → Int) (n : Nat) : List Nat := (List.range n).foldl (fun acc i => insertBy v i acc) []

/-- A stored group from its 768-bit record (spec/02 R54, R55). -/
def storedPanel (r : BitVec 768) : Panel :=
  let perm := (List.range 64).map fun k => vbits r (6 * k) 6
  let base := vbits r 640 16
  let bad := vbits r 664 104 != 0 || vbits r 384 4 != 0 || !((List.range 64).all perm.contains) || isNaN .bf16 base || isInf .bf16 base
  let b : Dy := match fDecode .bf16 base with | .fin s m e => Dy.ofFin s m e | _ => ⟨0, 0⟩
  { invalid := bad
    perm := perm
    diffs := (List.range 63).map fun j => sInt 4 (vbits r (388 + 4 * j) 4)
    baseM := b.m
    baseE := b.e
    unitE := sInt 8 (vbits r 656 8)
    raw := some r }

/-- A derived group of 64 integer values in units of 2^unit (spec/08 R222). -/
def derivedPanel (invalid : Bool) (unit : Int) (v : List Int) : Panel :=
  let f := fun i => (v[i]?).getD 0
  let perm := sortIdx f 64
  let w := perm.map f
  { invalid := invalid
    perm := perm
    diffs := (w.zip (w.drop 1)).map fun x => x.2 - x.1
    baseM := w.headD 0
    baseE := unit
    unitE := unit
    raw := none }

/-- The group of a column for the T of an MPERM: a record of 96 bytes, or a packed image of R221. -/
def panelOf (t : Ty) (table : BitVec 8192) (col : List Byte) : Panel :=
  match t with
  | .ld4 => storedPanel (BitVec.ofNat 768 (leNat col))
  | .cb2 =>
    let sc := (List.range 4).map fun q => imgNat col (16 + q) 1
    let s := sc.headD 0
    let v := (List.range 64).map fun k => let x := cb2Elem table (cb2Col col k).1 (k % 8); if x.1 then -(x.2 : Int) else x.2
    derivedPanel (sc.any fun x => x != s || x == 255) ((s : Int) - 130) v
  | .i4 => derivedPanel false 0 ((List.range 64).map fun k => sInt 4 (bits (imgNat col (k / 2) 1) (4 * (k % 2)) 4))
  | _ => derivedPanel false 0 ((List.range 64).map fun k => sInt 8 (imgNat col k 1))

/-- Whether a difference is an SD4 integer in units of 2^j. -/
def sd4Step (j : Nat) (x : Int) : Bool := x % 2 ^ j == 0 && decide (x / 2 ^ j ≤ 7) && decide (-8 ≤ x / 2 ^ j)

/-- The steps from each value of a list to the next. -/
def stepsOf (l : List Int) : List Int := (l.zip (l.drop 1)).map fun x => x.2 - x.1

/-- The values of a group by K index, in its unit. -/
def Panel.values (p : Panel) : List Int :=
  let w := (p.diffs.foldl (fun (a : List Int × Int) d => (a.1 ++ [a.2 + d], a.2 + d)) ([p.baseM], p.baseM)).1
  (List.range 64).map fun k => match p.perm.findIdx? (· == k) with | some i => (w[i]?).getD 0 | none => 0

/-- An order of the K indices `rest` after one of value `cur` in which every step is an SD4 integer in units of 2^j, if there is one. -/
def sd4Path (v : Nat → Int) (j : Nat) : Nat → Int → List Nat → Option (List Nat)
  | 0, _, rest => if rest.isEmpty then some [] else none
  | fuel + 1, cur, rest =>
    if rest.isEmpty then some []
    else
      (rest.filter fun i => sd4Step j (v i - cur) && rest.find? (fun k => v k == v i) == some i).findSome? fun i =>
        (sd4Path v j fuel (v i) (rest.erase i)).map (i :: ·)

/-- The bf16 pattern of a base of `m` units of 2^unit, if it has one. -/
def basePattern (m unit : Int) : Option Nat :=
  let b := roundDy .bf16 .rne 0 false ⟨m, unit⟩
  match fDecode .bf16 b.1 with
  | .fin s n x => if b.2 = 0 ∧ ((Dy.ofFin s n x).add ⟨-m, unit⟩).m = 0 then some b.1 else none
  | _ => none

/-- The orders in which a derived group may be stored: ascending and descending by value; and, when the steps would fit and no end of them is a bf16 base,
any other that starts from one. -/
def sd4Orders (v : Nat → Int) (unit : Int) (j : Nat) (up : List Nat) : List (List Nat) :=
  let fits (l : List Nat) : Bool := (stepsOf (l.map v)).all (sd4Step j) && match l with | i :: _ => (basePattern (v i) unit).isSome | [] => false
  let other : Option (List Nat) :=
    if !(stepsOf (up.reverse.map v)).all (sd4Step j) then none
    else up.findSome? fun i => if (basePattern (v i) unit).isSome then (sd4Path v j 64 (v i) (up.erase i)).map (i :: ·) else none
  match [up, up.reverse].filter fits with
  | [] => other.toList
  | l => l

/-- The record of R54 that gives the weights of a group, if one does: the stored one, or one made from a derived group (log entry 40). -/
def panelRecord (p : Panel) : Option (BitVec 768) :=
  match p.raw with
  | some r => some r
  | none =>
    if p.invalid then none
    else
      let l := p.values
      let v (k : Nat) : Int := (l[k]?).getD 0
      (List.range 6).findSome? fun (j : Nat) =>
        let e : Int := p.unitE + (j : Int)
        if !decide (-128 ≤ e ∧ e ≤ 127) then none
        else
          (sd4Orders v p.unitE j p.perm).findSome? fun order =>
            (basePattern (v (order.headD 0)) p.unitE).map fun b =>
              let perm := (gatherBits ((List.range 64).map fun k => (6 * k, 6, (order[k]?).getD 0))).1
              let steps := stepsOf (order.map v)
              let diff := (gatherBits ((List.range 63).map fun k => (388 + 4 * k, 4, wrap 4 ((steps[k]?).getD 0 / 2 ^ j)))).1
              BitVec.ofNat 768 (perm + diff + b <<< 640 + wrap 8 e <<< 656)

/-! ### Slots -/

/-- The tag of half H of slot J. -/
def Engine.tag (g : Engine) (slot half : Nat) : SlotTag := g.tags.getD (2 * slot + half) .none

/-- The image of a slot. -/
def Engine.slot (g : Engine) (j : Nat) : BitVec 65536 := g.slots.getD j 0

/-- Bytes of an image of a slot, from an offset. -/
def slotBytes (x : BitVec 65536) (off n : Nat) : List Byte := (List.range n).map fun i => BitVec.ofNat 8 (vbits x (8 * (off + i)) 8)

/-- A byte of the macro store as the debug window presents it (spec/13 R344). A derived panel column that no record of R54 can stand for reads as
free values (log entry 5). -/
def macroByte (g : Engine) (a : Nat) : Byte :=
  let j := a / 8192
  let o := a % 8192
  match g.tag j (o / 4096) with
  | .none => 0
  | .ty _ => BitVec.ofNat 8 (vbits (g.slot j) (8 * o) 8)
  | .panel =>
    let x := j % 2 * 8192 + o
    if 96 * 128 ≤ x then 0
    else
      match (g.panels.get? (128 * (j / 2) + x / 96)).bind panelRecord with
      | some r => BitVec.ofNat 8 (vbits r (8 * (x % 96)) 8)
      | none => (Config.freeValue (65536 * j + x)).setWidth 8

/-- The code of a type (spec/03 R77). -/
def tyCode (t : Ty) : Nat := ((List.range 24).find? fun c => Ty.ofCode c == some t).getD 0

/-- The type code of a tag in the debug window (spec/20 R441). -/
def tagCode : SlotTag → Nat
  | .none => 0
  | .panel => 1
  | .ty t => 0x100 + tyCode t

end Sys2Proof.Machine
end

