-- ==== Sys2Proof/Machine/Csr.lean ====
section
/-!
DEFINITION. Control and status registers by number (spec/01 R34 to R41), path-table and loop-stack entries as bits (R32, R33), and the debug window
(spec/20 R441 to R443).
-/
namespace Sys2Proof.Machine

open Sys2Proof

/-! ### Control and status registers -/

/-- WSREF (spec/01 R38). -/
def wsref (ccnt : Nat) : Nat :=
  let t := ccnt % 2 ^ 20
  let active := decide (t % 16384 < 512)
  b2n active * 2 ^ 63 + t / 16384 * 2 ^ 10 + (if active then t / 16384 * 16384 + 512 - t else 0)

/-- WAKEREASON (spec/01 R39). -/
def wakeReason (c : Core) : Nat := c.wakeStamp % 2 ^ 48 * 2 ^ 16 + c.wakeCause % 16

/-- DEADLINE (spec/01 R41): COUNT is 0 while no partition has been created or resumed on the core. -/
def deadlineReg (g : Group) (p : Partition) : Nat :=
  if p.state != .active then 0 else if g.requests.isEmpty then p.reload else 2 ^ 63 + (g.deadline.getD p.reload) % 2 ^ 32

/-- The value of a control and status register for a warp or context; reserved bits read 0 (spec/08 R237). -/
def csrRead (s : State) (core group part : Nat) (w : Warp) (n : Nat) : Nat :=
  match n with
  | 0x00 => w.csr.satf.toNat
  | 0x01 => w.csr.rmode
  | 0x02 => b2n w.csr.scbchk
  | 0x03 => w.csr.rec0.toNat
  | 0x04 => w.csr.rec1.toNat
  | 0x05 => w.csr.rec2.toNat
  | 0x06 => w.csr.rec3.toNat
  | 0x07 => wsref s.ccnt
  | 0x08 => wakeReason (s.core core)
  | 0x09 => w.csr.sfbank
  | 0x0A => b2n (s.part part).detmode
  | 0x0B => w.csr.logTag * 2 ^ 8 + b2n (w.csr.logEn && logOn s part 0)
  | 0x0C => w.csr.stallcnt
  | 0x0D => deadlineReg (s.group group) (s.part part)
  | _ => 0

/-- A write to a control and status register, field by field under the access codes (spec/08 R238; spec/00 R9). `log` says whether the partition has a
user log buffer. -/
def csrWrite (c : Csrs) (log : Bool) (n : Nat) (v : Word64) : Csrs :=
  match n with
  | 0x00 => { c with satf := satfWrite c.satf v }
  | 0x01 => if 4 < v.toNat % 8 then c else { c with rmode := v.toNat % 8 }
  | 0x02 => { c with scbchk := v.getLsbD 0 }
  | 0x09 => { c with sfbank := v.toNat % 2 }
  | 0x0B => { c with logTag := bits v.toNat 8 8, logEn := v.getLsbD 0 && log }
  | 0x0C => { c with stallcnt := v.toNat % 2 ^ 48 }
  | _ => c

/-! ### Activation-table banks (spec/06 R183) -/

/-- Whether a warp waits in an SFTLOAD: one of its paths does, though another may still issue (DEDUCED, log entry 57; spec/06 R183). -/
def Warp.inSft (w : Warp) : Bool := (w.paths.any fun kv => kv.2.wait == .table) || (match w.vliw with | some x => x.wait == .table | none => false)

/-- The warps and contexts resident on a core. -/
def State.residents (s : State) (core : Nat) : Tbl Warp :=
  s.warps.filter fun kv => kv.1 < Config.groups * Config.warpSlots && kv.1 / Config.warpSlots / 2 == core

/-- Whether the first wait of an SFTLOAD ends now: it is the first of its bank, and no other resident warp is bound to the bank but one that itself waits
in an SFTLOAD. -/
def sftOpen (s : State) (core : Nat) (x : SftLoad) : Bool :=
  ((s.core core).sft.find? fun y => y.bank == x.bank) == some x &&
  !((s.residents core).any fun kv => some kv.1 != partyKey x.party && kv.2.csr.sfbank == x.bank && !kv.2.inSft)

/-- SFTLOADs whose first wait has ended go on to their second, whoever binds to their bank from now on: taken before any binding changes. -/
def State.openSft (s : State) (core : Nat) : State :=
  if (s.core core).sft.isEmpty then s
  else s.setCore core { s.core core with sft := (s.core core).sft.map fun x => if sftOpen s core x then { x with free := true } else x }

/-! ### Entries of the path storage -/

/-- A path entry (spec/01 R32). -/
def pathBits (p : Path) : Nat :=
  let rpc := match p.rpc with | some a => a / 8 % 2 ^ 54 | none => 2 ^ 54 - 1
  let state := if p.held then 3 else if p.wait = .none then 1 else 2
  rpc * 2 ^ 138 + p.pc / 8 % 2 ^ 54 * 2 ^ 84 + p.mask.toNat * 2 ^ 52 + state * 2 ^ 50

/-- A loop entry (spec/01 R33). -/
def loopBits (l : Loop) : Nat :=
  l.start / 8 % 2 ^ 54 * 2 ^ 138 + l.last / 8 % 2 ^ 54 * 2 ^ 84 + l.count % 2 ^ 32 * 2 ^ 52 + l.pro % 16 * 2 ^ 48 + l.epi % 16 * 2 ^ 44 +
  l.stages % 16 * 2 ^ 40 + l.iter % 2 ^ 32 * 2 ^ 8

/-- Entry `i` of a warp's path storage: a path, or a loop entry. The outermost loop is in entry 0, the next in entry 1 (DESIGN CHOICE, log entry 67; spec/01 R33
does not say which entry holds which level). -/
def entryBits (w : Warp) (i : Nat) : Nat :=
  match w.vliw with
  | some x => match x.loops.reverse[i]? with | some l => loopBits l | none => 0
  | none => match w.paths.get? i with | some p => pathBits p | none => 0

/-- DSTAT (spec/20 R442). -/
def dstat (w : Warp) : Nat :=
  let held : Nat := match w.vliw with
    | some x => b2n x.held
    | none => (w.paths.map fun kv => if kv.2.held then 2 ^ kv.1 else 0).sum
  let left : Nat := match w.vliw with | some x => if x.held then x.run % 2 ^ 16 else 0 | none => 0
  let ctx : Nat := match w.vliw with | some x => (x.ctx.getD 0) % 4 | none => 0
  2 ^ 63 + b2n w.vliw.isSome * 2 ^ 62 + ctx * 2 ^ 60 + b2n w.handler.isSome * 2 ^ 59 + b2n w.lp.isSome * 2 ^ 58 + w.vrot % 16 * 2 ^ 54 +
  w.mrot % 8 * 2 ^ 51 + left * 2 ^ 35 + b2n w.wrej * 2 ^ 34 + held % 2 ^ 32

/-! ### The debug window -/

/-- The core of a window address; the four dies have 2^36 bytes each, and a core 64 MiB of its die's. -/
def windowCore (pa : Nat) : Option Nat :=
  let o := pa - 2 ^ 47
  let k := o % 2 ^ 36 / 2 ^ 26
  if k < Config.coresPerDie then some (o / 2 ^ 36 * Config.coresPerDie + k) else none

/-- The warp slot of a window address, and the offset in it. -/
def windowSlot (pa core : Nat) : Option (Nat × Nat) :=
  let o := (pa - 2 ^ 47) % 2 ^ 26
  if o < 0x800000 then some (warpKey (2 * core + o / 0x400000) (o % 0x400000 / 0x20000), o % 0x20000) else none

/-- A byte of a number. -/
def byteAt (x i : Nat) : Byte := BitVec.ofNat 8 (x >>> (8 * i))

/-- A byte of a warp slot's 128 KiB (spec/20 R442). Rows and masks stand under their physical numbers. -/
def slotByte (s : State) (core key : Nat) (o : Nat) : Byte :=
  match s.warps.get? key with
  | none => 0
  | some w =>
    if o < 0x8000 then (if o / 512 < w.rows then BitVec.ofNat 8 (vbits (w.v.getD (o / 512) 0) (8 * (o % 512)) 8) else 0)
    else if o < 0x8200 then byteAt (w.sreg ((o - 0x8000) / 8)).toNat (o % 8)
    else if o < 0x8A00 then BitVec.ofNat 8 (vbits (w.m.getD ((o - 0x8200) / 128) 0) (8 * (o % 128)) 8)
    else if o < 0x8D00 then byteAt (entryBits w ((o - 0x8A00) / 24)) ((o - 0x8A00) % 24)
    else if o < 0x8D70 then
      byteAt (csrRead s core (key / Config.warpSlots) (s.corePartition core) w ((o - 0x8D00) / 8)) (o % 8)
    else if o < 0x8D80 then 0
    else if o < 0x8D88 then byteAt (dstat w) (o % 8)
    else if o < 0x8D90 then byteAt w.srseq.toNat (o % 8)
    else if o < 0x8D98 then byteAt (match w.vliw with | some x => x.pc | none => 0) (o % 8)
    else 0

/-- A byte of a core's scratchpad store. -/
def Core.sByte (c : Core) (a : Nat) : Byte := BitVec.ofNat 8 (vbits (c.scratch.getD (a / 16) 0) (8 * (a % 16)) 8)

/-- A byte of the debug window (spec/20 R441). -/
def windowByte (s : State) (pa : Nat) : Byte :=
  match windowCore pa with
  | none => 0
  | some c =>
    match windowSlot pa c with
    | some (k, o) => slotByte s c k o
    | none =>
      let x := s.core c
      let o := (pa - 2 ^ 47) % 2 ^ 26
      if o < 0x800000 + Config.scratchBytes then x.sByte (o - 0x800000)
      else if 0x860000 ≤ o ∧ o < 0x860000 + Config.scratchBytes / 128 then
        BitVec.ofNat 8 ((List.range 8).map fun i => if x.full.getD (8 * (o - 0x860000) + i) false then 2 ^ i else 0).sum
      else if 0x900000 ≤ o ∧ o < 0x980000 then macroByte x.engine (o - 0x900000)
      else if 0x980000 ≤ o ∧ o < 0x980080 then byteAt (tagCode (x.engine.tag ((o - 0x980000) / 2) 0)) (o % 2)
      else if 0xA00000 ≤ o ∧ o < 0xA20000 then
        BitVec.ofNat 8 (vbits (x.engine.tiles.getD ((o - 0xA00000) / 16384) 0) (8 * (o % 16384)) 8)
      else if 0xB00000 ≤ o ∧ o < 0xB00100 then
        match x.seq with | some q => byteAt (q.s.getD ((o - 0xB00000) / 8) 0).toNat (o % 8) | none => 0
      else if 0xB00100 ≤ o ∧ o < 0xB00108 then match x.seq with | some q => byteAt q.pc (o % 8) | none => 0
      else if 0xC00000 ≤ o ∧ o < 0xC00100 then BitVec.ofNat 8 (vbits (x.dbg.breaks.getD ((o - 0xC00000) / 32) 0) (8 * (o % 32)) 8)
      else if 0xC00100 ≤ o ∧ o < 0xC00180 then BitVec.ofNat 8 (vbits (x.dbg.watches.getD ((o - 0xC00100) / 32) 0) (8 * (o % 32)) 8)
      else if 0xC00200 ≤ o ∧ o < 0xC00208 then byteAt x.dbg.dctl.toNat (o % 8)
      else 0

/-- The bytes of a write over an old number of `n` bytes: those at offset `o`. -/
def overBytes (old n o : Nat) (l : List Byte) : Nat :=
  leNat ((List.range n).map fun i => match l[i - o]? with
    | some b => if o ≤ i then b else byteAt old i
    | none => byteAt old i)

end Sys2Proof.Machine
end

