-- ==== Sys2Proof/Machine/Access.lean ====
section
/-!
DEFINITION. Memory accesses as the instruction forms make them: addresses and lanes, scratchpad bytes and banks, results on their way, the accesses of a
core in issue order and what holds them back, acquires, and the keys of deterministic mode
(spec/04 R114, R115; spec/07 R186 to R193; spec/10 R276, R277; spec/11 R298 to R303, R320, R321).
-/
namespace Sys2Proof.Machine

open Sys2Proof

/-! ### Addresses and lanes (spec/07 R186, R187) -/

/-- Int of an offset operand for a lane: a word operand is signed 32-bit, the rest are 64-bit. -/
def Env.offsetOf (e : Env) (w : IWord) (o : Operand) (lane : Nat) : Int :=
  match o with
  | .vec _ _ => sInt 32 (e.elem w .n32 true o 0 lane 0)
  | o => sInt 64 (e.elem w .i64 true o 0 lane 0)

/-- An address base for a lane: a special operand supplies its lane-0 value (spec/01 R27; spec/07 R186). -/
def Env.baseOf (e : Env) (w : IWord) (t : Ty) (lane : Nat) : Nat :=
  match w.a with
  | .special j => e.special j.val 0 % 2 ^ t.width
  | o => e.elem w t true o 0 lane 0

/-- The scratchpad offset of [a + b] for a lane. -/
def Env.scratchAddr (e : Env) (w : IWord) (lane : Nat) : Nat := wrap 32 ((e.baseOf w .n32 lane : Int) + e.offsetOf w w.b lane)

/-- The global address of [a + b] for a lane. -/
def Env.globalAddr (e : Env) (w : IWord) (lane : Nat) : Nat := wrap 57 ((e.baseOf w .n64 lane : Int) + e.offsetOf w w.b lane)

/-- The scratchpad offset of [a + b] where both are uniform: a special operand in either supplies its lane-0 value (spec/01 R27; spec/07 R194). -/
def Env.uniformAddr (e : Env) (w : IWord) : Nat := ({ e with hi := 0 } : Env).scratchAddr w 0

/-- The lanes of a memory form: every participating lane when it is per-lane, one when it is uniform and its predicate passes. -/
def Env.memLanes (e : Env) (op : Nat) (w : IWord) : List Nat :=
  if namesVec op e.view w then e.lanesOn w else if e.scalarPred w then [0] else []

/-- Bytes of a SIZE code (spec/07 R188). -/
def sizeBytes : Nat → Nat
  | 0 => 1 | 1 => 1 | 2 => 2 | 3 => 2 | 4 => 4 | 5 => 8 | _ => 16

/-- Whether a SIZE code sign-extends on load. -/
def sizeSigned (c : Nat) : Bool := c == 1 || c == 3

/-- The type under which the data of a SIZE code stands in its register operand. -/
def sizeTy : Nat → Ty
  | 0 => .n8 | 1 => .n8 | 2 => .n16 | 3 => .n16 | 4 => .n32 | 5 => .n64 | _ => .b128

/-- Bits of the register operand that a SIZE code names in a row. -/
def sizeRow (c : Nat) : Nat := if c = 6 then 128 else if c = 5 then 64 else 32

/-- The bits a load leaves in a register of a width. -/
def loadBits (signed : Bool) (size width v : Nat) : Nat := if signed then wrap width (sInt (8 * size) v) else v % 2 ^ width

/-- The bit offset of a lane's destination in its row. -/
def Env.dstOff (e : Env) (w : IWord) (lane : Nat) : Nat :=
  match w.d with
  | .vec k _ => e.unitOff true k.val lane
  | _ => 0

/-- Where the result of a form goes, with the width of each lane's part. -/
def Env.destFor (e : Env) (w : IWord) (width : Nat) : Dest :=
  match w.d with
  | .vec _ n => .row (physRow e.w.vrot n.val) width
  | .sreg n => if n.val = 0 then .none else .sreg n.val
  | _ => .none

/-! ### The scratchpad of a core (spec/10 R276, R277, R279) -/

/-- The region of a party's block in its core's store: first byte and SCRATCH bytes (spec/07 R191). -/
def State.region (s : State) (p : Party) : Nat × Nat :=
  match s.partyBlock p, s.partyLaunch p with
  | some (_, b), some l => (b.base, recBits l.record 21 19)
  | _, _ => (0, 0)

/-- PAGEPERM for the first byte at or beyond the region among byte ranges of offsets. -/
def beyond (size : Nat) (l : List (Nat × Nat)) : Option Trap :=
  let bad := l.filterMap fun x => if size < x.1 + x.2 ∧ 0 < x.2 then some (max x.1 size) else none
  match bad with
  | [] => none
  | a :: r => some { cause := causePAGEPERM, info := 1, addr := r.foldl min a }

/-- A little-endian number in a core's store. -/
def Core.sNat (c : Core) (a n : Nat) : Nat := leNat ((List.range n).map fun i => c.sByte (a + i))

/-- Writes a byte of a core's store. -/
def Core.sPut (c : Core) (a : Nat) (v : Byte) : Core :=
  let g := BitVec.ofNat 128 (putBits (c.scratch.getD (a / 16) 0).toNat (8 * (a % 16)) 8 v.toNat)
  { c with scratch := if g = 0 then c.scratch.erase (a / 16) else c.scratch.set (a / 16) g }

/-- Writes bytes of a core's store. -/
def Core.sPuts (c : Core) : Nat → List Byte → Core
  | _, [] => c
  | a, v :: r => (c.sPut a v).sPuts (a + 1) r

/-- The granules a byte range touches. -/
def granules (a n : Nat) : List Nat := if n = 0 then [] else range (a / 16) ((a + n - 1) / 16 + 1)

/-- The granules that byte ranges touch. -/
def granulesOf (l : List (Nat × Nat)) : List Nat := (l.flatMap fun x => granules x.1 x.2).eraseDups

/-- Sets or clears full/empty bits. -/
def Core.setFull (c : Core) (v : Bool) (l : List Nat) : Core :=
  { c with full := l.foldl (fun t g => if v then t.set g true else t.erase g) c.full }

/-- Whether granules are full. -/
def Core.allFull (c : Core) (l : List Nat) : Bool := l.all fun g => c.full.getD g false

/-- The extra cycles of an instruction that touches granules: the most in one bank, less 1 (spec/10 R277). -/
def bankCost (l : List Nat) : Nat := ((List.range 48).map fun b => (l.filter fun g => g % 48 = b).length).foldl max 0 - 1

/-- Conflict cycles delay the issuer's next issue by k, on whichever path, and are counted (spec/04 R114; spec/01 R41). -/
def State.charge (s : State) (e : Env) (k : Nat) : State :=
  if k = 0 then s
  else
    let s := s.modGroup e.group fun g => { g with bankUntil := max g.bankUntil (e.acyc + 1 + k) }
    s.modWarp e.key fun w =>
      let w := { w with csr := { w.csr with stallcnt := min (w.csr.stallcnt + k) (2 ^ 48 - 1) } }
      match w.vliw with
      | some x => { w with vliw := some { x with hold := k + 1 } }
      | none =>
        let next := match e.party with | .path _ _ i => (w.paths.getD i State.path0).ready | _ => 0
        { w with paths := w.paths.mapVals fun _ p => { p with ready := max p.ready (next + k) } }

/-- The latency of a scratchpad result with its conflict cycles: they count in SIMT alone (spec/04 R114). -/
def Env.withBank (e : Env) (lat k : Nat) : Nat := if e.view.inSlot then lat else lat + k

/-! ### Parties -/

/-- Whether two parties are one agent: paths of one warp are. -/
def sameAgent (p q : Party) : Bool :=
  match partyKey p, partyKey q with
  | some a, some b => a == b
  | none, none => partyCore p == partyCore q
  | _, _ => false

/-- Whether an access belongs to an agent. -/
def Access.of (a : Access) (p : Party) : Bool := match a.party with | some q => sameAgent q p | none => false

/-- A party as the issuer of accesses for good: launch, bid and warp number, 64 for a sequencer; a service context by its lane group (spec/07 R190). -/
def State.agentOf (s : State) (p : Party) : Nat × Nat × Nat :=
  match p with
  | .seq c => match (s.core c).seq with
    | some q => match s.block? q.block with
      | some b => (b.launch, b.bid, 64)
      | none => (noLaunch, c, 66)
    | none => (noLaunch, c, 66)
  | .service g => (noLaunch, g, 65)
  | p => let w := s.warp ((partyKey p).getD 0); (w.launch, w.bid, w.wid)

/-- Counts an asynchronous operation in or out of a launch slot of a core (spec/09 R268). -/
def State.outstanding (s : State) (core launch : Nat) (up : Bool) : State :=
  s.modCore core fun c => { c with launches := c.launches.set launch (if up then c.launches.getD launch 0 + 1 else c.launches.getD launch 0 - 1) }

/-! ### Kinds of access -/

/-- Whether an access writes. A .take, which clears full/empty bits, is a load here and does not count as outstanding (DEDUCED, log entry 69; spec/09 R268 does
not list it). -/
def AccKind.writes : AccKind → Bool
  | .load _ => false | .ldb _ _ => false | .sqLd _ => false | .sqCget => false | .take _ => false | .peek _ => false
  | .sftload _ => false | .launchRead _ => false | .call => false
  | _ => true

/-- Whether an access is an atomic action (spec/11 R309). -/
def AccKind.atomic : AccKind → Bool
  | .atom _ _ => true | .cas _ => true | .addOn _ _ => true | .ula _ => true | .sqLd _ => true | .sqSt _ => true | .sqHist => true | .sqCinc => true | .sqCget => true
  | .sqAcc _ => true | .bind => true
  | _ => false

/-- Whether an access reads a value that later accesses of its issuer must follow (spec/07 R203), of itself or by a FENCE of its own bundle. -/
def Access.acquires (a : Access) : Bool :=
  a.fence.isSome || match a.kind with
  | .load _ => a.ord != 0
  | .ldb _ _ => a.ord != 0
  | .ula _ => true
  | .take _ => true
  | .peek _ => true
  | _ => false

/-- Whether a load binds in the core's memory pipeline, from L1 or from the line's home under the stores that are in the pipeline: a plain load, and
an acquire at .warp or .block (spec/11 R300, R301); none on which a watchpoint fired (spec/20 R449). -/
def Access.forwards (a : Access) : Bool :=
  !a.scratch && !a.watched && match a.kind with
    | .load _ => decide (a.ord < 3)
    | .ldb _ _ => decide (a.ord < 3)
    | .sftload _ => true
    | .launchRead _ => true
    | .call => true
    | _ => false

/-- Whether the result of an access returns to its issuer. -/
def Access.returnsValue (a : Access) : Bool :=
  match a.kind with
  | .load _ => true | .ldb _ _ => true | .take _ => true | .peek _ => true | .sqLd _ => true | .sqCget => true | .ula _ => true | .sqCinc => true
  | .sftload _ => true | .launchRead _ => true
  | _ => a.dest != .none

/-! ### Overlap -/

/-- Pieces of a byte range within 64 KiB units: address and length. -/
def pieces (va n : Nat) : List (Nat × Nat) :=
  if n = 0 then []
  else (range (va / 65536) ((va + n - 1) / 65536 + 1)).map fun u =>
    let lo := max va (u * 65536)
    (lo % 2 ^ 57, min (va + n) ((u + 1) * 65536) - lo)

/-- The bytes of ranges. -/
def rangeBytes (l : List (Nat × Nat)) : List Nat := l.flatMap fun x => (List.range x.2).map (x.1 + ·)

/-- Physical ranges of translated byte ranges. -/
def paRanges (pages : List TlbEntry) (l : List (Nat × Nat)) : List (Nat × Nat) :=
  l.flatMap fun x => (pieces x.1 x.2).map fun y => (paVia pages y.1, y.2)

/-- Whether two lists of byte ranges have a byte in common. -/
def rangesMeet (x y : List (Nat × Nat)) : Bool := x.any fun p => y.any fun q => decide (p.1 < q.1 + q.2) && decide (q.1 < p.1 + p.2)

/-- The physical ranges of an access. -/
def Access.pas (a : Access) : List (Nat × Nat) := paRanges a.pages (a.spans.getD [])

/-- Whether an access is a release, with its scope as an ORD code (spec/07 R203; spec/08 R243). A signal, an n32 addition to a peer's counter page, is one
at .sys (spec/18 R414). -/
def Access.releases (a : Access) : Option Nat :=
  match a.kind with
  | .atom op wide => if op = 0 ∧ wide = false ∧ a.pas.any (fun x => isPeer x.1 && counterPage x.1) then some 6 else none
  | .store => if a.ord = 0 then none else some a.ord
  | .stb _ _ => if a.ord = 0 then none else some a.ord
  | .ula _ => some 5
  | .launchCopy _ => some 5
  | _ => none

/-- Whether two accesses touch a common byte; one whose ranges are not known yet may touch any. -/
def Access.meets (x y : Access) : Bool :=
  if x.scratch != y.scratch then false
  else if x.scratch then x.core == y.core && rangesMeet (x.spans.getD []) (y.spans.getD [])
  else
    match x.spans, y.spans with
    | some a, some b =>
      if x.ready && y.ready then rangesMeet x.pas y.pas
      else x.partition == y.partition && rangesMeet (a.flatMap fun r => pieces r.1 r.2) (b.flatMap fun r => pieces r.1 r.2)
    | _, _ => true

/-- Whether a byte of some translated ranges lies in a bank in its refresh window. -/
def rangesRefresh (s : State) (pages : List TlbEntry) (l : List (Nat × Nat)) : Bool := (paRanges pages l).any fun x => rangeRefresh s x.1 x.2

/-- The 64-byte lines an access touches, by virtual address (spec/22 R474). -/
def spanLines (l : List (Nat × Nat)) : List Nat := (l.flatMap fun x => linesOf x.1 x.2).eraseDups

/-- The physical lines of an access. -/
def Access.lines (a : Access) : List Nat := (a.pas.flatMap fun x => linesOf x.1 x.2).eraseDups

/-! ### Deterministic mode (spec/11 R320, R321) -/

/-- The key a party's next atomic action would carry. -/
def State.keyOf (s : State) (p : Party) : List Nat :=
  match s.partyLaunch p with
  | none => []
  | some l =>
    let csize := recBits l.record 51 2 + 1
    match p with
    | .seq c => match (s.core c).seq with
      | some q =>
        let bid := match s.block? q.block with | some b => b.bid | none => 0
        [l.number, q.keys.grid, bid / csize, q.keys.cluster, bid, q.keys.block, 64, q.keys.atomics]
      | none => []
    | _ =>
      let w := s.warp ((partyKey p).getD 0)
      [l.number, w.keys.grid, w.bid / csize, w.keys.cluster, w.bid, w.keys.block, w.wid, w.keys.atomics]

/-- Keys compare field by field. -/
def keyLt : List Nat → List Nat → Bool
  | a :: r, b :: t => decide (a < b) || (a == b && keyLt r t)
  | [], _ :: _ => true
  | _, [] => false

/-- Whether a partition is in deterministic mode for a party. -/
def State.keyed (s : State) (p : Party) : Bool := (s.part (s.partyPart p)).detmode && (s.partyLaunch p).isSome

/-- Counts an atomic action of a party. -/
def State.countAtomic (s : State) (p : Party) : State :=
  match p with
  | .seq c => s.modCore c fun x => { x with seq := x.seq.map fun q => { q with keys := { q.keys with atomics := q.keys.atomics + 1 } } }
  | p => match partyKey p with
    | some k => s.modWarp k fun w => { w with keys := { w.keys with atomics := w.keys.atomics + 1 } }
    | none => s

/-- The keys that live parties of a partition could still give an action: while it halts for a save, only the contexts that still run up to a yield point, since
pre-emption ends the wait for the rest (spec/11 R321; spec/13 R354). -/
def liveKeys (s : State) (part : Nat) : List (List Nat) :=
  let halting := (s.part part).halting
  let ws := s.warps.filterMap fun kv =>
    match s.launch? kv.2.launch with
    | some l => if l.partition = part ∧ kv.1 < Config.groups * Config.warpSlots ∧
        (halting = false ∨ (s.group (kv.1 / Config.warpSlots)).running = some (kv.1 % Config.warpSlots)) then some (s.keyOf (.thread (kv.1 / Config.warpSlots) (kv.1 % Config.warpSlots))) else none
    | none => none
  let qs := s.cores.filterMap fun kv =>
    match kv.2.seq with
    | some _ => if s.partyPart (.seq kv.1) = part ∧ halting = false then some (s.keyOf (.seq kv.1)) else none
    | none => none
  ws ++ qs

/-- The lines an action touches: of a core's store, or of global memory by physical number once translated and by virtual number; none when not known yet. -/
structure KeyLines where
  store : Option Nat
  physical : Option (List Nat)
  lines : Option (List Nat)
deriving DecidableEq, Repr

/-- Whether two actions have a line in common. -/
def KeyLines.meet (x y : KeyLines) : Bool :=
  x.store == y.store &&
  match x.physical, y.physical with
  | some a, some b => a.any b.contains
  | _, _ => match x.lines, y.lines with
    | some a, some b => a.any b.contains
    | _, _ => true

/-- The lines of an access. -/
def Access.keyLines (a : Access) : KeyLines :=
  { store := if a.scratch then some a.core else none, physical := if a.ready && !a.scratch then some a.lines else none, lines := a.spans.map spanLines }

/-- The type a drain writes. -/
def drainOut (df : Nat) : Ty := (drainTy df).getD .n8

/-- The lines of an add-on-store that a core's engine holds. -/
def addLines (s : State) (core part : Nat) (op : EngOp) : Option KeyLines :=
  match op with
  | .mdrain g true df addr stride _ _ =>
    let l := (List.range 32).map fun i => ((addr + i * stride) % 2 ^ (if g then 57 else 32), 16 * (drainOut df).width)
    if g then
      some { store := none, lines := some (spanLines l), physical := match translate s core part .atomic l with
        | .ok pages => some ((paRanges pages l).flatMap fun x => linesOf x.1 x.2)
        | _ => none }
    else
      let base := match (s.core core).seq.bind fun q => s.block? q.block with | some b => b.base | none => 0
      some { store := some core, physical := none, lines := some (spanLines (l.map fun x => (base + x.1, x.2))) }
  | _ => none

/-- Keys of add-on-stores that a partition's engines have not performed, with their lines; while it halts, of those that have started. -/
def engineKeys (s : State) (part : Nat) : List (List Nat × KeyLines) :=
  s.cores.flatMap fun kv =>
    if s.partyPart (.seq kv.1) = part then
      let g := kv.2.engine
      ((if (s.part part).halting then [] else g.queue) ++ (match g.drain with | some r => if r.moved then [] else r.entries | none => [])).filterMap fun e => match e.key, addLines s kv.1 part e.op with
        | some k, some l => some (k, l)
        | _, _ => none
    else []

/-- Whether keyed action `k` on some lines may be applied: every lower-keyed action issued on them has been, but for one that has not translated while the
partition halts (spec/13 R354), and no live party can still issue a lower one. `own` is the access that makes it. -/
def keyFree (s : State) (part : Nat) (k : List Nat) (own : Option Nat) (x : KeyLines) : Bool :=
  !(s.accs.any fun y => own != some y.id && y.partition == part && (y.ready || !(s.part part).halting) && (match y.key with | some j => keyLt j k && y.keyLines.meet x | none => false)) &&
  (liveKeys s part).all (fun j => !keyLt j k) && (engineKeys s part).all fun y => !keyLt y.1 k || !y.2.meet x

/-! ### What holds an access back -/

/-- Whether two accesses have one issuer. -/
def Access.mine (y x : Access) : Bool := y.agent.isSome && y.agent == x.agent

/-- Whether an access has reached the core's memory pipeline. -/
def Access.entered (a : Access) : Bool := a.piped || a.sent.isSome

/-- Whether an access has yet to be performed at a scope, given as an ORD code: at .block it is as it enters the core's pipeline, at a peer's home only when
the peer has answered (spec/11 R300, R319). -/
def Access.short (a : Access) (scope : Nat) : Bool :=
  if scope < 2 then false else if scope = 2 then !a.entered else scope == 6 || a.sent.isNone

/-- Whether an access of another party may happen before a release of a core at a scope, given the serial number of the releaser's last acquire, and has yet
to be performed there: a store of the core's pipeline from .cluster up, and at .sys one of any core that a peer has not answered (spec/11 R303, R319). -/
def Access.precedes (y : Access) (core joined scope : Nat) : Bool :=
  decide (y.id < joined) && ((decide (3 ≤ scope) && y.core == core && y.piped && y.short scope) || (scope == 6 && y.sent.isSome))

/-- Whether an access issued earlier holds a later one of its core, as it enters the pipeline or binds there (`home` false) or as it is performed at its
home. Of its own issuer: an overlapping one, but for a store that the pipeline forwards; an acquire; before a write that follows a FENCE.rel, what was
issued before the fence; before a release, what has not been performed at its scope. Of other issuers: a store in the pipeline, when the two overlap at
home, and before a release of a wider scope when it may happen before it (spec/07 R190, R202; spec/11 R300 to R303, R308). -/
def Access.holds (home : Bool) (y x : Access) : Bool :=
  let pipe := !home || x.forwards
  if y.mine x then
    (y.meets x && !(y.piped && pipe)) || y.acquires || (x.kind.writes && decide (y.id < x.after) && !y.entered) ||
    (match x.releases with | some sc => y.short sc | none => false)
  else
    (y.core == x.core && y.piped && !pipe && y.sent.isNone && y.meets x) ||
    (match x.releases with | some sc => y.precedes x.core x.joined sc | none => false)

/-- Whether a store of another party of the core, in its pipeline, holds a read that binds at home: the reader may have read the store there already, and
reads nothing earlier in coherence order afterwards (spec/11 R302). -/
def Access.shown (y x : Access) : Bool :=
  !x.forwards && !x.scratch && x.returnsValue && y.core == x.core && y.piped && y.sent.isNone && !y.mine x && y.meets x

/-- Whether an access issued before this one, and not yet performed, holds it. -/
def heldBack (s : State) (a : Access) : Bool := s.accs.any fun y => (decide (y.id < a.id) && y.holds true a) || y.shown a

/-- The entry of a device-side launch queue (spec/09 R265). -/
def entryPa (q : DeviceQueue) (j : Nat) : Nat := q.addr + 128 * (j % 2 ^ q.dlog)

/-- Whether a byte of an access lies in a weight-store bank in its refresh window (spec/10 R285); LAUNCH's copy writes its entry. -/
def Access.refreshing (s : State) (a : Access) : Bool :=
  !a.scratch && ((a.pas.any fun x => rangeRefresh s x.1 x.2) || match a.kind, (s.part a.partition).device with
    | .launchCopy j, some q => rangeRefresh s (entryPa q j) 128
    | _, _ => false)

/-- Whether an access's action may be applied in deterministic mode. -/
def Access.keyReady (s : State) (a : Access) : Bool :=
  match a.key with
  | none => true
  | some k => keyFree s a.partition k (some a.id) a.keyLines

/-- Whether an access can be performed now. -/
def Access.performable (s : State) (a : Access) : Bool := a.ready && !heldBack s a && !a.refreshing s && a.keyReady s

/-- Whether a store into the debug window (spec/20 R443). -/
def Access.window (s : State) (a : Access) : Bool := a.kind == .store && !a.scratch && a.ready && a.pas.any fun x => homeOf s x.1 == .debug

/-- Whether a store may enter its core's memory pipeline. -/
def Access.pipeable (s : State) (a : Access) : Bool :=
  (match a.kind with | .store => true | .stb _ _ => true | _ => false) && !a.scratch && a.ready && !a.piped && a.sent.isNone && !a.window s &&
  !(s.accs.any fun y => decide (y.id < a.id) && y.holds false a)

/-! ### Acquires (spec/11 R301, R303, R305) -/

/-- Changes the serial numbers of a party's last acquires: at .cluster or wider, which its block keeps too, and at .block or wider. -/
def State.setAcquired (s : State) (p : Party) (wide block : Nat) : State :=
  let s := match s.partyBlock p with
    | some (n, _) => s.modBlock n fun b => { b with acquired := max b.acquired wide }
    | none => s
  match p with
  | .seq c => s.modCore c fun x => { x with seq := x.seq.map fun q => { q with acquired := max q.acquired wide, joined := block } }
  | p => match partyKey p with
    | some k => s.modWarp k fun w => { w with acquired := max w.acquired wide, joined := block }
    | none => s

/-- The last acquire at .cluster or wider among the parties of a party's block, ended ones too: what it acquires at .block may come after any of them. -/
def State.blockAcquired (s : State) (p : Party) : Nat := match s.partyBlock p with | some (_, b) => b.acquired | none => 0

/-- An acquire of a party at a scope given as an ORD code: from .cluster up, later loads take no older L1 line; at .block, none older than an acquire of
its block's parties; from .die up, the core's tiles go. -/
def State.acquire (s : State) (p : Party) (scope : Nat) : State :=
  if scope < 2 then s
  else
    let s := s.setAcquired p (if scope = 2 then s.blockAcquired p else s.serial) s.serial
    if scope < 4 then s else s.modCore (partyCore p) fun x => { x with tiles := [] }

/-- The serial number of a party's last acquire at .cluster or wider. -/
def State.acquiredOf (s : State) (p : Party) : Nat :=
  match p with
  | .seq c => match (s.core c).seq with | some q => q.acquired | none => 0
  | p => match partyKey p with | some k => (s.warp k).acquired | none => 0

/-- The serial number of a party's last acquire at .block or wider. -/
def State.joinedOf (s : State) (p : Party) : Nat :=
  match p with
  | .seq c => match (s.core c).seq with | some q => q.joined | none => 0
  | p => match partyKey p with | some k => (s.warp k).joined | none => 0

/-- The serial number of a party's last FENCE.rel or FENCE.ar. -/
def State.fencedOf (s : State) (p : Party) : Nat := match partyKey p with | some k => (s.warp k).fenced | none => 0

/-! ### Releases (spec/11 R300, R303, R319; spec/07 R202) -/

/-- Whether stores of other parties that may happen before a release of a party have yet to be performed at its scope. -/
def cumulativeWaits (s : State) (p : Party) (scope : Nat) : Bool := s.accs.any fun a => a.precedes (partyCore p) (s.joinedOf p) scope

/-- Whether a release of a party at a scope, given as an ORD code, must still wait: for its own accesses, and for those of its core that may happen
before it. -/
def releaseWaits (s : State) (p : Party) (scope : Nat) : Bool := (s.accs.any fun a => a.of p && a.short scope) || cumulativeWaits s p scope

/-- Whether a FENCE.rel or FENCE.ar must still wait: for its issuer's stores, atomics, FESETs and FECLRs (spec/07 R202). -/
def fenceWaits (s : State) (p : Party) (scope : Nat) : Bool :=
  (s.accs.any fun a => a.of p && a.kind.writes && a.short scope) || cumulativeWaits s p scope

/-! ### Results -/

/-- Writes `bits` of a warp's row. -/
def State.putRow (s : State) (key row : Nat) (value mask : Nat) : State :=
  s.modWarp key fun w => { w with v := w.v.set row (mixBits (w.v.getD row 0) (BitVec.ofNat 4096 value) (BitVec.ofNat 4096 mask)) }

/-- A result returns: each lane's value to its place (spec/04 R115). -/
def State.deliver (s : State) (a : Access) (vals : List (LaneAcc × Nat)) : State :=
  match a.party with
  | none => s
  | some p =>
    match partyKey p with
    | none => s
    | some k =>
      match a.dest with
      | .none => s
      | .sreg n => match vals with
        | (_, v) :: _ => s.modWarp k fun w => { w with s := setS w.s n (BitVec.ofNat 64 v) }
        | [] => s
      | .row n width =>
        let g := gatherBits (vals.map fun x => (x.1.off, width, x.2))
        s.putRow k n g.1 g.2
      | .rows l =>
        (List.range l.length).foldl (fun s q =>
          let g := gatherBits ((vals.filter fun x => x.1.data = q).map fun x => (x.1.off, 128, x.2))
          s.putRow k ((l[q]?).getD 0) g.1 g.2) s

/-- The bits each lane of an access leaves in its destination. -/
def Access.destBits (a : Access) : Nat :=
  match a.dest with
  | .row _ w => w
  | .rows _ => 128
  | _ => 64

/-- An access leaves the list of those not performed, and its launch-slot count and log room with it (spec/09 R268; spec/22 R474). -/
def State.finish (s : State) (a : Access) : State :=
  let s := { s with accs := s.accs.filter fun y => y.id != a.id }
  let s := if a.counted then s.outstanding a.core a.launch false else s
  let s := if a.reserved = 0 then s else s.releaseLog a.partition 2 a.reserved
  if a.reserved1 then s.releaseLog a.partition 1 1 else s

/-- An agent has ended: results of its accesses go nowhere (spec/09 R268). -/
def State.orphan (s : State) (p : Party) : State :=
  { s with accs := s.accs.map fun a => if a.of p then { a with party := none, dest := .none, pend := [] } else a }

/-- The party whose accesses wait: whether one of an agent's accesses satisfies a test. -/
def State.anyAcc (s : State) (p : Party) (f : Access → Bool) : Bool := s.accs.any fun a => a.of p && f a

end Sys2Proof.Machine
end

