-- ==== Sys2Proof/Machine/Buffer.lean ====
section
/-!
DEFINITION. Buffer records and what LDB and STB move through them: well-formedness, element addresses, the views, padding and transformed tiles
(spec/07 R197; spec/10 R288 to R295).
-/
namespace Sys2Proof.Machine

open Sys2Proof

/-- A buffer record (spec/10 R288). -/
structure BufRec where
  reserved : Nat
  pad : Nat
  sclog : Nat
  screc : Nat
  cache : Nat
  view : Nat
  ilv : Nat
  enc : Nat
  rfmt : Option Ty
  fmt : Option Ty
  str3 : Nat
  str2 : Nat
  str1 : Nat
  ext : List Nat
  base : Nat
deriving DecidableEq, Repr

/-- The fields of the 320 bits of a record. -/
def bufRec (r : BitVec 320) : BufRec :=
  { reserved := vbits r 318 2, pad := vbits r 286 32, sclog := vbits r 283 3, screc := vbits r 275 8, cache := vbits r 273 2, view := vbits r 271 2,
    ilv := vbits r 269 2, enc := vbits r 267 2, rfmt := Ty.ofCode (vbits r 262 5), fmt := Ty.ofCode (vbits r 257 5), str3 := vbits r 221 36,
    str2 := vbits r 185 36, str1 := vbits r 149 36, ext := [vbits r 57 32, vbits r 89 20, vbits r 109 20, vbits r 129 20], base := vbits r 0 57 }

/-- Whether a type is f32, bf16 or f16. -/
def viewTy (t : Ty) : Bool := t == .f32 || t == .bf16 || t == .f16

/-- The combinations of R289 for one record. -/
def BufRec.fits (b : BufRec) : Bool :=
  b.reserved == 0 && b.cache != 3 && b.ilv != 3 &&
  match b.fmt, b.rfmt with
  | some f, some r =>
    match b.view with
    | 0 =>
      (b.enc == 0 && f != .ld4 && f != .cb2 && r == (if f == .f6e3p then .f6e3 else f)) ||
      (b.enc == 1 && (f == .i4 || f == .n4) && r == f && b.ilv == 0) ||
      (b.enc == 3 && f == .bf16 && r == .bf16 && b.ilv == 0)
    | 1 =>
      [Ty.i8, .n8, .i4, .n4, .f8e4, .f8e5, .f6e3, .f6e3p, .f4e2].contains f && viewTy r &&
      (b.enc == 0 || (b.enc == 1 && (f == .i4 || f == .n4) && b.ilv == 0))
    | 2 => b.enc == 0 && f != .ld4 && f != .cb2 && f != .f6e3p && r == f && [8, 16, 32, 64].contains f.width
    | _ => f == .cb2 && b.enc == 2 && viewTy r && b.sclog == 0
  | _, _ => false

/-- A scale record: well formed, plain and unencoded, of e8m0 or bf16. -/
def BufRec.isScale (b : BufRec) : Bool := b.fits && b.view == 0 && b.enc == 0 && (b.fmt == some .e8m0 || b.fmt == some .bf16)

/-- The element width of the register format. -/
def BufRec.ew (b : BufRec) : Nat := match b.rfmt with | some t => t.width | none => 8

/-- Whether an element is inside the extents (spec/10 R291). -/
def insideExt : List Int → List Nat → Bool
  | c :: cs, x :: xs => decide (0 ≤ c) && decide (c < (x : Int)) && insideExt cs xs
  | _, _ => true

/-- Coordinate `i`. -/
def coord (l : List Int) (i : Nat) : Nat := ((l[i]?).getD 0).toNat

/-- The bytes of an element inside the extents, the bit offset in them and its width: the element is those bits of the little-endian number
(spec/10 R291, R295). For a codebook the bytes are those of the index. -/
def BufRec.elemBytes (b : BufRec) (c : List Int) : List Nat × Nat × Nat :=
  let c0 := coord c 0
  let c1 := coord c 1
  let hi := coord c 2 * b.str2 + coord c 3 * b.str3
  let f := b.fmt.getD .n8
  let swz (u : Nat) : Nat := if b.ilv = 1 then u ^^^ (16 * (c1 % 8)) else if b.ilv = 2 then u ^^^ (16 * (c1 % 4)) else u
  let at' (row u n : Nat) : List Nat := (List.range n).map fun i => (b.base + row + hi + swz (u + i)) % 2 ^ 57
  match b.enc with
  | 1 => (at' (c1 / 4 * b.str1) (16 * (c0 / 8) + 4 * (c1 % 4) + c0 % 8 / 2) 1, 4 * (c0 % 2), 4)
  | 2 => (at' (c1 * b.str1) (2 * (c0 / 8)) 2, 0, 16)
  | 3 => (at' (c1 / 2 * b.str1) (4 * c0 + 2 * (c1 % 2)) 2, 0, 16)
  | _ =>
    if f == .f6e3p then
      let p := 6 * c0
      (at' (c1 * b.str1) (p / 8) (if p % 8 ≤ 2 then 1 else 2), p % 8, 6)
    else if f.width = 4 then (at' (c1 * b.str1) (c0 / 2) 1, 4 * (c0 % 2), 4)
    else (at' (c1 * b.str1) (c0 * f.width / 8) (f.width / 8), 0, f.width)

/-- The coordinates in memory of an element of the view: a transpose exchanges dimensions 0 and 1. -/
def BufRec.memCoord (b : BufRec) (c : List Int) : List Int :=
  if b.view = 2 then
    match c with
    | c0 :: c1 :: r => c1 :: c0 :: r
    | l => l
  else c

/-- The scale element of an element. -/
def BufRec.scaleCoord (b : BufRec) (c : List Int) : List Int :=
  match c with
  | c0 :: r => c0 / (2 ^ (b.sclog + 4) : Nat) :: r
  | [] => []

/-- Padding of a register format: a literal under R81, in its container (spec/10 R288; spec/02 R49). -/
def padBits (t : Ty) (l : Nat) : Nat :=
  if t == .f64 then widenLit l else if t == .i64 then wrap 64 (sInt 32 l) else cellBits t (l % 2 ^ t.width)

/-- What an element is delivered from: its index among the elements of the access, its memory bytes and its scale's. None for one outside. -/
structure ElemSrc where
  c : List Int
  inside : Bool
  bytes : List Nat × Nat × Nat
  /-- Bytes of the scale element; none with no scale record, or outside it. -/
  scale : Option (List Nat)
deriving DecidableEq, Repr

/-- Whether a record uses its scale record: its index differs and its view scales. -/
def BufRec.scaled (b : BufRec) (j : Nat) : Bool := b.screc != j && (b.view == 1 || b.view == 3)

/-- The sources of element `c` of record `j`. -/
def elemSrc (b sc : BufRec) (j : Nat) (c : List Int) : ElemSrc :=
  let m := b.memCoord c
  let inside := insideExt m b.ext
  { c := c
    inside := inside
    bytes := b.elemBytes m
    scale := if inside && b.scaled j && insideExt (b.scaleCoord c) sc.ext then some (sc.elemBytes (b.scaleCoord c)).1 else none }

/-- Groups consecutive bytes of a list into ranges. -/
def runsOf : List Nat → List (Nat × Nat)
  | [] => []
  | a :: r =>
    match runsOf r with
    | (b, n) :: t => if b = a + 1 then (a, n + 1) :: t else (a, 1) :: (b, n) :: t
    | [] => [(a, 1)]

/-- The byte ranges of an element and its scale. -/
def ElemSrc.ranges (x : ElemSrc) : List (Nat × Nat) :=
  if x.inside then runsOf x.bytes.1 ++ (match x.scale with | some l => runsOf l | none => []) else []

/-- The elements a lane moves, from its coordinates (spec/07 R197). -/
def laneCoords (b : BufRec) (word : Bool) (c : List Int) : List (List Int) :=
  let n := if word then max 1 (32 / b.ew) else 128 / b.ew
  (List.range n).map fun (i : Nat) => match c with | c0 :: r => (c0 + (i : Int)) :: r | [] => []

/-- The scale value of a scale pattern; an e8m0 pattern of 0xFF poisons. -/
def scaleVal (sc : BufRec) (x : Nat) : FVal × Bool :=
  if sc.fmt == some .e8m0 then (if x = 255 then (.nan, true) else (e8m0Val x, false)) else (fDecode .bf16 x, false)

/-- A product of an element value and its scale, rounded once to the register format (spec/10 R292). -/
def scaledTo (r : Ty) (nan : Nat × Nat) (v s : FVal) (poison : Bool) : Nat × Nat :=
  let f := Fmt.ofTy r
  if poison then (f.canonNaN, flagPoison)
  else
    match v, v.mul s with
    | .nan, _ => nan
    | _, .nan => (f.canonNaN, 0)
    | _, .inf neg => infPat f neg
    | _, .fin neg m e => roundDy f .rne 0 neg (Dy.ofFin neg m e)

/-- What the view delivers of an element inside the extents, from its memory bits and its scale bits (spec/10 R292, R293). -/
def viewElem (b sc : BufRec) (j : Nat) (table : BitVec 8192) (c : List Int) (x : Nat) (scale : Option Nat) : Nat × Nat :=
  let r := b.rfmt.getD .n8
  let f := b.fmt.getD .n8
  let s : FVal × Bool :=
    if !b.scaled j then (.fin false 1 0, false)
    else match scale with
      | some p => scaleVal sc p
      | none => if sc.fmt == some .e8m0 then (.fin false 1 0, false) else (.fin false 0 0, false)
  match b.view with
  | 1 =>
    if f.isFloat || f == .f6e3p then
      let ff := Fmt.ofTy (if f == .f6e3p then .f6e3 else f)
      let y := x % 2 ^ ff.width
      scaledTo r (convNaN ff (Fmt.ofTy r) y) (fDecode ff y) s.1 s.2
    else
      let v := iInt f.isSigned f.width x
      scaledTo r (0, 0) (.fin (decide (v < 0)) v.natAbs 0) s.1 s.2
  | 3 =>
    let w := cb2Elem table x (coord c 0 % 8)
    scaledTo r (0, 0) (.fin w.1 w.2 (-3)) s.1 s.2
  | _ => (cellBits r (x % 2 ^ f.width), 0)

/-! ### Reading (spec/10 R294) -/

/-- A tile that serves an element: its line and every tag match. -/
def tileFor (c : Core) (line : Nat) (rc scale : BitVec 320) (block gen : Nat) : Option Tile :=
  c.tiles.find? fun t => t.line == line && t.record == rc && t.scaleRecord == scale && t.block == block && t.generation == gen

/-- The physical addresses of bytes given by virtual address. -/
def pasVia (pages : List TlbEntry) (l : List Nat) : List Nat := l.map (paVia pages)

/-- How a load reads: the issuing core, whether it binds at home, the issuer's last acquire, the translated pages, the records, the codebook table and its
tags, the stores in the core's pipeline, and the bytes that the lane has bound already. -/
structure View3 where
  core : Nat
  fresh : Bool
  acquired : Nat
  pages : List TlbEntry
  record : BitVec 320
  scale : BitVec 320
  index : Nat
  table : BitVec 8192
  block : Nat
  gen : Nat
  puts : List BytePut
  bound : List (Nat × Byte)
deriving DecidableEq, Repr

/-- The cache attribute in force for a byte read under a record: the larger of the record's and the page's (spec/10 R280). -/
def View3.cache (v : View3) (rc : BitVec 320) (va : Nat) : Nat := max (bufRec rc).cache (cacheVia v.pages va)

/-- Whether a byte may come from L1. -/
def View3.keeps (v : View3) (rc : BitVec 320) (va : Nat) : Bool := !v.fresh && v.cache rc va != 1

/-- The byte that a lane has bound at an address. -/
def View3.bound? (v : View3) (va : Nat) : Option Byte := (v.bound.find? fun x => x.1 == va).map (·.2)

/-- Reads bytes, given by virtual address, under the attribute of a record: filling L1 where it may serve, and past it where it may not. -/
def State.loadBytes (s : State) (v : View3) (rc : BitVec 320) (l : List Nat) : State × Nat :=
  let s := l.foldl (fun s va =>
    if (v.bound? va).isSome then s
    else if v.keeps rc va then s.fillFor v.core v.acquired (v.cache rc va) (paVia v.pages va / 64)
    else s.dropLines v.core [paVia v.pages va]) s
  let byte (va : Nat) : Byte :=
    let pa := paVia v.pages va
    match v.bound? va with
    | some b => b
    | none => readByte s v.core (v.keeps rc va && l1Usable (s.core v.core) (pa / 64) v.acquired) v.puts pa
  (s, l.foldr (fun va acc => (byte va).toNat + 256 * acc) 0)

/-- A line as the core's L1 or its home holds it, under the stores in the core's pipeline. -/
def lineNow (s : State) (v : View3) (line : Nat) : BitVec 512 :=
  let l1 := l1Usable (s.core v.core) line v.acquired
  BitVec.ofNat 512 ((List.range 64).foldr (fun i acc => (readByte s v.core l1 v.puts (64 * line + i)).toNat + 256 * acc) 0)

/-- The little-endian number of some bytes, given by physical address, as a tile holds their lines. -/
def Tile.number (t : Tile) (pas : List Nat) : Nat := pas.foldr (fun pa acc => vbits (t.lines.getD (pa / 64) 0) (8 * (pa % 64)) 8 + 256 * acc) 0

/-- Elements of a line of memory: an index of a codebook stands for 8 weights, and f6e3p packs 4 elements in 3 bytes (spec/02 R52; spec/06 R163). -/
def BufRec.lineCount (b : BufRec) : Nat :=
  match b.enc with
  | 2 => 256
  | 1 => 128
  | 3 => 32
  | _ => if b.fmt == some .f6e3p then ceilDiv 512 6 else 512 / max 1 (b.fmt.getD .n8).width

/-- L1 lines that the elements of a line fill once delivered. -/
def BufRec.room (b : BufRec) : Nat := max 1 (ceilDiv (b.lineCount * b.ew) 512)

/-- The tile of some lines under the tags of a view, built or completed: a load that binds at home builds it anew. -/
def State.buildTile (s : State) (v : View3) (line : Nat) (sr : BitVec 320) (blk gen : Nat) (main scale : List Nat) : State × Tile :=
  let c := s.core v.core
  let old := if v.fresh then none else tileFor c line v.record sr blk gen
  let t : Tile := old.getD { line := line, record := v.record, scaleRecord := sr, block := blk, generation := gen, lines := [], room := (bufRec v.record).room }
  let want (l : List Nat) : List Nat := l.filter fun va => (t.lines.get? (paVia v.pages va / 64)).isNone
  match want main ++ want scale with
  | [] => (s, t)
  | l =>
    let s := (s.loadBytes v v.record (want main)).1
    let s := (s.loadBytes v v.scale (want scale)).1
    let t := { t with lines := (l.map fun va => paVia v.pages va / 64).eraseDups.foldl (fun m n => m.set n (lineNow s v n)) t.lines }
    let same (u : Tile) : Bool := u.line == line && u.record == v.record && u.scaleRecord == sr && u.block == blk && u.generation == gen
    (s.modCore v.core fun c =>
      let c := ({ c with tiles := c.tiles.filter fun u => !same u } : Core).makeRoom t.room (t.room + 1)
      { c with tiles := t :: c.tiles }, t)

/-- Delivers one element: from padding, from a tile, or from memory (spec/10 R290 to R294). -/
def State.loadElem (s : State) (v : View3) (x : ElemSrc) : State × (Nat × Nat) :=
  let b := bufRec v.record
  let sc := bufRec v.scale
  if !x.inside then (s, (padBits (b.rfmt.getD .n8) b.pad, 0))
  else
    let (bs, off, w) := x.bytes
    let gen := if b.view = 3 then v.gen else 0
    let blk := if b.view = 3 then v.block else 0
    let sr := if b.scaled v.index then v.scale else 0
    let ss := x.scale.getD []
    let tiled := b.view != 0 && v.cache v.record (bs.headD 0) != 1 && (ss.isEmpty || v.cache v.scale (ss.headD 0) != 1) &&
      !(bs ++ ss).any fun va => (v.bound? va).isSome
    let value (n : Nat) (m : Option Nat) : Nat × Nat := viewElem b sc v.index v.table (b.memCoord x.c) (bits n off w) m
    if tiled then
      let (s, t) := s.buildTile v (paVia v.pages (bs.headD 0) / 64) sr blk gen bs ss
      (s, value (t.number (pasVia v.pages bs)) (x.scale.map fun l => t.number (pasVia v.pages l)))
    else
      let (s, n) := s.loadBytes v v.record bs
      match x.scale with
      | some l => let (s, m) := s.loadBytes v v.scale l; (s, value n (some m))
      | none => (s, value n none)

/-- Delivers the elements of a lane into its slot or word: the value, and the OR of the flags. -/
def State.loadLane (s : State) (v : View3) (word : Bool) (c : List Int) : State × Nat × Nat :=
  let b := bufRec v.record
  let cs := laneCoords b word c
  (List.range cs.length).foldl (fun acc i =>
    let (s, r) := acc.1.loadElem v (elemSrc b (bufRec v.scale) v.index ((cs[i]?).getD []))
    (s, acc.2.1 + (if word then r.1 % 2 ^ min 32 b.ew else r.1) <<< (b.ew * i), acc.2.2 ||| r.2)) (s, 0, 0)

/-! ### Writing -/

/-- Stores one element inside the extents over its bytes, but for those in `done`, which have been written. -/
def State.storeElem (s : State) (core : Nat) (pages : List TlbEntry) (x : ElemSrc) (value : Nat) (done : List Nat) : State :=
  if !x.inside then s
  else
    let (bs, off, w) := x.bytes
    let old := (pasVia pages bs).foldr (fun pa acc => (memGet s.mem pa).toNat + 256 * acc) 0
    let l := (bs.zip (natLe bs.length (putBits old off w value))).filter fun y => !done.contains y.1
    s.storeBytes (some core) (pasVia pages (l.map (·.1))) (l.map (·.2))

/-- The elements of a lane with their values; bits 7:6 of an f6e3 container are ignored (spec/02 R49). -/
def laneElems (b : BufRec) (j : Nat) (word : Bool) (c : List Int) (data : Nat) : List (ElemSrc × Nat) :=
  let cs := laneCoords b word c
  (List.range cs.length).map fun i =>
    (elemSrc b b j ((cs[i]?).getD []), cellBits (b.rfmt.getD .n8) (bits data (b.ew * i) (if word then min 32 b.ew else b.ew)))

/-- Stores the elements of a lane. -/
def State.storeLane (s : State) (core : Nat) (pages : List TlbEntry) (b : BufRec) (j : Nat) (word : Bool) (c : List Int) (data : Nat) (done : List Nat) : State :=
  (laneElems b j word c data).foldl (fun s x => s.storeElem core pages x.1 x.2 done) s

/-! ### The bytes of an access (spec/11 R299) -/

/-- The bytes of a lane, by virtual address. -/
def LaneAcc.bytes (l : LaneAcc) : List Nat := (List.range l.size).map fun i => (l.addr + i) % 2 ^ 57

/-- Coordinates of a lane, from their four 32-bit patterns. -/
def coordsOf (x : Nat) : List Int := (List.range 4).map fun i => sInt 32 (bits x (32 * i) 32)

/-- The bytes that a lane of an access reads or writes, with those of the scales it reads. -/
def Access.laneBytes (a : Access) (l : LaneAcc) : List Nat :=
  let r := a.recs.getD (0, 0)
  let elems (j : Nat) (word : Bool) : List Nat :=
    ((laneCoords (bufRec r.1) word (coordsOf l.data2)).flatMap fun c =>
      let x := elemSrc (bufRec r.1) (bufRec r.2) j c
      if x.inside then x.bytes.1 ++ x.scale.getD [] else []).eraseDups
  match a.kind with
  | .ldb j word => elems j word
  | .stb j word => elems j word
  | _ => l.bytes

/-- Whether a lane's bytes are one aligned run of 1, 2, 4, 8 or 16: it is then performed whole (spec/11 R299). -/
def wholeRun (bs : List Nat) : Bool :=
  match bs with
  | [] => true
  | a :: _ => [1, 2, 4, 8, 16].contains bs.length && a % bs.length == 0 && bs == (List.range bs.length).map (a + ·)

/-- The bytes that are performed with a byte of a lane. -/
def Access.pieceOf (a : Access) (l : LaneAcc) (va : Nat) : List Nat :=
  let bs := a.laneBytes l
  if !bs.contains va then [] else if wholeRun bs then bs else [va]

/-- Bits of a byte over others. -/
def mixPut (p : Nat × Nat) (mask value : Nat) : Nat × Nat := (p.1 ||| mask, (p.2 &&& (255 ^^^ mask)) ||| (value &&& mask))

/-- What a store leaves in the byte at `va`: the bits it writes as a mask, and their value; of lanes that write one bit, the last wins (spec/07 R187). -/
def Access.putAt (a : Access) (va : Nat) : Nat × Nat :=
  let b := bufRec (a.recs.getD (0, 0)).1
  a.lanes.foldl (fun p l =>
    match a.kind with
    | .stb j word =>
      (laneElems b j word (coordsOf l.data2) l.data).foldl (fun p x =>
        if !x.1.inside then p
        else
          let (bs, off, w) := x.1.bytes
          (List.range bs.length).foldl (fun p i =>
            if (bs[i]?).getD 0 = va then mixPut p (bits ((2 ^ w - 1) <<< off) (8 * i) 8) (bits (x.2 % 2 ^ w <<< off) (8 * i) 8) else p) p) p
    | _ =>
      (List.range l.size).foldl (fun p i => if (l.addr + i) % 2 ^ 57 = va then (255, bits l.data (8 * i) 8) else p) p) (0, 0)

/-- The bytes that a store has still to write. -/
def Access.vas (a : Access) : List Nat := (a.lanes.flatMap a.laneBytes).eraseDups.filter fun va => !a.done.any fun x => x.2.1 == va

/-- The stores in the memory pipeline of a core, as writes of bytes, oldest first (spec/11 R300). -/
def pipeline (s : State) (core : Nat) : List BytePut :=
  s.accs.flatMap fun a =>
    if a.piped && a.core == core && a.sent.isNone then a.vas.map fun va => let p := a.putAt va; { pa := paVia a.pages va, mask := p.1, value := p.2 } else []

/-- Writes some bytes of a store at their home, and marks them as written. -/
def State.putVas (s : State) (a : Access) (vas : List Nat) : State :=
  let s := vas.foldl (fun s va =>
    let pa := paVia a.pages va
    let p := a.putAt va
    if isPeer pa then s else s.storeByte (some a.core) pa (mixByte (memGet s.mem pa) p.1 p.2)) s
  { s with accs := s.accs.map fun y => if y.id = a.id then { y with done := y.done ++ vas.map fun va => ((0, va, 0) : Nat × Nat × Nat) } else y }

end Sys2Proof.Machine
end

