-- ==== Sys2Proof/Machine/Pantry.lean ====
section
/-!
DEFINITION. The Pantry atomic unit: partition shares, list headers, sequence records, count tables, and the actions of ULA, SQREC, SQACC and SQBIND
(spec/07 R201; spec/08 R244, R245; spec/14 R355 to R363).
-/
namespace Sys2Proof.Machine

open Sys2Proof

/-- PAGEPERM for a device write to bytes of the unit, before any byte is written. -/
def unitTrap (s : State) (pages : List TlbEntry) (l : List (Nat × Nat)) : Option Trap :=
  (l.flatMap fun x => pieces x.1 x.2).findSome? fun y =>
    let pa := paVia pages y.1
    if inPantry s pa || inPantry s (pa + y.2 - 1) then
      (List.range y.2).findSome? fun i => if unitOnly s (pa + i) then some (permBit 3 (y.1 + i)) else none
    else none

/-! ### Record words -/

/-- The address of a slot of a share. -/
def slotPa (base slot : Nat) : Nat := base + 256 * slot

/-- A 64-bit word of a slot. -/
def recWord (s : State) (base slot k : Nat) : Nat := memNat s (slotPa base slot + 8 * k) 8

/-- The unit writes a word: at its home, and in the issuing core's L1 (spec/11 R301). -/
def State.putWord (s : State) (core base slot k v : Nat) : State :=
  s.storeBytes (some core) ((List.range 8).map (slotPa base slot + 8 * k + ·)) (natLe 8 v)

/-- Changes bits of a word. -/
def State.putField (s : State) (core base slot k lo w v : Nat) : State := s.putWord core base slot k (putBits (recWord s base slot k) lo w v)

/-! ### ULA (spec/07 R201) -/

/-- The code ULA returns when it moves nothing. -/
def ulaNone : Nat := 0xFFFFFFFF

/-- Takes a record off the list its state names. -/
def State.unlink (s : State) (core base slot : Nat) : State :=
  let w := recWord s base slot 0
  let h := 1 + bits w 32 3
  let next := bits w 0 16
  let prev := bits w 16 16
  let s := if prev != 0 then s.putField core base prev 0 0 16 next else s.putField core base 0 h 0 16 next
  let s := if next != 0 then s.putField core base next 0 16 16 prev else s.putField core base 0 h 16 16 prev
  s.putField core base 0 h 32 32 ((bits (recWord s base 0 h) 32 32 + 2 ^ 32 - 1) % 2 ^ 32)

/-- Appends a record at the tail of a list and sets its state. -/
def State.append (s : State) (core base slot list : Nat) : State :=
  let h := 1 + list
  let tail := bits (recWord s base 0 h) 16 16
  let s := if tail != 0 then s.putField core base tail 0 0 16 slot else s.putField core base 0 h 0 16 slot
  let s := s.putField core base 0 h 16 16 slot
  let s := s.putField core base 0 h 32 32 ((bits (recWord s base 0 h) 32 32 + 1) % 2 ^ 32)
  s.putWord core base slot 0 (putBits (recWord s base slot 0) 0 35 (tail * 2 ^ 16 + list * 2 ^ 32))

/-- ULA's action: the state after it and the old list. -/
def State.ula (s : State) (core base slot list : Nat) : State × Nat :=
  let old := bits (recWord s base slot 0) 32 3
  if 5 < list ∨ 5 < old then (s, ulaNone) else ((s.unlink core base slot).append core base slot list, old)

/-! ### History, counts, windows, drafters -/

/-- SQREC.hist (spec/14 R359). -/
def State.hist (s : State) (core base slot token : Nat) : State :=
  let h := bits (recWord s base slot 8) 53 6
  let s := s.putField core base slot (10 + h / 3) (21 * (h % 3)) 21 (min token 0x1FFFFF)
  s.putField core base slot 8 53 6 ((h + 1) % 64)

/-- Where the count table of a record is: nothing for CNTP 0, a trap outside the share (spec/14 R360). -/
def countTable (s : State) (part die base slot : Nat) : Option (Option Nat) :=
  let p := bits (recWord s base slot 2) 10 47 * 2 ^ 10
  if p = 0 then some none
  else
    let x := shareOf s part die
    if x.1 ≤ p ∧ p + 1024 ≤ x.1 + x.2 then some (some p) else none

/-- The entry a token's search ends at: its index and whether it holds the token; none when the table is full. -/
def countFind (s : State) (p token : Nat) : Nat → Nat → Option (Nat × Bool)
  | 0, _ => none
  | n + 1, j =>
    let e := memNat s (p + 8 * (j % 128)) 8
    if !bit e 21 then some (j % 128, false)
    else if bits e 0 21 = token then some (j % 128, true)
    else countFind s p token n (j + 1)

/-- The first probe of a token. -/
def countHash (token : Nat) : Nat := token * 0x9E3779B1 % 2 ^ 32 / 2 ^ 25

/-- SQREC.cget on a table. -/
def countGet (s : State) (p token : Nat) : Nat :=
  if 0x1FFFFF ≤ token then 0
  else match countFind s p token 128 (countHash token) with
    | some (j, true) => bits (memNat s (p + 8 * j) 8) 32 32
    | _ => 0

/-- SQREC.cinc on a table. -/
def State.countInc (s : State) (core p token : Nat) : State × Nat :=
  if 0x1FFFFF ≤ token then (s, 0)
  else match countFind s p token 128 (countHash token) with
    | none => (s, 0)
    | some (j, held) =>
      let n := if held then min (bits (memNat s (p + 8 * j) 8) 32 32 + 1) 0xFFFFFFFF else 1
      (s.storeBytes (some core) ((List.range 8).map (p + 8 * j + ·)) (natLe 8 (n * 2 ^ 32 + 2 ^ 21 + token)), n)

/-- Whether SQREC.wchk passes at a position (spec/14 R363). -/
def wchkOk (s : State) (base slot p : Nat) : Bool :=
  let w4 := recWord s base slot 4
  let commit := bits w4 0 32
  let whead := bits w4 32 32
  let cap := bits (recWord s base slot 5) 32 32
  decide (whead ≤ commit) && decide (cap ≠ 0) && decide (commit ≤ p) && decide (p < whead + cap) && decide (p < 2 ^ 32 - 1)

/-- SHEAD after a check that passed. -/
def State.wchk (s : State) (core base slot p : Nat) : State :=
  s.putField core base slot 5 0 32 (max (bits (recWord s base slot 5) 0 32) (p + 1))

/-- Halves a pair of counts until the proposed count is below 65,535 (spec/08 R245). -/
def halve : Nat → Nat → Nat → Nat × Nat
  | 0, a, p => (a, p)
  | n + 1, a, p => if 65535 ≤ p then halve n (a / 2) (p / 2) else (a, p)

/-- SQACC's action on stage `k`: the new pair. -/
def State.sqacc (s : State) (core base slot k v : Nat) : State × Nat :=
  let word := if k = 2 then 8 else 7
  let lo := if k = 1 then 32 else 0
  let old := bits (recWord s base slot word) lo 32
  let prop := bits v 16 16
  let x := halve 20 (old % 2 ^ 16 + min (v % 2 ^ 16) prop) (old / 2 ^ 16 + prop)
  let y := x.1 % 2 ^ 16 + x.2 * 2 ^ 16
  (s.putField core base slot word lo 32 y, y)

/-- A logit-program handle (spec/14 R358). -/
def bindWord (addr len : Nat) (v : Bool) : Nat := addr / 8 % 2 ^ 54 + len % 2 ^ 9 * 2 ^ 54 + b2n v * 2 ^ 63

/-- The binding SQBIND writes into word 1 (spec/14 R358). -/
def State.bindProgram (s : State) (core base slot addr len : Nat) (v : Bool) : State := s.putWord core base slot 1 (bindWord addr len v)

/-- The result of a unit action: the state and the value returned, or a trap. -/
inductive UnitRes where
  | ok (s : State) (v : Nat)
  | trap (t : Trap)
deriving DecidableEq, Repr

/-- Performs an access of the unit on the record at a physical address (spec/10 R287). -/
def unitAction (s : State) (k : AccKind) (core part : Nat) (va pa data : Nat) : UnitRes :=
  match recordAt s part pa with
  | none => .trap (permBit 2 va)
  | some (die, base, slot) =>
    match k with
    | .ula list => let r := s.ula core base slot list; .ok r.1 r.2
    | .sqLd off => .ok s (recWord s base slot (off / 8))
    | .sqSt off => .ok (s.putWord core base slot (off / 8) data) 0
    | .bind => .ok (s.putWord core base slot 1 data) 0
    | .sqHist => .ok (s.hist core base slot (data % 2 ^ 32)) 0
    | .sqCinc => match countTable s part die base slot with
      | none => .trap (permBit 2 (bits (recWord s base slot 2) 10 47 * 2 ^ 10))
      | some none => .ok s 0
      | some (some p) => let r := s.countInc core p (data % 2 ^ 32); .ok r.1 r.2
    | .sqCget => match countTable s part die base slot with
      | none => .trap (permBit 2 (bits (recWord s base slot 2) 10 47 * 2 ^ 10))
      | some none => .ok s 0
      | some (some p) => .ok s (countGet s p (data % 2 ^ 32))
    | .sqAcc k => let r := s.sqacc core base slot k data; .ok r.1 r.2
    | _ => .ok s 0

end Sys2Proof.Machine
end

