-- ==== Sys2Proof/Machine/Perform.lean ====
section
/-!
DEFINITION. Global accesses from issue to return: what stops one before it issues, how it enters the list of its core or the replay buffer, and what
happens when it is performed (spec/07 R196 to R203; spec/10 R280 to R290; spec/11 R299 to R311; spec/19 R424, R427, R428; spec/20 R449; spec/22 R474, R476).
-/
namespace Sys2Proof.Machine

open Sys2Proof

/-! ### What an access is to its home -/

/-- The kind of an access, for the homes it reaches. -/
def Access.gkind (a : Access) : GKind :=
  match a.kind with
  | .load _ => .ld
  | .store => .st
  | .ldb _ _ => .ldb
  | .stb _ _ => .stb
  | .atom op wide => .atom op wide
  | .cas _ => .cas
  | .sftload _ => .read
  | .launchRead _ => .read
  | .launchCopy _ => .copyWrite
  | .call => .record false
  | .bind => .record true
  | .take _ => .read
  | .peek _ => .read
  | _ => .pantry

/-- The outcome of looking at what an access touches: it may go on, it must wait for translation, or it traps. -/
inductive Resolved where
  | ok (s : State) (a : Access)
  | fault (kind level va : Nat)
  | trap (t : Trap)
deriving DecidableEq, Repr

/-- A SQREC.st to word 0, or a record address that names no record of the partition (spec/08 R244; spec/14 R355, R357). -/
def pantryTrap (s : State) (a : Access) : Option Trap :=
  match a.spans with
  | some ((va, _) :: _) =>
    if (recordAt s a.partition (paVia a.pages va)).isNone then some (permBit 2 va)
    else match a.kind with
      | .sqSt off => if off / 8 = 0 then some (permBit 3 va) else none
      | _ => none
  | _ => none

/-- Translates the ranges of an access and asks its homes (spec/19 R424; spec/10 R282 to R284; spec/14 R357; spec/18 R397, R414). -/
def resolveRanges (s : State) (a : Access) : Resolved :=
  let l := a.spans.getD []
  match translate s a.core a.partition a.gkind.acc l with
  | .trap t => .trap t
  | .fault k lv va => .fault k lv va
  | .ok pages =>
    let a := { a with pages := pages, ready := true }
    match l.findSome? fun x => rangeTrap (s.routesAt a.id) a.gkind pages x.1 x.2 with
    | some t => .trap t
    | none =>
      let t : Option Trap := match a.gkind with
        | .pantry | .record _ => pantryTrap s a
        | .st | .stb | .atom _ _ | .cas => unitTrap s pages l
        | _ => none
      match t with
      | some t => .trap t
      | none => .ok s a

/-! ### Buffer records (spec/10 R288 to R290) -/

/-- The address of record `j` of the launch of an access. -/
def recAddr (s : State) (a : Access) (j : Nat) : Nat :=
  ((match s.launch? a.launch with | some l => recBits l.record 256 57 | none => 0) + 40 * j) % 2 ^ 57

/-- The block whose codebook table a party's accesses use. -/
def tableOf (s : State) (p : Option Party) : BitVec 8192 × Nat × Nat :=
  match p.bind s.partyBlock with
  | some (n, b) => (b.table, n, b.generation)
  | none => (0, 0, 0)

/-- How the loads of an access read: one that binds at its home does not see the core's pipeline (spec/11 R301, R302), nor one on which a watchpoint fired,
which is performed at .sys (spec/20 R449). -/
def Access.view (s : State) (a : Access) (pages : List TlbEntry) : View3 :=
  let t := tableOf s a.party
  let r := a.recs.getD (0, 0)
  { core := a.core, fresh := decide (3 ≤ a.ord) || a.watched, acquired := (match a.party with | some p => s.acquiredOf p | none => 0), pages := pages, record := r.1,
    scale := r.2, index := (match a.kind with | .ldb j _ => j | .stb j _ => j | _ => 0), table := t.1, block := t.2.1, gen := t.2.2,
    puts := if a.forwards then pipeline s a.core else [], bound := [] }

/-- The first of some bytes, by virtual address, whose physical address has a property. -/
def firstVa (pages : List TlbEntry) (vas : List Nat) (f : Nat → Bool) : Nat := (vas.find? fun va => f (paVia pages va)).getD (vas.headD 0)

/-- The UE trap of a read of some bytes: its address is that of the first byte that meets the error (spec/22 R462, R463). -/
def readUeTrap (s : State) (pages : List TlbEntry) (vas : List Nat) (c : Nat) : Trap := ueTrap c (firstVa pages vas fun pa => (ueAt s pa).isSome)

/-- The UE trap of a write of some bytes. -/
def writeUeTrap (s : State) (pages : List TlbEntry) (vas : List Nat) (c : Nat) : Trap :=
  ueTrap c (firstVa pages vas fun pa => (writeUeAt s (pasVia pages vas) pa).isSome)

/-- Reads record `j` as a plain load of the issuer. -/
def readRecord (s : State) (a : Access) (j : Nat) : Resolved × BitVec 320 :=
  let va := recAddr s a j
  match translate s a.core a.partition .read [(va, 40)] with
  | .trap t => (.trap t, 0)
  | .fault k lv v => (.fault k lv v, 0)
  | .ok pages =>
    match rangeTrap s .read pages va 40 with
    | some t => (.trap t, 0)
    | none =>
      let bs := (List.range 40).map fun i => (va + i) % 2 ^ 57
      match readUe s (pasVia pages bs) with
      | some c => (.trap (readUeTrap s pages bs c), 0)
      | none =>
        let r := (s.learn a.core pages).loadBytes ({ a with recs := none, ord := 0, kind := .load false }.view s pages) 0 bs
        (.ok r.1 a, BitVec.ofNat 320 r.2)

/-- PAGEPERM for a record that is not well formed. -/
def badRecord (s : State) (a : Access) (j : Nat) : Trap :=
  { cause := causePAGEPERM, info := 2 ^ 4 + j % 256 * 2 ^ 8, addr := recAddr s a j }

/-- The byte ranges of the elements of an access, by lane. -/
def elemRanges (b sc : BufRec) (j : Nat) (word : Bool) (lanes : List LaneAcc) : List (Nat × Nat) :=
  (lanes.flatMap fun l =>
    let xs := (laneCoords b word (coordsOf l.data2)).map (elemSrc b sc j)
    runsOf ((xs.flatMap fun x => if x.inside then x.bytes.1 else []).eraseDups) ++
    runsOf ((xs.flatMap fun x => match x.scale with | some l => l | none => []).eraseDups)).eraseDups

/-- What an access touches: LDB and STB read their records first. -/
def resolve (s : State) (a : Access) : Resolved :=
  let go (j : Nat) (word store : Bool) : Resolved :=
    match a.recs with
    | some _ => resolveRanges s a
    | none =>
      match readRecord s a j with
      | (.ok s r, x) =>
        let b := bufRec x
        if !b.fits then .trap (badRecord s r j)
        else
          let rest (s : State) (y : BitVec 320) : Resolved :=
            if store && b.view != 0 then .trap (permBit 1 (recAddr s r j))
            else resolveRanges s { r with recs := some (x, y), spans := some (elemRanges b (bufRec y) j word r.lanes) }
          if b.screc = j then rest s x
          else
            match readRecord s a b.screc with
            | (.ok s _, y) => if (bufRec y).isScale then rest s y else .trap (badRecord s r b.screc)
            | (o, _) => o
      | (o, _) => o
  match a.kind with
  | .ldb j word => go j word false
  | .stb j word => go j word true
  | _ => if a.scratch then .ok s a else resolveRanges s a

/-! ### Entering -/

/-- Whether every page of some ranges is in the TLBs of a core (spec/19 R425, R427). -/
def tlbHits (s : State) (core part : Nat) (acc : Acc) (l : List (Nat × Nat)) : Bool :=
  (l.flatMap fun x => unitsOf x.1 x.2).all fun va =>
    (s.core core).tlb.any (fun e => e.serves part va acc) || (s.die (dieOf core)).tlb.any fun e => e.serves part va acc

/-- Whether an access of a core must wait to enter its replay buffer: the buffer is full, and the access misses in the TLBs (spec/19 R427). -/
def missesFull (s : State) (core part : Nat) (acc : Acc) (l : List (Nat × Nat)) : Bool :=
  decide (Config.replayEntries ≤ (s.core core).replay.length) && !tlbHits s core part acc l

/-- The index of the record an access reads first. -/
def AccKind.recordIndex : AccKind → Option Nat
  | .ldb j _ => some j
  | .stb j _ => some j
  | _ => none

/-- The ranges that an access reads for its buffer records. -/
def recordRanges (s : State) (a : Access) : List (Nat × Nat) :=
  match a.kind.recordIndex, a.recs with
  | some j, some r => ([j] ++ if (bufRec r.1).screc = j then [] else [(bufRec r.1).screc]).map fun k => (recAddr s a k, 40)
  | _, _ => []

/-- An item enters the replay buffer of a core, or waits to enter it while it is full; entering posts the fault (spec/19 R427, R428). `quiet` and `room` say
whether its retries are recorded, and whether the entry itself holds room for the next record (spec/22 R475). -/
def State.enterReplay (s : State) (core part : Nat) (item : ReplayItem) (quiet room : Bool) (fault : Option (Nat × Nat × Nat × Nat)) : State :=
  let entry : ReplayEntry := { item := item, partition := part, rev := s.counter (s.part part).rev, quiet := quiet, room := room }
  if Config.replayEntries ≤ (s.core core).replay.length then s.modCore core fun c => { c with replayWait := c.replayWait ++ [entry] }
  else
    let s := s.modCore core fun c => { c with replay := c.replay ++ [entry] }
    match fault with
    | some (va, acc, kind, level) => s.postFault part core va acc kind level
    | none => s

/-- Whether an access that resolves enters the replay buffer: it misses while the buffer is full. -/
def Access.misses (s : State) (a b : Access) : Bool :=
  !a.scratch && (missesFull s a.core a.partition a.gkind.acc (b.spans.getD []) || missesFull s a.core a.partition .read (recordRanges s b))

/-- The physical lines that an access reads for its buffer records. -/
def bufferLines (s : State) (a : Access) : List Nat :=
  ((recordRanges s a).flatMap fun x => match translate s a.core a.partition .read [x] with
    | .ok pages => (paRanges pages [x]).flatMap fun y => linesOf y.1 y.2
    | _ => []).eraseDups

/-- The reads of an access's buffer records are performed: recorded at their slices, and corrected (spec/22 R462, R476). -/
def State.readRecords (s : State) (a : Access) : State :=
  (bufferLines s a).foldl (fun s n => let s := s.correct n; if a.reserved = 0 && logOn s a.partition 2 then s else s.order n a.code (some a.partition) false 0) s

/-- The lines that an access writes beside its ranges: those of a LAUNCH's entry. -/
def entryLines (s : State) (a : Access) : List Nat :=
  match a.kind, (s.part a.partition).device with
  | .launchRead j, some q => linesOf (entryPa q j) 128
  | .launchCopy j, some q => linesOf (entryPa q j) 128
  | _, _ => []

/-- The ordering records for which an access needs room at its issue: one for each line that it touches, those of its buffer records among them. One whose
record cannot be read yet takes one for each lane (DESIGN CHOICE, log entry 68; spec/22 R474). -/
def roomLines (s : State) (a : Access) : Nat :=
  let n : Nat := match resolve s a with
    | .ok _ b => (spanLines (b.spans.getD [] ++ recordRanges s b)).length
    | .fault _ _ _ => match a.kind.recordIndex with
      | some j => (spanLines [(recAddr s a j, 40)]).length + a.lanes.length
      | none => (spanLines (a.spans.getD [])).length
    | .trap _ => 0
  n + (entryLines s a).length

/-- Whether an access enters the replay buffer as it issues, so that its retry will be recorded (spec/22 R475). -/
def replaysNow (s : State) (a : Access) : Bool :=
  match resolve s a with
  | .ok _ b => a.misses s b
  | .fault _ _ _ => true
  | .trap _ => false

/-- An access is issued: it takes its place in the order of its core, counts in its launch slot, and reserves room for its records. -/
def State.enter (s : State) (a : Access) : State :=
  let a := { a with id := s.serial }
  let s := { s with serial := s.serial + 1 }
  let s := if a.counted then s.outstanding a.core a.launch true else s
  let log (s : State) (a : Access) (replay : Bool) : State × Access :=
    let g := match a.party with | some p => partyGroup p | none => 2 * a.core
    let n := if logOn s a.partition 2 && !a.scratch && a.reserved != 0 then a.reserved else 0
    let s := if n = 0 then s else s.reserveLog a.partition g 2 n
    let r1 := replay && !a.quiet && logOn s a.partition 1
    (if r1 then s.reserveLog a.partition g 1 1 else s, { a with reserved := n, reserved1 := r1 })
  match resolve s a with
  | .ok s' b =>
    if a.misses s b then
      let (s, a) := log s a true
      { s with accs := s.accs ++ [a] }.enterReplay a.core a.partition (.access a.id) a.quiet false none
    else
      let (s', b) := log (if b.scratch then s' else s'.learn b.core b.pages) b false
      { s' with accs := s'.accs ++ [b] }.readRecords b
  | .fault k lv va =>
    let (s, a) := log s a true
    { s with accs := s.accs ++ [a] }.enterReplay a.core a.partition (.access a.id) a.quiet false (some (va, a.gkind.faultAcc, k, lv))
  | .trap _ => s

/-- The plain load that reads record `j` of the launch of an access (spec/07 R197; spec/10 R288). -/
def recordRead (s : State) (a : Access) (j : Nat) : Access := { a with id := s.serial, kind := .load false, ord := 0, recs := none, spans := some [(recAddr s a j, 40)] }

/-- Whether a record's read must wait: for an earlier access of its issuer, or for a refresh window (spec/10 R285). -/
def recordWaits (s : State) (a : Access) (j : Nat) : Bool :=
  let va := recAddr s a j
  heldBack s (recordRead s a j) ||
  match translate s a.core a.partition .read [(va, 40)] with
  | .ok pages => rangesRefresh s pages [(va, 40)]
  | _ => false

/-- Whether the read of an access's record, or of its scale record, must wait. -/
def recordHeld (s : State) (a : Access) : Bool :=
  match a.kind.recordIndex with
  | none => false
  | some j =>
    recordWaits s a j ||
    match readRecord s a j with
    | (.ok _ _, x) => (bufRec x).screc != j && recordWaits s a (bufRec x).screc
    | _ => false

/-- Room for the ordering records of an access (spec/22 R474). -/
def orderRoom (e : Env) (s : State) (a : Access) (n : Nat) : Bool := e.quiet || !logOn s a.partition 2 || logFits s a.partition 2 n

/-- Room for the records of an access: of its lines, and of its retry if it enters the replay buffer (spec/22 R474, R475). -/
def roomGate (e : Env) (s : State) (a : Access) : Gate :=
  if !orderRoom e s a (roomLines s a) then .trap (logFull 2 (roomLines s a))
  else e.decisionGate s (b2n (replaysNow s a))

/-- What the record of an access's retry takes of a bundle's room. -/
def accessRoom (e : Env) (s : State) (a : Access) : LogRoom := ⟨0, if a.lanes.isEmpty || a.scratch then 0 else e.decisionRoom s (b2n (replaysNow s a))⟩

/-- What stands before a global access: what it waits for, its traps, and room for its records (spec/07 R196; spec/22 R474). -/
def globalGate (e : Env) (s : State) (a : Access) : Gate :=
  if a.lanes.isEmpty then .ok
  else if recordHeld s a then .wait .pending
  else
    match resolve s a with
    | .trap t => .trap t
    | _ => roomGate e s a

/-! ### Watchpoints (spec/20 R448, R449) -/

/-- The bit of a watchpoint register that enables a kind of access: AT, WR or RD. -/
def AccKind.watchBit (k : AccKind) : Nat := if k.atomic then 60 else if k.writes then 61 else 62

/-- The ranges that an access touches, each with the bit of its kind: those of its buffer records are loads. -/
def Access.watchRanges (s : State) (a : Access) : List (Nat × Nat × Nat) :=
  ((a.spans.getD []).map fun r => (a.kind.watchBit, r.1, r.2)) ++ (recordRanges s a).map fun r => (62, r.1, r.2)

/-- The watchpoint of a core that fires on some ranges, the lowest-numbered: its number and the lowest matching address. -/
def watchOn (s : State) (core : Nat) (l : List (Nat × Nat × Nat)) : Option (Nat × Nat) :=
  if !(s.core core).dbg.dctl.getLsbD 63 then none
  else
    (List.range 4).findSome? fun n =>
      let x := (s.core core).dbg.watches.getD n 0
      let lo := vbits x 64 57
      let hi := vbits x 128 57
      if !x.getLsbD 63 then none
      else
        match l.filterMap fun r => if x.getLsbD r.1 && decide (max r.2.1 lo < min hi (r.2.1 + r.2.2)) then some (max r.2.1 lo) else none with
        | [] => none
        | y :: r => some (n, r.foldl min y)

/-- Whether a watchpoint of the core of an access could fire on it: one is enabled for its kind, or for the loads of its buffer records. -/
def watchesKind (s : State) (a : Access) : Bool :=
  (s.core a.core).dbg.dctl.getLsbD 63 && (List.range 4).any fun n =>
    let x := (s.core a.core).dbg.watches.getD n 0
    x.getLsbD 63 && (x.getLsbD a.kind.watchBit || x.getLsbD 62)

/-- A watchpoint fires at the issue of an access: the access will be performed at .sys, and the issuer waits for the predicate. While the ranges of an access
that could fire one are not known, its record not having been read, the issuer waits for them (DESIGN CHOICE, log entry 68). -/
def State.watch (s : State) (p : Party) (a : Access) : State :=
  if a.spans.isNone then (if watchesKind s a then s.setWait p .watch else s)
  else
    match watchOn s a.core (a.watchRanges s) with
    | none => s
    | some (n, addr) =>
      let s : State := { s with accs := s.accs.map fun y => if y.id = a.id then { y with watched := true } else y }
      (s.modGroup (partyGroup p) fun g => { g with hits := g.hits ++ [{ party := p, pc := a.pc, n := n, addr := addr, access := a.id, value := none }] }).setWait
        p .watch

/-- The ranges of an access have become known after its issue. -/
def State.watchLate (s : State) (a : Access) : State :=
  match a.party with
  | some p => if s.waitOf p = .watch then (s.setWait p .none).watch p a else s
  | none => s

/-- Issues an access of an instruction: it enters, its agent's atomic count rises, its destination registers are pending, and watchpoints are tried. -/
def State.issueAccess (s : State) (e : Env) (a : Access) : State :=
  if a.lanes.isEmpty then s
  else
    let key := if a.kind.atomic && s.keyed e.party then some (s.keyOf e.party) else none
    let n := if e.quiet then 0 else roomLines s a
    let id := s.serial
    let s := s.enter { a with key := key, reserved := n, code := partyCode s e.party }
    let s := if key.isSome then s.countAtomic e.party else s
    match s.accs.getLast? with
    | some y => if y.scratch || y.id != id then s else s.watch e.party y
    | none => s

/-- An access as an instruction builds it; State.enter numbers it. -/
def Env.access (e : Env) (s : State) (kind : AccKind) (ord : Nat) (lanes : List LaneAcc) (dest : Dest) (pend : List RegId) : Access :=
  { id := 0, core := e.core, party := some e.party, launch := e.w.launch, partition := s.partyPart e.party, pc := e.pc, kind := kind, ord := ord,
    scratch := false, lanes := lanes, spans := some ((lanes.map fun l => (l.addr, l.size)).eraseDups), dest := dest, pend := pend, ready := false, pages := [],
    recs := none, key := none, counted := kind.writes && (s.partyLaunch e.party).isSome, sent := none, reserved := 0, reserved1 := false, quiet := e.quiet,
    watched := false, code := 0, agent := some (s.agentOf e.party), joined := s.joinedOf e.party, after := s.fencedOf e.party, fence := none, piped := false, done := [] }

/-! ### Performing -/

/-- The outcome of performing an access. -/
inductive Performed where
  | ok (s : State)
  | trap (t : Trap)
deriving DecidableEq, Repr

/-- Records lines of an access in the ordering log, at their slices, and corrects what a read or an atomic action meets: all but kind 1, a store (spec/22 R462,
R476). -/
def State.recordLines (s : State) (a : Access) (kind : Nat) (write : Bool) (l : List Nat) : State :=
  (l.filter fun n => homeOf s (64 * n) != .debug && !isPeer (64 * n)).foldl (fun s n =>
    let s := if kind = 1 then s else s.correct n
    if a.reserved = 0 && logOn s a.partition 2 then s else s.order n a.code (some a.partition) write kind) s

/-- Records an access's lines. -/
def State.record (s : State) (a : Access) (kind : Nat) (write : Bool) : State := s.recordLines a kind write a.lines

/-- Reads the bytes of a lane: those in the debug window show state, the rest are memory (spec/20 R443). -/
def State.loadLaneBytes (s : State) (v : View3) (l : LaneAcc) : State × Nat :=
  let shown := l.bytes.filter fun b => homeOf s (paVia v.pages b) == .debug
  s.loadBytes { v with bound := v.bound ++ shown.map fun b => (b, windowByte s (paVia v.pages b)) } 0 l.bytes

/-- The bytes that the lane at place `n` of an access has bound already. -/
def Access.boundAt (a : Access) (n : Nat) : List (Nat × Byte) := a.done.filterMap fun x => if x.1 = n then some (x.2.1, BitVec.ofNat 8 x.2.2) else none

/-- Performs the lanes of a load, from place `n` of its list. -/
def loadLanes (a : Access) (v : View3) (signed : Bool) : Nat → List LaneAcc → State → State × List (LaneAcc × Nat)
  | _, [], s => (s, [])
  | n, l :: r, s =>
    let (s, x) := s.loadLaneBytes { v with bound := a.boundAt n } l
    let (s, t) := loadLanes a v signed (n + 1) r s
    (s, (l, loadBits signed l.size a.destBits x) :: t)

/-- Performs the lanes of an LDB, from place `n` of its list: values and flags. -/
def ldbLanes (a : Access) (v : View3) (word : Bool) : Nat → List LaneAcc → State → State × List (LaneAcc × Nat) × Nat
  | _, [], s => (s, [], 0)
  | n, l :: r, s =>
    let (s, x, f) := s.loadLane { v with bound := a.boundAt n } word (coordsOf l.data2)
    let (s, t, g) := ldbLanes a v word (n + 1) r s
    (s, (l, x) :: t, f ||| g)

/-- The scope at which a read acquires, as an ORD code: its own, or a wider one of a FENCE of its bundle (spec/07 R203; spec/11 R308). -/
def Access.acquireScope (a : Access) : Nat := max (match a.kind with | .ula _ => 5 | .take _ => 2 | .peek _ => 2 | _ => a.ord) (a.fence.getD 0)

/-- The new value of an ATOM, with flags (spec/07 R199). -/
def atomNew (op : Nat) (wide : Bool) (old c : Nat) : Nat × Nat :=
  let n := if wide then 64 else 32
  let f : Fmt := if wide then .f64 else .f32
  match op with
  | 0 => ((old + c) % 2 ^ n, 0)
  | 1 => (if sInt n c < sInt n old then c else old, 0)
  | 2 => (if sInt n old < sInt n c then c else old, 0)
  | 3 => (min old c, 0)
  | 4 => (max old c, 0)
  | 5 => (old &&& c, 0)
  | 6 => (old ||| c, 0)
  | 7 => (old ^^^ c, 0)
  | 8 => (c, 0)
  | 9 => fAdd f .rne 0 old c
  | 10 => (fMinMax f false old c, 0)
  | _ => (fMinMax f true old c, 0)

/-- The value a drain writes: of tile element `v`, over `old` for an add-on-store. -/
def drainVal (df : Nat) (kind v : Nat) (old : Option Nat) : Nat × Nat :=
  let d := drainOut df
  if d.isFloat then
    let sf : Fmt := if kind = 2 then .f64 else .f32
    let f := Fmt.ofTy d
    match old with
    | none => fConv sf f .rne 0 v
    | some o =>
      if isNaN f o then (quiet f o, 0)
      else if isNaN sf v then convNaN sf f v
      else roundSum f .rne 0 f.canonNaN (sumTerms .rne [fDecode f o, fDecode sf v])
  else
    match old with
    | none => satFlag (satTo d.isSigned d.width (sInt 32 v))
    | some o => satFlag (satTo true 32 (sInt 32 o + sInt 32 v))

/-- The value an atomic action leaves, and its flags. -/
def actNew (k : AccKind) (old data data2 : Nat) : Nat × Nat :=
  match k with
  | .atom op wide => atomNew op wide old data
  | .addOn df kind => drainVal df kind data (some old)
  | .cas _ => (if old = data then data2 else old, 0)
  | _ => (old, 0)

/-- A byte as an access that a watchpoint fired on has read or written it: what a load bound, what a store wrote, what an atomic of its lanes left, the state
that the debug window shows, else memory; of peer memory that it has not written, a free value (log entry 68). -/
def State.watchByte (s : State) (a : Access) (vals : List (LaneAcc × Nat)) (va : Nat) : Byte :=
  let pa := if (a.spans.getD []).any fun x => decide (x.1 ≤ va) && decide (va < x.1 + x.2) then paVia a.pages va else s.paOf a.core a.partition va
  let own := vals.reverse.find? fun x => x.1.bytes.contains va
  let here := if homeOf s pa == .debug then windowByte s pa else if isPeer pa then (Config.freeValue (2 ^ 64 + va)).setWidth 8 else memGet s.mem pa
  match a.kind, own with
  | .atom _ _, some x => byteAt (actNew a.kind x.2 x.1.data x.1.data2).1 ((va + 2 ^ 57 - x.1.addr) % 2 ^ 57)
  | .cas _, some x => byteAt (actNew a.kind x.2 x.1.data x.1.data2).1 ((va + 2 ^ 57 - x.1.addr) % 2 ^ 57)
  | .store, _ | .stb _ _, _ => mixByte here (a.putAt va).1 (a.putAt va).2
  | _, _ => match a.done.find? fun x => x.2.1 == va with
    | some x => BitVec.ofNat 8 x.2.2
    | none => here

/-- A watchpoint's access has been performed, by the old values of its lanes: the predicate may run (spec/20 R449). -/
def State.watched (s : State) (a : Access) (vals : List (LaneAcc × Nat)) : State :=
  let g := match a.party with | some p => partyGroup p | none => 0
  if (s.group g).hits.any fun h => h.access == a.id then
    (s.modGroup g fun x => { x with hits := x.hits.map fun h =>
      if h.access = a.id then { h with value := some (leNat ((List.range 8).map fun i => s.watchByte a vals ((h.addr + i) % 2 ^ 57))) } else h }).request g 2
  else s

/-- The number of no access. -/
def noAccess : Nat := 2 ^ 64

/-- An action that an issue has performed itself fires a watchpoint on some ranges: the predicate may run at once (spec/20 R449). -/
def State.watchNow (s : State) (e : Env) (a : Access) (l : List (Nat × Nat × Nat)) : State :=
  match watchOn s e.core l with
  | none => s
  | some (n, addr) =>
    let v := leNat ((List.range 8).map fun i => s.watchByte a [] ((addr + i) % 2 ^ 57))
    ((s.modGroup e.group fun g => { g with hits := g.hits ++ [{ party := e.party, pc := e.pc, n := n, addr := addr, access := noAccess, value := some v }] }).setWait
      e.party .watch).request e.group 2

/-- Completes a read: a watchpoint's predicate may run, values return, an acquire takes effect, the access leaves. -/
def State.complete (s : State) (a : Access) (vals : List (LaneAcc × Nat)) : State :=
  let s := (s.watched a vals).deliver a vals
  let s := match a.party with
    | some p => if a.acquires then s.acquire p (a.acquireScope) else s
    | none => s
  s.finish a

/-- One lane of an atomic, in a core's scratchpad or at its home: the old value, and the flags. -/
def State.actLane (s : State) (a : Access) (l : LaneAcc) : State × Nat × Nat :=
  let pas := pasVia a.pages l.bytes
  let old := if a.scratch then (s.core a.core).sNat l.addr l.size else memNat s (pas.headD 0) l.size
  let x := actNew a.kind old l.data l.data2
  (if a.scratch then s.modCore a.core fun c => c.sPuts l.addr (natLe l.size x.1) else s.storeBytes (some a.core) pas (natLe l.size x.1), old, x.2)

/-- Whether a lane lies in peer memory. -/
def Access.peerLane (a : Access) (l : LaneAcc) : Bool := !a.scratch && (pasVia a.pages l.bytes).any isPeer

/-- Performs the lanes of an atomic that are left, from place `n` of its list; a peer's lanes are left to the peer. -/
def actLanes (a : Access) : Nat → List LaneAcc → State → State × List (LaneAcc × Nat) × Nat
  | _, [], s => (s, [], 0)
  | n, l :: r, s =>
    if a.peerLane l then actLanes a (n + 1) r s
    else
      let (s, old, g) := match a.done.find? fun x => x.1 == n with
        | some x => (s, x.2.2, (actNew a.kind x.2.2 l.data l.data2).2)
        | none => s.actLane a l
      let (s, t, f) := actLanes a (n + 1) r s
      (s, (l, old) :: t, g ||| f)

/-- The bytes of a store that have been written already. -/
def Access.written (a : Access) : List Nat := a.done.map (·.2.1)

/-- Performs the lanes of a store, but for the bytes that have been written. -/
def storeLanes (a : Access) : List LaneAcc → State → State
  | [], s => s
  | l :: r, s =>
    let s :=
      if a.peerLane l then s
      else if a.done.isEmpty then s.storeBytes (some a.core) (pasVia a.pages l.bytes) (natLe l.size l.data)
      else
        let x := (l.bytes.zip (natLe l.size l.data)).filter fun y => !a.written.contains y.1
        s.storeBytes (some a.core) (pasVia a.pages (x.map (·.1))) (x.map (·.2))
    storeLanes a r s

/-- Performs the lanes of a scratchpad store that was left to be performed part by part, but for the bytes that have been written. -/
def Access.putScratch (a : Access) (s : State) (l : List LaneAcc) : State :=
  s.modCore a.core fun c => l.foldl (fun c x =>
    ((x.bytes.zip (natLe x.size x.data)).filter fun y => !a.written.contains y.1).foldl (fun c y => c.sPut y.1 y.2) c) c

/-- Whether an access has lanes in peer memory. -/
def Access.remote (a : Access) : Bool := !a.scratch && a.pas.any fun x => isPeer x.1

/-- After the local part of a write: an access with remote lanes leaves for its peer (spec/18 R414, R415). -/
def State.sendOrFinish (s : State) (a : Access) (vals : List (LaneAcc × Nat)) : State :=
  if a.remote then
    let s := s.deliver a vals
    { s with accs := s.accs.map fun y => if y.id = a.id then { y with sent := some s.ccnt, piped := true } else y }
  else s.complete a vals

/-- ORs flags into the warp of an access's issuer. -/
def State.flagAccess (s : State) (a : Access) (flags : Nat) : State :=
  if flags = 0 then s
  else match a.party.bind partyKey with
    | some k => s.modWarp k fun w => w.orFlags flags
    | none => s

/-- Performs an access (spec/11 R300). -/
def performAccess (s : State) (a : Access) : Performed :=
  let pas := a.pas.flatMap fun x => (List.range x.2).map (x.1 + ·)
  let vas := rangeBytes (a.spans.getD [])
  let va := match a.spans with | some ((v, _) :: _) => v | _ => 0
  let atomic : Performed :=
    let r := actLanes a 0 a.lanes s
    let s := (r.1.flagAccess a r.2.2)
    let s := if a.scratch then s else s.record a 2 true
    .ok (s.sendOrFinish a r.2.1)
  match a.kind with
  | .load signed =>
    match readUe s pas with
    | some c => .trap (readUeTrap s a.pages vas c)
    | none =>
      let r := loadLanes a (a.view s a.pages) signed 0 a.lanes s
      .ok ((r.1.record a 0 false).complete a r.2)
  | .store =>
    if a.scratch then .ok ((a.putScratch s a.lanes).complete a [])
    else match writeUe s pas with
    | some c => .trap (writeUeTrap s a.pages vas c)
    | none => .ok ((((storeLanes a a.lanes s).unpoisonAll pas).record a 1 true).sendOrFinish a [])
  | .atom _ _ =>
    match readUe s pas with
    | some c => if a.scratch then atomic else .trap (readUeTrap s a.pages vas c)
    | none => atomic
  | .cas _ =>
    match readUe s pas with
    | some c => if a.scratch then atomic else .trap (readUeTrap s a.pages vas c)
    | none => atomic
  | .ldb _ word =>
    match readUe s pas with
    | some c => .trap (readUeTrap s a.pages vas c)
    | none =>
      let r := ldbLanes a (a.view s a.pages) word 0 a.lanes s
      .ok (((r.1.flagAccess a r.2.2).record a 0 false).complete a r.2.1)
  | .stb j word =>
    match writeUe s pas with
    | some c => .trap (writeUeTrap s a.pages vas c)
    | none =>
      let b := bufRec (a.recs.getD (0, 0)).1
      let s := a.lanes.foldl (fun s l => s.storeLane a.core a.pages b j word (coordsOf l.data2) l.data a.written) s
      .ok (((s.unpoisonAll pas).record a 1 true).sendOrFinish a [])
  | .sftload bank =>
    match readUe s pas with
    | some c => .trap (readUeTrap s a.pages vas c)
    | none =>
      let r := s.loadBytes { a.view s a.pages with bound := a.boundAt 0 } 0 ((List.range 1024).map (va + ·))
      .ok ((((r.1.record a 0 false).watched a []).modCore a.core fun c => if bank = 0 then { c with bank0 := BitVec.ofNat 8192 r.2 } else { c with bank1 := BitVec.ofNat 8192 r.2 }).finish a)
  | .launchRead j =>
    match readUe s pas with
    | some c => .trap (readUeTrap s a.pages vas c)
    | none =>
      let r := s.loadBytes { a.view s a.pages with bound := a.boundAt 0 } 0 ((List.range 128).map fun i => (va + i) % 2 ^ 57)
      let s := (r.1.record a 0 false).watched a []
      .ok { s with accs := s.accs.map fun y => if y.id = a.id then
              { a with kind := .launchCopy j, lanes := a.lanes.map fun l => { l with data := r.2 }, spans := some [] } else y }
  | .launchCopy j =>
    let data := (a.lanes.map (·.data)).headD 0
    match (s.part a.partition).device with
    | none => .ok (s.finish a)
    | some q =>
      let pas := (List.range 128).map (entryPa q j + ·)
      match writeUe s pas with
      | some c => .trap (ueTrap c ((pas.find? fun pa => (writeUeAt s pas pa).isSome).getD 0))
      | none =>
        let s := (s.storeBytes (some a.core) pas (natLe 128 (putBits data 1023 1 1))).unpoisonAll pas
        let s := (s.noteCode (some a.core) a.agent pas).recordLines a 1 true (entryLines s a)
        .ok ((s.modPart a.partition fun p => { p with device := p.device.map fun q => { q with notes := q.notes ++ [(j + 1) % 2 ^ 32] } }).finish a)
  | .take signed | .peek signed =>
    let c := s.core a.core
    let vals := a.lanes.map fun l => (l, loadBits signed l.size a.destBits (c.sNat l.addr l.size))
    let gs := granulesOf (a.spans.getD [])
    let s := match a.kind with | .take _ => s.setCore a.core (c.setFull false gs) | _ => s
    .ok (s.complete a vals)
  | k =>
    let data := (a.lanes.map (·.data)).headD 0
    match readUe s pas with
    | some c => .trap (readUeTrap s a.pages vas c)
    | none =>
      match unitAction s k a.core a.partition va (paVia a.pages va) data with
      | .trap t => .trap t
      | .ok s v => .ok (((s.dropLines a.core pas).record a 2 true).complete a (a.lanes.map fun l => (l, v)))

/-- A trap met by an access after its issue is discarding (spec/19 R417, R420, R429). -/
def State.accessTrap (s : State) (a : Access) (t : Trap) : State :=
  let vliw := match a.party with | some (.thread _ _) => true | some (.service _) => true | _ => false
  let path := match a.party with | some (.path _ _ i) => i | _ => 0
  let pa := match a.kind with | .launchCopy _ => t.addr | _ => paVia a.pages t.addr
  let s := s.meetUe a.core a.partition pa t
  s.startDiscard a.partition a.launch (recordOf t path vliw a.pc s.ccnt)

/-- Performs an access if nothing holds it. -/
def State.tryPerform (s : State) (a : Access) : State :=
  if a.sent.isSome || !a.performable s || ((s.part a.partition).discarding).isSome then s
  else match performAccess s a with
    | .ok s' =>
      if a.kind.writes && !a.scratch then s'.noteCode (some a.core) a.agent ((a.pas.flatMap fun x => (List.range x.2).map (x.1 + ·))) else s'
    | .trap t => s.accessTrap a t

/-- The access of an identity. -/
def State.acc? (s : State) (i : Nat) : Option Access := s.accs.find? fun a => a.id == i

/-! ### Parts of an access (spec/11 R299, R300, R309, R310) -/

/-- A store enters its core's memory pipeline; tiles built from its lines go (spec/11 R300; spec/10 R294). -/
def State.pipe (s : State) (i : Nat) : State :=
  match s.acc? i with
  | some a =>
    if !a.pipeable s || ((s.part a.partition).discarding).isSome then s
    else
      let s : State := { s with accs := s.accs.map fun y => if y.id = i then { y with piped := true } else y }
      s.modCore a.core fun c => a.lines.foldl Core.dropTiles c
  | none => s

/-- Marks parts of an access as performed. -/
def State.mark (s : State) (i : Nat) (l : List (Nat × Nat × Nat)) : State :=
  { s with accs := s.accs.map fun y => if y.id = i then { y with done := y.done ++ l } else y }

/-- The record whose attribute a byte of a lane is read under. -/
def Access.attribute (a : Access) (l : LaneAcc) (va : Nat) : BitVec 320 :=
  let r := a.recs.getD (0, 0)
  match a.kind with
  | .ldb j word => if ((laneCoords (bufRec r.1) word (coordsOf l.data2)).any fun c => (elemSrc (bufRec r.1) (bufRec r.2) j c).bytes.1.contains va) then r.1 else r.2
  | _ => 0

/-- The place of the last lane of an access that touches a byte. -/
def Access.lastLane (a : Access) (va : Nat) : Option Nat := ((List.range a.lanes.length).filter fun n => (a.lanes[n]?).any fun l => (a.laneBytes l).contains va).getLast?

/-- Part of an access is performed before the rest: bytes of a load are bound, bytes of a store written, or one lane of an atomic applied. -/
def State.accessPart (s : State) (i n va : Nat) : State :=
  match s.acc? i with
  | none => s
  | some a =>
    if a.sent.isSome || !a.performable s || ((s.part a.partition).discarding).isSome || a.window s then s
    else match a.lanes[n]? with
      | none => s
      | some l =>
        let part := (a.pieceOf l va).filter fun x => !a.done.any fun y => y.2.1 == x && (y.1 == n || a.kind.writes)
        let pas := pasVia a.pages part
        let act : State :=
          if a.peerLane l || (a.done.any fun y => y.1 == n) || (!a.scratch && (readUe s (pasVia a.pages l.bytes)).isSome) then s
          else
            let x := s.actLane a l
            x.1.mark i [(n, 0, x.2.1)]
        let bind : State :=
          if (readUe s pas).isSome || pas.any (fun pa => homeOf s pa == .debug) then s
          else
            let x := s.loadBytes { a.view s a.pages with bound := a.boundAt n } (a.attribute l va) part
            x.1.mark i ((List.range part.length).map fun k => (n, (part[k]?).getD 0, bits x.2 (8 * k) 8))
        let put : State := if a.scratch then
            let l := part.filter fun x => a.lastLane x == some n
            (s.modCore a.core fun c => l.foldl (fun c x => c.sPut x (BitVec.ofNat 8 (a.putAt x).2)) c).mark i (l.map fun x => (n, x, 0))
          else if (writeUe s pas).isSome then s else
          let l := part.filter fun x => a.lastLane x == some n
          (s.putVas a l).noteCode (some a.core) a.agent (pasVia a.pages l)
        match a.kind with
        | .load _ => bind
        | .ldb _ _ => bind
        | .sftload _ => bind
        | .launchRead _ => bind
        | .store => put
        | .stb _ _ => put
        | .atom _ _ => act
        | .cas _ => act
        | _ => s

/-- Whether an access leaves for host memory as an AtomicOp (spec/18 R397). -/
def Access.toHost (s : State) (a : Access) : Bool :=
  (match a.kind with | .atom _ _ => true | .cas _ => true | _ => false) && !a.scratch && a.pas.any fun x => homeOf s x.1 == .host

/-- The host refuses the AtomicOp of an access: its issuer takes UE (spec/18 R397). -/
def State.refuseAtomic (s : State) (i : Nat) : State :=
  match s.acc? i with
  | some a =>
    if !a.toHost s || !a.performable s || ((s.part a.partition).discarding).isSome then s
    else s.accessTrap a { cause := causeUE, addr := match a.spans with | some ((v, _) :: _) => v | _ => 0 }
  | none => s

end Sys2Proof.Machine
end

