-- ==== Sys2Proof/Machine/Scratch.lean ====
section
/-!
DEFINITION. Scratchpad forms: LDS, STS, LDSX, STSX, FESET, FECLR, and the actions that wait for full granules (spec/07 R191 to R195; spec/10 R276 to R279).
-/
namespace Sys2Proof.Machine

open Sys2Proof

/-- LPILL for a byte outside the window of the logit program (spec/14 R366, code 2). -/
def lpWindow (e : Env) (l : List (Nat × Nat)) : Option Trap :=
  match e.w.lp with
  | none => none
  | some m =>
    if e.inHandler then none
    else
      let bad := l.filterMap fun x =>
        if x.2 = 0 then none
        else if x.1 < m.window then some x.1
        else if m.window + m.windowLen < x.1 + x.2 then some (max x.1 (m.window + m.windowLen))
        else none
      match bad with
      | [] => none
      | a :: r => some { cause := causeLPILL, info := 2 * 2 ^ 32, addr := r.foldl min a }

/-- Whether earlier accesses of the issuer hold a scratchpad form: its own scratchpad actions that wait, an acquire, and before a write what was issued
before a FENCE.rel and has not been performed (spec/07 R190; spec/11 R303, R308). -/
def scratchWaits (e : Env) (s : State) (write : Bool) : Bool :=
  s.anyAcc e.party fun a => a.scratch || a.acquires || (write && decide (a.id < s.fencedOf e.party) && !a.entered)

/-- What stands before a scratchpad form that touches byte ranges of offsets: the region's end, the logit window, and earlier accesses of the issuer
(spec/07 R190, R191). -/
def scratchGate (e : Env) (s : State) (l : List (Nat × Nat)) (window write : Bool) : Gate :=
  match (if window then lpWindow e l else none) with
  | some t => .trap t
  | none =>
    match beyond (s.region e.party).2 l with
    | some t => .trap t
    | none => if scratchWaits e s write then .wait .pending else .ok

/-- A release at .block before it issues. -/
def fillGate (e : Env) (s : State) (fill : Bool) (g : Gate) : Gate :=
  match g with
  | .ok => if fill && releaseWaits s e.party 2 then .wait .fence else .ok
  | g => g

/-- Words of a slot that a destination of a SIZE code names. -/
def dstWords (e : Env) (k size : Nat) : Nat := if e.view.inSlot then 2 ^ k else if size = 6 then 15 else if size = 5 then 3 * 2 ^ k else 2 ^ k

/-- The register result of a load, from each lane's bits. -/
def loadRes (e : Env) (w : IWord) (size : Nat) (vals : List (Nat × Nat)) : List Res :=
  match w.d with
  | .vec k n =>
    let g := gatherBits (vals.map fun x => (e.unitOff true k.val x.1, sizeRow size, x.2))
    [{ reg := .v (physRow e.w.vrot n.val) (dstWords e k.val size), spec := encodeSpec w.d, value := g.1, mask := g.2 }]
  | .sreg n =>
    if n.val = 0 then []
    else [{ reg := .s n.val, spec := encodeSpec w.d, value := (vals.map (·.2)).headD 0, mask := if vals.isEmpty then 0 else 2 ^ 64 - 1 }]
  | _ => []

/-- The width of a load's result in its register operand. -/
def loadWidth (w : IWord) (size : Nat) : Nat := match w.d with | .sreg _ => 64 | _ => sizeRow size

/-- An access of the scratchpad's unit, by bytes of the core's store. -/
def Env.scratchAccess (e : Env) (s : State) (kind : AccKind) (lanes : List LaneAcc) (dest : Dest) (pend : List RegId) : Access :=
  { e.access s kind 0 lanes dest pend with scratch := true, ready := true }

/-! ### LDS and STS -/

/-- The lanes of LDS and STS with their offsets. -/
def ldsLanes (op : Nat) (w : IWord) (e : Env) : List (Nat × Nat) := (e.memLanes op w).map fun t => (t, e.scratchAddr w t)

/-- The byte ranges of LDS and STS. -/
def ldsRanges (op : Nat) (w : IWord) (e : Env) : List (Nat × Nat) := (ldsLanes op w e).map fun x => (x.2, sizeBytes (bits w.ext.toNat 3 3))

/-- Marks the results a plain scratchpad load has just sent with what they were loaded from, for `Part.scratchRead`. -/
def State.markRead (s : State) (e : Env) (before : Nat) (reads : Nat → List ScratchRead) : State :=
  s.modWarp e.key fun w =>
    { w with inflight := w.inflight.take before ++ (w.inflight.drop before).mapIdx fun i f => { f with reads := reads i, born := w.committed } }

/-- LDS's effect (spec/07 R192, R193). -/
def ldsEff (w : IWord) (e : Env) (s : State) : State :=
  let size := bits w.ext.toNat 3 3
  let n := sizeBytes size
  let q := bits w.ext.toNat 0 3
  let base := (s.region e.party).1
  let lanes := ldsLanes 0x70 w e
  let k := bankCost (granulesOf (lanes.map fun x => (base + x.2, n)))
  if q = 0 then
    let c := s.core e.core
    let vals := lanes.map fun x => (x.1, loadBits (sizeSigned size) n (loadWidth w size) (c.sNat (base + x.2) n))
    let n0 := (s.warp e.key).inflight.length
    ((s.send e (e.withBank (wordLat e 0x70 w) k) (loadRes e w size vals)).markRead e n0 fun _ => lanes.map fun x =>
      { addr := base + x.2, size := n, signed := sizeSigned size, off := e.dstOff w x.1, width := loadWidth w size }).charge e k
  else
    let acc : List LaneAcc := lanes.map fun x => { lane := x.1, addr := base + x.2, size := n, data := 0, data2 := 0, off := e.dstOff w x.1 }
    (s.issueAccess e (e.scratchAccess s (if q = 1 then .take (sizeSigned size) else .peek (sizeSigned size)) acc (e.destFor w (sizeRow size))
      ((wordDests e 0x70 w).map (·.1)))).charge e k

/-- LDS (spec/07 R192). -/
def semLds (w : IWord) : Sem := { op := 0x70, w := w, gate := fun e s => scratchGate e s (ldsRanges 0x70 w e) true false, eff := ldsEff w }
/-- LDS issues. -/
def execLds (w : IWord) (s : State) : Host.Outcome State Fault Refusal := runSem (semLds w) s

/-- The data of a store for a lane. -/
def Env.storeData (e : Env) (w : IWord) (size lane : Nat) : Nat := e.elem w (sizeTy size) true w.c 0 lane 0

/-- A plain scratchpad store whose lanes, given by address, size and data, are left to be performed one by one, and byte by byte where they are not aligned
(spec/11 R299, R310): an item that the agenda issues as torn. -/
def State.issueScratch (s : State) (e : Env) (l : List (Nat × Nat × Nat)) : State :=
  s.issueAccess e (e.scratchAccess s .store (l.map fun x => { lane := 0, addr := x.1, size := x.2.1, data := x.2.2, data2 := 0, off := 0 }) .none [])

/-- STS's effect: of lanes that write one byte, the higher-numbered wins (spec/07 R187, R192). -/
def stsEff (w : IWord) (e : Env) (s : State) : State :=
  let size := bits w.ext.toNat 3 3
  let n := sizeBytes size
  let base := (s.region e.party).1
  let lanes := ldsLanes 0x71 w e
  let gs := granulesOf (lanes.map fun x => (base + x.2, n))
  let s :=
    if s.torn && bits w.ext.toNat 0 3 == 0 then s.issueScratch e (lanes.map fun x => (base + x.2, n, e.storeData w size x.1))
    else s.modCore e.core fun c =>
      let c := lanes.foldl (fun c x => c.sPuts (base + x.2) (natLe n (e.storeData w size x.1))) c
      if bits w.ext.toNat 0 3 = 1 then c.setFull true gs else c
  s.charge e (bankCost gs)

/-- STS (spec/07 R192). -/
def semSts (w : IWord) : Sem :=
  { op := 0x71, w := w, gate := fun e s => fillGate e s (bits w.ext.toNat 0 3 == 1) (scratchGate e s (ldsRanges 0x71 w e) true true), eff := stsEff w }
/-- STS issues. -/
def execSts (w : IWord) (s : State) : Host.Outcome State Fault Refusal := runSem (semSts w) s

/-! ### LDSX and STSX (spec/07 R194) -/

/-- Registers of an LDSX or STSX. -/
def ldsxCount (w : IWord) : Nat := 2 ^ bits w.ext.toNat 4 2

/-- The rows moved: register of the pair or quad, lane, and offset of the lane's 16 bytes. -/
def ldsxRows (op : Nat) (w : IWord) (e : Env) : List (Nat × Nat × Nat) :=
  let a := roundDown (e.uniformAddr w) 16
  let pitch := if e.view.inSlot then 128 else 512
  (List.range (ldsxCount w)).flatMap fun q => (e.memLanes op w).map fun t => (q, t, a + pitch * q + 16 * t)

/-- The byte ranges of the rows. -/
def ldsxRanges (op : Nat) (w : IWord) (e : Env) : List (Nat × Nat) := (ldsxRows op w e).map fun x => (x.2.2, 16)

/-- The cost of an LDSX or STSX: the sum over its registers (spec/10 R277). -/
def ldsxCost (op : Nat) (w : IWord) (e : Env) (base : Nat) : Nat :=
  ((List.range (ldsxCount w)).map fun q => bankCost (((ldsxRows op w e).filter fun x => x.1 = q).map fun x => (base + x.2.2) / 16)).sum

/-- LDSX's effect. -/
def ldsxEff (w : IWord) (e : Env) (s : State) : State :=
  let q := bits w.ext.toNat 0 3
  let base := (s.region e.party).1
  let rows := ldsxRows 0x72 w e
  let k := ldsxCost 0x72 w e base
  match w.d with
  | .vec c n =>
    if q = 0 then
      let core := s.core e.core
      let res := (List.range (ldsxCount w)).map fun i =>
        let g := gatherBits ((rows.filter fun x => x.1 = i).map fun x => (e.unitOff false c.val x.2.1, 128, core.sNat (base + x.2.2) 16))
        ({ reg := .v (physRow e.w.vrot (n.val + i)) (if e.view.inSlot then 2 ^ c.val else 15), spec := specAt w.d i, value := g.1, mask := g.2 } : Res)
      let n0 := (s.warp e.key).inflight.length
      ((s.send e (e.withBank (wordLat e 0x72 w) k) res).markRead e n0 fun i => (rows.filter fun x => x.1 = i).map fun x =>
        { addr := base + x.2.2, size := 16, signed := false, off := e.unitOff false c.val x.2.1, width := 128 }).charge e k
    else
      let acc : List LaneAcc := rows.map fun x =>
        { lane := x.2.1, addr := base + x.2.2, size := 16, data := x.1, data2 := 0, off := e.unitOff false c.val x.2.1 }
      (s.issueAccess e (e.scratchAccess s (if q = 1 then .take false else .peek false) acc
        (.rows ((List.range (ldsxCount w)).map fun i => physRow e.w.vrot (n.val + i))) ((wordDests e 0x72 w).map (·.1)))).charge e k
  | _ => s

/-- LDSX (spec/07 R194). -/
def semLdsx (w : IWord) : Sem := { op := 0x72, w := w, gate := fun e s => scratchGate e s (ldsxRanges 0x72 w e) false false, eff := ldsxEff w }
/-- LDSX issues. -/
def execLdsx (w : IWord) (s : State) : Host.Outcome State Fault Refusal := runSem (semLdsx w) s

/-- STSX's effect. -/
def stsxEff (w : IWord) (e : Env) (s : State) : State :=
  let base := (s.region e.party).1
  let rows := ldsxRows 0x73 w e
  let gs := granulesOf (rows.map fun x => (base + x.2.2, 16))
  let s :=
    if s.torn && bits w.ext.toNat 0 3 == 0 then s.issueScratch e (rows.map fun x => (base + x.2.2, 16, e.elem w .b128 false w.c x.1 x.2.1 0))
    else s.modCore e.core fun c =>
      let c := rows.foldl (fun c x => c.sPuts (base + x.2.2) (natLe 16 (e.elem w .b128 false w.c x.1 x.2.1 0))) c
      if bits w.ext.toNat 0 3 = 1 then c.setFull true gs else c
  s.charge e (ldsxCost 0x73 w e base)

/-- STSX (spec/07 R194). -/
def semStsx (w : IWord) : Sem :=
  { op := 0x73, w := w, gate := fun e s => fillGate e s (bits w.ext.toNat 0 3 == 1) (scratchGate e s (ldsxRanges 0x73 w e) false true), eff := stsxEff w }
/-- STSX issues. -/
def execStsx (w : IWord) (s : State) : Host.Outcome State Fault Refusal := runSem (semStsx w) s

/-! ### FESET and FECLR (spec/07 R195) -/

/-- The byte range of FESET and FECLR: none when the predicate fails. -/
def feRange (w : IWord) (e : Env) : List (Nat × Nat) := if e.scalarPred w then [(e.uniformAddr w, e.u64 w w.c % 2 ^ 32)] else []

/-- Sets or clears the bits of every granule that the range overlaps. -/
def feEff (v : Bool) (w : IWord) (e : Env) (s : State) : State :=
  let base := (s.region e.party).1
  s.modCore e.core fun c => c.setFull v (granulesOf ((feRange w e).map fun x => (base + x.1, x.2)))

/-- FESET, a release at .block (spec/07 R195, R203). -/
def semFeset (w : IWord) : Sem :=
  { op := 0x74, w := w, gate := fun e s => fillGate e s true (scratchGate e s (feRange w e) false true), eff := feEff true w }
/-- FESET issues. -/
def execFeset (w : IWord) (s : State) : Host.Outcome State Fault Refusal := runSem (semFeset w) s

/-- FECLR (spec/07 R195). -/
def semFeclr (w : IWord) : Sem := { op := 0x75, w := w, gate := fun e s => scratchGate e s (feRange w e) false true, eff := feEff false w }
/-- FECLR issues. -/
def execFeclr (w : IWord) (s : State) : Host.Outcome State Fault Refusal := runSem (semFeclr w) s

/-! ### Waiting actions -/

/-- Whether a waiting .take or .peek can proceed: every granule it touches is full (spec/07 R193). -/
def feFull (s : State) (a : Access) : Bool :=
  (match a.kind with | .take _ => true | .peek _ => true | _ => false) && (s.core a.core).allFull (granulesOf (a.spans.getD []))

/-- Whether it is served now: of those that can proceed on common granules, the one that reached the unit first. -/
def feServed (s : State) (a : Access) : Bool :=
  feFull s a &&
  !(s.accs.any fun y => decide (y.id < a.id) && y.core == a.core && feFull s y &&
    (granulesOf (y.spans.getD [])).any (granulesOf (a.spans.getD [])).contains)

/-- FULL_EMPTY_WAIT_SATISFIED (spec/07 R193): the action of access `i` of a core is performed. -/
def execFullEmptyWaitSatisfied (core i : Nat) (s : State) : Host.Outcome State Fault Refusal :=
  match s.acc? i with
  | some a => if a.core == core && feServed s a then .next ((s.tryPerform a).rouse core 3) else .next s
  | none => .next s

end Sys2Proof.Machine
end

