-- ==== Sys2Proof/Machine/Global.lean ====
section
/-!
DEFINITION. Global forms: LD, ST, LDB, STB, PREF, CINV, ATOM, CAS, FENCE and SFTLOAD, and the events that perform what they issued
(spec/06 R182, R183; spec/07 R196 to R203; spec/18 R414, R415).
-/
namespace Sys2Proof.Machine

open Sys2Proof

/-- Lanes with their global addresses. -/
def globalLanes (op : Nat) (w : IWord) (e : Env) (size : Nat) (align : Nat) (data data2 : Nat → Nat) : List LaneAcc :=
  (e.memLanes op w).map fun t =>
    { lane := t, addr := roundDown (e.globalAddr w t) align, size := size, data := data t, data2 := data2 t, off := e.dstOff w t }

/-- A form that is one access: its gate and its issue. -/
def accessSem (op : Nat) (w : IWord) (mk : Env → State → Access) : Sem :=
  { op := op, w := w, gate := fun e s => globalGate e s (mk e s), eff := fun e s => s.issueAccess e (mk e s),
    room := fun e s => accessRoom e s (mk e s) }

/-- The registers an access leaves pending. -/
def pendOf (op : Nat) (w : IWord) (e : Env) : List RegId := (wordDests e op w).map (·.1)

/-! ### LD and ST (spec/07 R196) -/

/-- LD's access. -/
def ldAccess (w : IWord) (e : Env) (s : State) : Access :=
  let size := bits w.ext.toNat 3 3
  e.access s (.load (sizeSigned size)) (bits w.ext.toNat 0 3) (globalLanes 0x80 w e (sizeBytes size) 1 (fun _ => 0) fun _ => 0)
    (e.destFor w (sizeRow size)) (pendOf 0x80 w e)
/-- LD (spec/07 R196). -/
def semLd (w : IWord) : Sem := accessSem 0x80 w (ldAccess w)
/-- LD issues. -/
def execLd (w : IWord) (s : State) : Host.Outcome State Fault Refusal := runSem (semLd w) s

/-- ST's access. -/
def stAccess (w : IWord) (e : Env) (s : State) : Access :=
  let size := bits w.ext.toNat 3 3
  e.access s .store (bits w.ext.toNat 0 3) (globalLanes 0x81 w e (sizeBytes size) 1 (fun t => e.storeData w size t % 2 ^ (8 * sizeBytes size)) fun _ => 0)
    .none []
/-- ST (spec/07 R196). -/
def semSt (w : IWord) : Sem := accessSem 0x81 w (stAccess w)
/-- ST issues. -/
def execSt (w : IWord) (s : State) : Host.Outcome State Fault Refusal := runSem (semSt w) s

/-! ### LDB and STB (spec/07 R197) -/

/-- The record index. -/
def bufIndex (w : IWord) (e : Env) : Nat := e.uniform w .n64 w.a % 256

/-- The four coordinate patterns of a lane. -/
def bufCoords (w : IWord) (e : Env) (lane : Nat) : Nat :=
  match w.b with
  | .vec _ _ => e.elem w .b128 false w.b 0 lane 0
  | o => e.uniform w .n64 o

/-- The lanes of LDB and STB with their coordinates and data. -/
def bufLanes (op : Nat) (w : IWord) (e : Env) (data : Nat → Nat) : List LaneAcc :=
  let word := bit w.ext.toNat 5
  (e.memLanes op w).map fun t =>
    { lane := t, addr := 0, size := 0, data := data t, data2 := bufCoords w e t, off := match w.d with | .vec k _ => e.unitOff word k.val t | _ => 0 }

/-- LDB's access. -/
def ldbAccess (w : IWord) (e : Env) (s : State) : Access :=
  let word := bit w.ext.toNat 5
  { e.access s (.ldb (bufIndex w e) word) (bits w.ext.toNat 0 3) (bufLanes 0x82 w e fun _ => 0) (e.destFor w (if word then 32 else 128)) (pendOf 0x82 w e)
    with spans := none }
/-- LDB (spec/07 R197). -/
def semLdb (w : IWord) : Sem := accessSem 0x82 w (ldbAccess w)
/-- LDB issues. -/
def execLdb (w : IWord) (s : State) : Host.Outcome State Fault Refusal := runSem (semLdb w) s

/-- STB's access. -/
def stbAccess (w : IWord) (e : Env) (s : State) : Access :=
  let word := bit w.ext.toNat 5
  { e.access s (.stb (bufIndex w e) word) (bits w.ext.toNat 0 3)
      (bufLanes 0x83 w e fun t => if word then e.elem w .n32 true w.c 0 t 0 else e.elem w .b128 false w.c 0 t 0) .none []
    with spans := none }
/-- STB (spec/07 R197). -/
def semStb (w : IWord) : Sem := accessSem 0x83 w (stbAccess w)
/-- STB issues. -/
def execStb (w : IWord) (s : State) : Host.Outcome State Fault Refusal := runSem (semStb w) s

/-! ### Caches (spec/07 R198) -/

/-- The addresses of PREF and CINV.line that translate, with their pages: the others do nothing. -/
def cacheLanes (op : Nat) (w : IWord) (e : Env) (s : State) : List (Nat × List TlbEntry) :=
  (e.memLanes op w).filterMap fun t =>
    let va := e.globalAddr w t
    match translate s e.core (s.partyPart e.party) .read [(va, 1)] with
    | .ok pages => if (rangeTrap s .read pages va 1).isNone then some (paVia pages va, pages) else none
    | _ => none

/-- PREF (spec/07 R198): a line comes into L1, unless its page keeps it out; L2 has no state of its own here. -/
def prefEff (w : IWord) (e : Env) (s : State) : State :=
  (cacheLanes 0x84 w e s).foldl (fun s x =>
    let s := s.learn e.core x.2
    let c := match x.2 with | p :: _ => p.cache | [] => 0
    if bit w.ext.toNat 0 || c = 1 || !l1Home s x.1 then s else (s.correct (x.1 / 64)).fill e.core (x.1 / 64) (c == 2)) s
/-- PREF waits while a bank it would read is in its refresh window (spec/10 R285). -/
def prefGate (w : IWord) (e : Env) (s : State) : Gate :=
  if !bit w.ext.toNat 0 && (cacheLanes 0x84 w e s).any (fun x => inRefresh s x.1) then .wait .pending else .ok
/-- PREF (spec/07 R198). -/
def semPref (w : IWord) : Sem := { op := 0x84, w := w, gate := prefGate w, eff := prefEff w }
/-- PREF issues. -/
def execPref (w : IWord) (s : State) : Host.Outcome State Fault Refusal := runSem (semPref w) s

/-- CINV.line: the core's L1 copies of the lines go. -/
def cinvLineEff (w : IWord) (e : Env) (s : State) : State :=
  (cacheLanes 0x85 w e s).foldl (fun s x => s.modCore e.core fun c => c.dropLine (x.1 / 64)) s
/-- CINV.line (spec/07 R198). -/
def semCinvLine (w : IWord) : Sem := { op := 0x85, w := w, gate := fun _ _ => .ok, eff := cinvLineEff w }
/-- CINV.line issues. -/
def execCinvLine (w : IWord) (s : State) : Host.Outcome State Fault Refusal := runSem (semCinvLine w) s

/-- CINV.tiles: every tile of the core goes. -/
def cinvTilesEff (w : IWord) (e : Env) (s : State) : State := if e.scalarPred w then s.modCore e.core fun c => { c with tiles := [] } else s
/-- CINV.tiles (spec/07 R198). -/
def semCinvTiles (w : IWord) : Sem := { op := 0x85, w := w, gate := fun _ _ => .ok, eff := cinvTilesEff w }
/-- CINV.tiles issues. -/
def execCinvTiles (w : IWord) (s : State) : Host.Outcome State Fault Refusal := runSem (semCinvTiles w) s

/-- CINV.all: every line and tile of the core goes; its fetch sees the stores before it that a FENCE.acq has covered, and will see the others as one covers
them (spec/07 R198; spec/10 R275). -/
def cinvAllEff (w : IWord) (e : Env) (s : State) : State :=
  if e.scalarPred w then s.modCore e.core fun c => { c.dropCode with tiles := [], l1 := [] } else s
/-- CINV.all (spec/07 R198). -/
def semCinvAll (w : IWord) : Sem := { op := 0x85, w := w, gate := fun _ _ => .ok, eff := cinvAllEff w }
/-- CINV.all issues. -/
def execCinvAll (w : IWord) (s : State) : Host.Outcome State Fault Refusal := runSem (semCinvAll w) s

/-! ### Atomics (spec/07 R199, R200) -/

/-- The type in which the operand of an ATOM is read: a 64-bit add reads it as n64, so that a 32-bit literal is zero-extended (DESIGN CHOICE, log entry 67;
the encoding tells no n64 add from an i64 one, spec/07 R199). -/
def atomTy (op : Nat) (wide : Bool) : Ty :=
  match op with
  | 1 | 2 => if wide then .i64 else .i32
  | 9 | 10 | 11 => if wide then .f64 else .f32
  | _ => if wide then .n64 else .n32

/-- The address of an atomic for a lane: in the core's store, or global. -/
def atomAddr (w : IWord) (e : Env) (base lane : Nat) : Nat :=
  let n := if bit w.ext.toNat 4 then 8 else 4
  if bit w.ext.toNat 5 then roundDown (e.globalAddr w lane) n else base + roundDown (e.scratchAddr w lane) n

/-- The access of ATOM or CAS. -/
def atomAccess (op : Nat) (w : IWord) (kind : AccKind) (data data2 : Env → Nat → Nat) (e : Env) (s : State) : Access :=
  let wide := bit w.ext.toNat 4
  let base := (s.region e.party).1
  let lanes : List LaneAcc := (e.memLanes op w).map fun t =>
    { lane := t, addr := atomAddr w e base t, size := if wide then 8 else 4, data := data e t, data2 := data2 e t, off := e.dstOff w t }
  let dest := e.destFor w (if wide then 64 else 32)
  let pend := if dest == .none then [] else pendOf op w e
  if bit w.ext.toNat 5 then e.access s kind 0 lanes dest pend else e.scratchAccess s kind lanes dest pend

/-- What stands before ATOM or CAS: the checks of its space. -/
def atomGate (op : Nat) (w : IWord) (e : Env) (s : State) (a : Access) : Gate :=
  if bit w.ext.toNat 5 then globalGate e s a
  else
    let n := if bit w.ext.toNat 4 then 8 else 4
    scratchGate e s ((e.memLanes op w).map fun t => (roundDown (e.scratchAddr w t) n, n)) false true

/-- The bank cost of an atomic of the scratchpad. -/
def atomCost (a : Access) : Nat := if a.scratch then bankCost (granulesOf (a.spans.getD [])) else 0

/-- ATOM's access. -/
def atomAcc (w : IWord) : Env → State → Access :=
  let wide := bit w.ext.toNat 4
  let op := bits w.ext.toNat 0 4
  atomAccess 0x90 w (.atom op wide) (fun e t => e.elem w (atomTy op wide) true w.c 0 t 0) fun _ _ => 0
/-- ATOM (spec/07 R199). -/
def semAtom (w : IWord) : Sem :=
  { op := 0x90, w := w, gate := fun e s => atomGate 0x90 w e s (atomAcc w e s),
    eff := fun e s => (s.issueAccess e (atomAcc w e s)).charge e (atomCost (atomAcc w e s)),
    room := fun e s => accessRoom e s (atomAcc w e s) }
/-- ATOM issues. -/
def execAtom (w : IWord) (s : State) : Host.Outcome State Fault Refusal := runSem (semAtom w) s

/-- Half `i` of the operand of CAS for a lane: the compare value, then the new value. -/
def casOperand (w : IWord) (e : Env) (lane i : Nat) : Nat :=
  let t : Ty := if bit w.ext.toNat 4 then .n64 else .n32
  match w.c with
  | .sreg n => (e.w.sreg (n.val + i)).toNat % 2 ^ t.width
  | o => e.elem w t true o 0 lane i

/-- CAS's access. -/
def casAcc (w : IWord) : Env → State → Access :=
  atomAccess 0x91 w (.cas (bit w.ext.toNat 4)) (fun e t => casOperand w e t 0) fun e t => casOperand w e t 1
/-- CAS (spec/07 R200). -/
def semCas (w : IWord) : Sem :=
  { op := 0x91, w := w, gate := fun e s => atomGate 0x91 w e s (casAcc w e s),
    eff := fun e s => (s.issueAccess e (casAcc w e s)).charge e (atomCost (casAcc w e s)),
    room := fun e s => accessRoom e s (casAcc w e s) }
/-- CAS issues. -/
def execCas (w : IWord) (s : State) : Host.Outcome State Fault Refusal := runSem (semCas w) s

/-! ### FENCE (spec/07 R202; spec/11 R308) -/

/-- FENCE waits for the accesses of every path of its warp: .rel and .ar for what a release waits for, .acq and .ar for results. -/
def fenceGate (w : IWord) (e : Env) (s : State) : Gate :=
  let k := bits w.ext.toNat 4 2
  let scope := bits w.ext.toNat 1 3 + 1
  if k != 1 && fenceWaits s e.party scope then .wait .fence
  else if k != 0 && s.anyAcc e.party (·.returnsValue) then .wait .fence
  else .ok
/-- A FENCE.acq covers stores to code by the parties of its scope: the core's fetch sees those that a CINV.all has followed (spec/10 R275). -/
def Core.coverCode (c : Core) (core : Nat) (agent : Nat × Nat × Nat) (scope : Nat) : Core :=
  ({ c with code := c.code.map fun x : CodeStore => if x.within core agent scope then { x with covered := true } else x } : Core).seeCode

/-- Accesses of a party that a FENCE.acq or .ar finds unfinished are those of slots before it in its own bundle (spec/11 R298): they acquire for the fence as
they return, and .ar covers its writes too. -/
def State.fenceAccs (s : State) (p : Party) (scope : Nat) (both : Bool) : State :=
  { s with accs := s.accs.map fun a =>
      if a.of p && (a.returnsValue || (both && a.short scope)) then { a with fence := some (max scope (a.fence.getD 0)) } else a }

/-- FENCE's effect: .rel and .ar order the issuer's later writes after what it issued before, .acq and .ar are acquires. -/
def fenceEff (w : IWord) (e : Env) (s : State) : State :=
  let k := bits w.ext.toNat 4 2
  let scope := bits w.ext.toNat 1 3 + 1
  let s := if k = 1 ∨ scope = 1 then s else s.modWarp e.key fun x => { x with fenced := s.serial }
  let s := if k = 0 then s else s.fenceAccs e.party scope (k == 2)
  if k = 0 then s else (s.modCore e.core fun c => c.coverCode e.core (s.agentOf e.party) scope).acquire e.party scope
/-- FENCE (spec/07 R202). -/
def semFence (w : IWord) : Sem := { op := 0x93, w := w, gate := fenceGate w, eff := fenceEff w }
/-- FENCE issues. -/
def execFence (w : IWord) (s : State) : Host.Outcome State Fault Refusal := runSem (semFence w) s

/-! ### Results and writes -/

/-- Whether an access is performed by an event of its own kind. -/
def Access.special (s : State) (a : Access) : Bool :=
  (match a.kind with | .take _ => true | .peek _ => true | .sftload _ => true | _ => false) || a.window s

/-- VARIABLE_LATENCY_RESULT (spec/04 R115; spec/07 R203): access `i` binds its value and returns it. -/
def execVariableLatencyResult (i : Nat) (s : State) : Host.Outcome State Fault Refusal :=
  match s.acc? i with
  | some a => if a.returnsValue && !a.special s then .next ((s.tryPerform a).rouse a.core 5) else .next s
  | none => .next s

/-- ASYNC_WRITE_PERFORMED (spec/09 R268): access `i`, a write without a result, is performed. A gated core that it wakes records CAUSE 5 (DESIGN CHOICE,
log entry 64): spec/01 R39 has no code for a store that ends a wait. -/
def execAsyncWritePerformed (i : Nat) (s : State) : Host.Outcome State Fault Refusal :=
  match s.acc? i with
  | some a => if !a.returnsValue && !a.special s then .next ((s.tryPerform a).rouse a.core 5) else .next s
  | none => .next s

/-! ### Peers (spec/18 R414, R415) -/

/-- Flags of a peer's actions reach the issuer: a warp, or for an add-on-store every warp of the engine's block (spec/07 R199; spec/02 R64). -/
def State.remoteFlags (s : State) (a : Access) (flags : Nat) : State :=
  if a.agent.isSome then s.flagAccess a flags
  else match (s.core a.core).seq.bind fun q => s.block? q.block with
    | some b => s.orBlockFlags b.launch b.bid flags
    | none => s

/-- REMOTE_ACK (spec/18 R415): the peer has performed the remote lanes of access `i`; `values` are the old values of its remote atomics. -/
def execRemoteAck (i : Nat) (values : List Word64) (s : State) : Host.Outcome State Fault Refusal :=
  match s.acc? i with
  | some a =>
    match a.sent with
    | some t =>
      if t + 30000000 ≤ s.ccnt then .next s
      else
        let vals := ((a.lanes.filter a.peerLane).zip values).map fun x => (x.1, x.2.toNat % 2 ^ (8 * x.1.size))
        let flags := orFlagsOf (vals.map fun x => actNew a.kind x.2 x.1.data x.1.data2)
        .next (((s.remoteFlags a flags).complete a vals).rouse a.core 5)
    | none => .next s
  | none => .next s

/-- REMOTE_TIMEOUT (spec/18 R415): 30,000,000 ccnt without an acknowledgement; the operation is abandoned and the issuer takes UE. -/
def execRemoteTimeout (i : Nat) (s : State) : Host.Outcome State Fault Refusal :=
  match s.acc? i with
  | some a =>
    match a.sent with
    | some t =>
      if t + 30000000 ≤ s.ccnt then
        let va := match a.spans with | some ((v, _) :: _) => v | _ => 0
        .next ((s.accessTrap a { cause := causeUE, info := 2 ^ 7, addr := va }).finish a)
      else .next s
    | none => .next s
  | none => .next s

/-! ### SFTLOAD (spec/06 R182, R183) -/

/-- SFTLOAD's access: the 1 KiB table, read as a plain load. -/
def sftAccess (w : IWord) (e : Env) (s : State) : Access :=
  let va := roundDown (wrap 57 ((e.uniform w .n64 w.a : Int) + e.offsetOf w w.b 0)) 1024
  e.access s (.sftload (e.uniform w .n64 w.c % 2)) 0 [{ lane := 0, addr := va, size := 1024, data := 0, data2 := 0, off := 0 }] .none []
/-- SFTLOAD's effect: the bank is busy, and the issuer waits until the table is written. -/
def sftEff (w : IWord) (e : Env) (s : State) : State :=
  let id := s.serial
  let s := s.issueAccess e (sftAccess w e s)
  (s.modCore e.core fun c => { c with sft := c.sft ++ [{ bank := e.uniform w .n64 w.c % 2, party := e.party, access := id, free := false }] }).setWait e.party .table
/-- SFTLOAD (spec/06 R182). -/
def semSftload (w : IWord) : Sem :=
  { op := 0x68, w := w, gate := fun e s => globalGate e s (sftAccess w e s), eff := sftEff w, room := fun e s => accessRoom e s (sftAccess w e s) }
/-- SFTLOAD issues. -/
def execSftload (w : IWord) (s : State) : Host.Outcome State Fault Refusal := runSem (semSftload w) s

/-- Whether the write of an SFTLOAD may take place: its first wait is over, and every ACT that reads the bank has produced its result (spec/06 R183). -/
def sftReady (s : State) (core : Nat) (x : SftLoad) : Bool :=
  ((s.core core).sft.find? fun y => y.bank == x.bank) == some x && (x.free || sftOpen s core x) &&
  !((s.residents core).any fun kv => kv.2.inflight.any fun f => match f.bank with | some (b, n) => b == x.bank && decide (s.acyc core < n) | none => false) &&
  (match s.acc? x.access with | some a => a.performable s | none => true)

/-- SFTLOAD_TABLE_WRITE (spec/06 R183): the table of the first SFTLOAD that may be written is written whole, and its issuer goes on, once the predicate of a
watchpoint that fired on it has run (spec/20 R449). -/
def execSftloadTableWrite (core : Nat) (s : State) : Host.Outcome State Fault Refusal :=
  match (s.core core).sft.find? (sftReady s core) with
  | none => .next s
  | some x =>
    let s := s.openSft core
    let s := match s.acc? x.access with | some a => s.tryPerform a | none => s
    let s := s.modCore core fun c => { c with sft := c.sft.filter fun y => y.access != x.access }
    let watched := (s.group (partyGroup x.party)).hits.any fun h => h.access == x.access
    .next ((if s.waitOf x.party = .table then s.setWait x.party (if watched then .watch else .none) else s).rouse core 5)

end Sys2Proof.Machine
end

