-- ==== Sys2Proof/Machine/Sync.lean ====
section
/-!
DEFINITION. Barriers, stage rings and WARPSYNC, and the user and decision records that synchronisation and control write
(spec/02 R63; spec/07 R203 to R209; spec/08 R232, R233; spec/20 R451; spec/22 R474, R475).
-/
namespace Sys2Proof.Machine

open Sys2Proof

/-! ### Records of an issue -/

/-- Whether control transfers of a core are traced into a log buffer. -/
def Env.traced (e : Env) (s : State) : Bool := (s.core e.core).dbg.dctl.getLsbD 62 && logOn s (s.partyPart e.party) 0

/-- Room for `n` trace records. -/
def Env.traceGate (e : Env) (s : State) (n : Nat) : Gate :=
  if n != 0 && e.traced s && !logFits s (s.partyPart e.party) 0 n then .trap (logFull 0 n) else .ok

/-- What `n` trace records take of a bundle's room. -/
def Env.traceRoom (e : Env) (s : State) (n : Nat) : LogRoom := ⟨if e.traced s then n else 0, 0⟩

/-- Trace records of the resulting paths: index, pc, mask (spec/20 R451). -/
def State.trace (s : State) (e : Env) (l : List (Nat × Nat × Nat)) : State :=
  if e.traced s then
    l.foldl (fun s x => s.userRecord (s.partyPart e.party) e.core e.group e.key e.w.wid 0x02 (s.tagOf e.party)
      (x.1 * 2 ^ 59 + x.2.1 % 2 ^ 57) (x.2.2 + e.w.bid % 2 ^ 32 * 2 ^ 32)) s
  else s

/-! ### Barriers -/

/-- A barrier of a block (level 0, by placed block), of a cluster (level 1, by launch; index 8 x cluster + number) or of a grid (level 2, by launch). -/
structure BarRef where
  level : Nat
  owner : Nat
  index : Nat
deriving DecidableEq, Repr

/-- A barrier that nothing declares: no members, phase 0 (spec/07 R204). -/
def barrier0 : Barrier := { declared := false, members := [], arrived := [], phase := 0 }

/-- bid and warp number of a party; a sequencer is warp 64 (spec/09 R251). -/
def State.bidWid (s : State) (p : Party) : Nat × Nat :=
  match p with
  | .seq c => match (s.core c).seq with
    | some q => (match s.block? q.block with | some b => b.bid | none => 0, 64)
    | none => (0, 64)
  | p => let w := s.warp ((partyKey p).getD 0); (w.bid, w.wid)

/-- The key of a member. -/
def memberKey (x : Nat × Nat) : Nat := 65 * x.1 + x.2

/-- CSIZE + 1 of a launch. -/
def Launch.csize (l : Launch) : Nat := recBits l.record 51 2 + 1

/-- The barrier a party names. -/
def State.barRef (s : State) (p : Party) (level idx : Nat) : Option BarRef :=
  match level with
  | 0 => (s.partyBlock p).map fun x => ⟨0, x.1, idx⟩
  | 1 => (s.partyLaunch p).map fun l => ⟨1, s.partyLaunchNo p, 8 * ((s.bidWid p).1 / l.csize) + idx⟩
  | _ => (s.partyLaunch p).map fun _ => ⟨2, s.partyLaunchNo p, idx⟩

/-- A barrier's state. -/
def State.barrier (s : State) (r : BarRef) : Barrier :=
  match r.level with
  | 0 => match s.block? r.owner with | some b => b.barriers.getD r.index barrier0 | none => barrier0
  | 1 => match s.launch? r.owner with | some l => l.cbarriers.getD r.index barrier0 | none => barrier0
  | _ => match s.launch? r.owner with | some l => l.gbarriers.getD r.index barrier0 | none => barrier0

/-- Replaces a barrier's state. -/
def State.setBarrier (s : State) (r : BarRef) (b : Barrier) : State :=
  match r.level with
  | 0 => s.modBlock r.owner fun x => { x with barriers := x.barriers.set r.index b }
  | 1 => s.modLaunch r.owner fun x => { x with cbarriers := x.cbarriers.set r.index b }
  | _ => s.modLaunch r.owner fun x => { x with gbarriers := x.gbarriers.set r.index b }

/-- Whether a party waits for phase `ph` of a barrier. -/
def State.waitsOn (s : State) (p : Party) (w : Wait) (r : BarRef) (ph : Nat) : Bool :=
  match w with
  | .barrier lv i n => n == ph && s.barRef p lv i == some r
  | .ring i n => n == ph && s.barRef p 0 i == some r
  | _ => false

/-- The parties that wait, with their waits. -/
def State.waiters (s : State) : List (Party × Wait) :=
  (s.warps.flatMap fun kv =>
    if kv.1 < Config.groups * Config.warpSlots then
      let g := kv.1 / Config.warpSlots
      let sl := kv.1 % Config.warpSlots
      (kv.2.paths.map fun x => (Party.path g sl x.1, x.2.wait)) ++ (match kv.2.vliw with | some x => [(Party.thread g sl, x.wait)] | none => [])
    else []) ++
  s.cores.filterMap fun kv => kv.2.seq.map fun q => (Party.seq kv.1, q.wait)

/-- A waiter goes on: its wait has been met. -/
def State.wake (s : State) (p : Party) (w : Wait) : State :=
  ((s.setWait p .none).setSynced p (some 2)).rouse (partyCore p) (match w with | .ring _ _ => 2 | _ => 1)

/-- A phase completes: flags clear, the phase inverts, every waiter wakes (spec/07 R204). The second part is the parties woken. -/
def State.completePhase (s : State) (r : BarRef) : State × List Party :=
  let b := s.barrier r
  let ph := 1 - b.phase
  let ws := s.waiters.filter fun x => s.waitsOn x.1 x.2 r ph
  (ws.foldl (fun s x => s.wake x.1 x.2) (s.setBarrier r { b with arrived := [], phase := ph }), ws.map (·.1))

/-- Whether an arrival by a member would complete the phase. -/
def Barrier.completes (b : Barrier) (m : Nat) : Bool := b.members.contains m && !b.arrived.contains m && b.members.all fun x => x == m || b.arrived.contains x

/-- An arrival (spec/07 R204): none at all for one that is no member or has arrived. The second part is the parties woken by a completed phase. -/
def State.arrive (s : State) (r : BarRef) (m : Nat) : State × Option (List Party) :=
  let b := s.barrier r
  if !b.members.contains m || b.arrived.contains m then (s, none)
  else if b.completes m then
    let x := s.completePhase r
    (x.1, some x.2)
  else (s.setBarrier r { b with arrived := b.arrived ++ [m] }, none)

/-- The record of a completed phase (spec/22 R475, 0x12). -/
def State.phaseRecord (s : State) (e : Env) (r : BarRef) (woken : List Party) : State :=
  if e.quiet then s
  else
    let ids := woken.map fun p => (s.bidWid p).2
    let idx := r.index % (if r.level = 0 then 16 else if r.level = 1 then 8 else 4)
    let v0 := r.level + idx * 2 ^ 4 + (s.barrier r).phase * 2 ^ 8 + e.w.wid * 2 ^ 16 + b2n (ids.contains 64) * 2 ^ 24
    let v1 := ((ids.filter (· < 64)).eraseDups.map (2 ^ ·)).sum
    s.decision (s.partyPart e.party) e.core e.group e.w.wid 0x12 v0 v1

/-- An arrival of an issuer, with its record. -/
def State.arriveFor (s : State) (e : Env) (r : BarRef) : State :=
  match s.arrive r (memberKey (e.w.bid, e.w.wid)) with
  | (s, some woken) => s.phaseRecord e r woken
  | (s, none) => s

/-- The phases that a departure of a member would complete. -/
def Barrier.leaves (b : Barrier) (m : Nat) : Bool :=
  b.members.contains m && (b.members.any (· != m)) && b.members.all fun x => x == m || b.arrived.contains x

/-- The barriers of a party at every level. -/
def State.barriersOf (s : State) (p : Party) : List BarRef :=
  (range 0 16).filterMap (s.barRef p 0) ++ (range 0 8).filterMap (s.barRef p 1) ++ (range 0 4).filterMap (s.barRef p 2)

/-- A member leaves one barrier (spec/07 R205). -/
def State.leaveBarrier (s : State) (r : BarRef) (m : Nat) : State × Option (List Party) :=
  let b := s.barrier r
  if !b.members.contains m then (s, none)
  else
    let s' := s.setBarrier r { b with members := b.members.filter (· != m), arrived := b.arrived.filter (· != m) }
    if b.leaves m then
      let x := s'.completePhase r
      (x.1, some x.2)
    else (s', none)

/-- A party that ends leaves every barrier and ring role; completed phases are recorded (spec/07 R205). -/
def State.depart (s : State) (e : Env) : State :=
  let m := memberKey (e.w.bid, e.w.wid)
  let s := (s.barriersOf e.party).foldl (fun s r => match s.leaveBarrier r m with
    | (s, some woken) => s.phaseRecord e r woken
    | (s, none) => s) s
  match s.partyBlock e.party with
  | none => s
  | some (n, _) => s.modBlock n fun b => { b with rings := b.rings.mapVals fun _ x =>
      { x with producers := x.producers.filter (· != e.w.wid), consumers := x.consumers.filter (· != e.w.wid) } }

/-- The decision records a departure writes. -/
def State.departRecords (s : State) (e : Env) : Nat :=
  ((s.barriersOf e.party).filter fun r => (s.barrier r).leaves (memberKey (e.w.bid, e.w.wid))).length

/-! ### Arrivals and waits as an issue makes them -/

/-- The scope of a barrier level, as an ORD code (spec/07 R203). -/
def levelScope : Nat → Nat
  | 0 => 2 | 1 => 3 | _ => 5

/-- Counts an arrival for deterministic mode (spec/11 R320). -/
def State.countArrival (s : State) (p : Party) (level : Nat) : State :=
  let up (k : Keys) : Keys := match level with
    | 0 => { k with block := k.block + 1 }
    | 1 => { k with cluster := k.cluster + 1 }
    | _ => { k with grid := k.grid + (match s.partyLaunch p with | some l => b2n (l.record.getLsbD 61) | none => 0) }
  match p with
  | .seq c => s.modCore c fun x => { x with seq := x.seq.map fun q => { q with keys := up q.keys } }
  | p => match partyKey p with
    | some k => s.modWarp k fun w => { w with keys := up w.keys }
    | none => s

/-- A sequencer's releases cover what an MWAIT has completed, and wait for nothing (spec/08 R233). -/
def Env.releaseGate (e : Env) (s : State) (scope : Nat) : Gate :=
  match e.view with
  | .stream => .ok
  | _ => if releaseWaits s e.party scope then .wait .fence else .ok

/-- What stands before an arrival: SATURATE at a block barrier, the release, room for a record of the phase it completes. -/
def arriveGate (e : Env) (s : State) (level : Nat) (r : Option BarRef) : Gate :=
  match (if level = 0 && e.view != .stream then saturateGate e.w.csr else .ok) with
  | .ok => match e.releaseGate s (levelScope level) with
    | .ok => e.decisionGate s (match r with | some r => b2n ((s.barrier r).completes (memberKey (e.w.bid, e.w.wid))) | none => 0)
    | g => g
  | g => g

/-- The effect of an arrival. -/
def arriveEff (e : Env) (s : State) (level : Nat) (r : Option BarRef) : State :=
  let s := s.countArrival e.party level
  match r with
  | some r => s.arriveFor e r
  | none => s

/-- The phase of a barrier that may not exist. -/
def State.phaseOf (s : State) : Option BarRef → Nat
  | some r => (s.barrier r).phase
  | none => 0

/-- A wait until the phase differs from `ph`; one that has been woken passes (spec/07 R204). -/
def phaseGate (e : Env) (s : State) (r : Option BarRef) (ph : Nat) (w : Wait) : Gate :=
  if s.syncedOf e.party = some 2 || s.phaseOf r != ph then .ok else .wait w

/-- The effect of a wait that has passed: an acquire. -/
def waitEff (e : Env) (s : State) (level : Nat) : State := (s.setSynced e.party none).acquire e.party (levelScope level)

/-- BAR sync's gate: its first attempt records the phase and arrives, and it then waits for the phase to change. -/
def syncGate (e : Env) (s : State) (level idx : Nat) : Gate :=
  let r := s.barRef e.party level idx
  match s.syncedOf e.party with
  | some p => phaseGate e s r p (.barrier level idx (1 - p))
  | none =>
    match arriveGate e s level r with
    | .ok =>
      let p := s.phaseOf r
      let done := match r with | some r => (s.barrier r).completes (memberKey (e.w.bid, e.w.wid)) | none => false
      if done then .ok else .hold ((arriveEff e s level r).setSynced e.party (some p)) (.barrier level idx (1 - p))
    | g => g

/-- BAR sync's effect: the arrival of an issuer that completes the phase itself, and the acquire. -/
def syncEff (e : Env) (s : State) (level idx : Nat) : State :=
  let r := s.barRef e.party level idx
  waitEff e (if (s.syncedOf e.party).isNone then arriveEff e s level r else s) level

/-- The index of a barrier or ring. -/
def idxOf (w : IWord) : Nat := match w.a with | .small n => n.toNat | _ => 0
/-- The phase e of a wait form: bit 0 of its operand. -/
def phaseArg (e : Env) (w : IWord) : Nat := e.u64 w w.b % 2
/-- The level of a BAR or BARQ. -/
def barLevel (w : IWord) : Nat := bits w.ext.toNat 2 2

/-! ### BAR and BARQ (spec/07 R204, R206) -/

/-- What the record of the phase that an arrival completes takes of a bundle's room. -/
def arriveRoom (e : Env) (s : State) (r : Option BarRef) : LogRoom :=
  ⟨0, e.decisionRoom s (match r with | some r => b2n ((s.barrier r).completes (memberKey (e.w.bid, e.w.wid))) | none => 0)⟩

/-- The forms of an arrival. -/
def arriveSem (op : Nat) (w : IWord) (level : Nat) : Sem :=
  { op := op, w := w, gate := fun e s => arriveGate e s level (s.barRef e.party level (idxOf w)),
    eff := fun e s => arriveEff e s level (s.barRef e.party level (idxOf w)),
    room := fun e s => arriveRoom e s (s.barRef e.party level (idxOf w)) }
/-- The forms of a wait. -/
def waitSem (op : Nat) (w : IWord) (level : Nat) : Sem :=
  { op := op, w := w,
    gate := fun e s => phaseGate e s (s.barRef e.party level (idxOf w)) (phaseArg e w) (.barrier level (idxOf w) (1 - phaseArg e w)),
    eff := fun e s => waitEff e s level }
/-- The forms of a sync. -/
def syncSem (op : Nat) (w : IWord) (level : Nat) : Sem :=
  { op := op, w := w, gate := fun e s => syncGate e s level (idxOf w), eff := fun e s => syncEff e s level (idxOf w),
    room := fun e s => if (s.syncedOf e.party).isSome then ⟨0, 0⟩ else arriveRoom e s (s.barRef e.party level (idxOf w)) }

/-- BAR arrive. -/
def semBarArrive (w : IWord) : Sem := arriveSem 0xA0 w (barLevel w)
/-- BAR arrive issues. -/
def execBarArrive (w : IWord) (s : State) : Host.Outcome State Fault Refusal := runSem (semBarArrive w) s
/-- BAR wait. -/
def semBarWait (w : IWord) : Sem := waitSem 0xA0 w (barLevel w)
/-- BAR wait issues. -/
def execBarWait (w : IWord) (s : State) : Host.Outcome State Fault Refusal := runSem (semBarWait w) s
/-- BAR sync. -/
def semBarSync (w : IWord) : Sem := syncSem 0xA0 w (barLevel w)
/-- BAR sync issues. -/
def execBarSync (w : IWord) (s : State) : Host.Outcome State Fault Refusal := runSem (semBarSync w) s

/-- BARQ's value: members arrived, and the phase in bit 32. -/
def barqValue (s : State) (r : Option BarRef) : Nat :=
  match r with
  | some r => let b := s.barrier r; b.arrived.length % 2 ^ 32 + b.phase * 2 ^ 32
  | none => 0
/-- BARQ. -/
def semBarq (w : IWord) : Sem :=
  { op := 0xA1, w := w, gate := fun _ _ => .ok,
    eff := fun e s => s.commit e (wordLat e 0xA1 w) (e.sResult w (barqValue s (s.barRef e.party (barLevel w) (idxOf w)))) }
/-- BARQ issues. -/
def execBarq (w : IWord) (s : State) : Host.Outcome State Fault Refusal := runSem (semBarq w) s

/-! ### Rings (spec/07 R208, R209) -/

/-- The ring a party names, when its block declares it. -/
def State.ringOf (s : State) (p : Party) (r : Nat) : Option Ring :=
  match s.partyBlock p with
  | some (_, b) => b.rings.get? r
  | none => none

/-- The cursors of a party. -/
def State.cursorsOf (s : State) (p : Party) : List Cursor :=
  match p with
  | .seq c => match (s.core c).seq with | some q => q.rings | none => []
  | p => match partyKey p with | some k => (s.warp k).rings | none => []

/-- A party's cursor on a ring. -/
def State.cursorOf (s : State) (p : Party) (r : Nat) : Cursor := ((s.cursorsOf p)[r]?).getD ⟨0, 0⟩

/-- Whether a party holds a role of a ring. -/
def Ring.has (x : Ring) (producer : Bool) (wid : Nat) : Bool := if producer then x.producers.contains wid else x.consumers.contains wid

/-- The full barrier of a cursor's stage, or its empty barrier. -/
def Ring.bar (x : Ring) (full : Bool) (c : Cursor) : Nat := x.base + 2 * c.stage + (if full then 0 else 1)

/-- A cursor after one stage. -/
def Cursor.advance (c : Cursor) (depth : Nat) : Cursor := if c.stage + 1 = depth then ⟨0, 1 - c.lap⟩ else ⟨c.stage + 1, c.lap⟩

/-- Moves a party's cursor on a ring. -/
def State.advanceCursor (s : State) (p : Party) (r depth : Nat) : State :=
  let l := (s.cursorsOf p).set r ((s.cursorOf p r).advance depth)
  match p with
  | .seq c => s.modCore c fun x => { x with seq := x.seq.map fun q => { q with rings := l } }
  | p => match partyKey p with
    | some k => s.modWarp k fun w => { w with rings := l }
    | none => s

/-- RACQ's gate: .p waits until E's phase is the lap, .c until F's phase is not; nothing for a party without the role. -/
def racqGate (producer : Bool) (w : IWord) (e : Env) (s : State) : Gate :=
  match s.ringOf e.party (idxOf w) with
  | none => .ok
  | some x =>
    if !x.has producer e.w.wid then .ok
    else
      let c := s.cursorOf e.party (idxOf w)
      let i := x.bar (!producer) c
      let ph := if producer then 1 - c.lap else c.lap
      phaseGate e s (s.barRef e.party 0 i) ph (.ring i (1 - ph))
/-- RACQ's effect: an acquire at .block. -/
def racqEff (producer : Bool) (w : IWord) (e : Env) (s : State) : State :=
  match s.ringOf e.party (idxOf w) with
  | some x => if x.has producer e.w.wid then waitEff e s 0 else s
  | none => s
/-- What stands before RCOMMIT or RREL. -/
def ringGate (producer : Bool) (w : IWord) (e : Env) (s : State) : Gate :=
  match s.ringOf e.party (idxOf w) with
  | some x => if x.has producer e.w.wid then arriveGate e s 0 (s.barRef e.party 0 (x.bar producer (s.cursorOf e.party (idxOf w)))) else .ok
  | none => .ok
/-- RCOMMIT and RREL: the arrival at the stage's full or empty barrier, and the cursor's advance. -/
def ringEff (producer : Bool) (w : IWord) (e : Env) (s : State) : State :=
  match s.ringOf e.party (idxOf w) with
  | some x =>
    if x.has producer e.w.wid then
      let s := arriveEff e s 0 (s.barRef e.party 0 (x.bar producer (s.cursorOf e.party (idxOf w))))
      s.advanceCursor e.party (idxOf w) x.depth
    else s
  | none => s

/-- RACQ.p. -/
def semRacqP (w : IWord) : Sem := { op := 0xA2, w := w, gate := racqGate true w, eff := racqEff true w }
/-- RACQ.p issues. -/
def execRacqP (w : IWord) (s : State) : Host.Outcome State Fault Refusal := runSem (semRacqP w) s
/-- RACQ.c. -/
def semRacqC (w : IWord) : Sem := { op := 0xA2, w := w, gate := racqGate false w, eff := racqEff false w }
/-- RACQ.c issues. -/
def execRacqC (w : IWord) (s : State) : Host.Outcome State Fault Refusal := runSem (semRacqC w) s
/-- RCOMMIT. -/
def semRcommit (w : IWord) : Sem := { op := 0xA3, w := w, gate := ringGate true w, eff := ringEff true w }
/-- RCOMMIT issues. -/
def execRcommit (w : IWord) (s : State) : Host.Outcome State Fault Refusal := runSem (semRcommit w) s
/-- RREL. -/
def semRrel (w : IWord) : Sem := { op := 0xA4, w := w, gate := ringGate false w, eff := ringEff false w }
/-- RREL issues. -/
def execRrel (w : IWord) (s : State) : Host.Outcome State Fault Refusal := runSem (semRrel w) s

/-! ### The sequencer's barriers and rings (spec/08 R232) -/

/-- MBAR arrive. -/
def semMbarArrive (w : IWord) : Sem := arriveSem 0xC8 w 0
/-- MBAR arrive issues. -/
def execMbarArrive (w : IWord) (s : State) : Host.Outcome State Fault Refusal := runSem (semMbarArrive w) s
/-- MBAR wait. -/
def semMbarWait (w : IWord) : Sem := waitSem 0xC8 w 0
/-- MBAR wait issues. -/
def execMbarWait (w : IWord) (s : State) : Host.Outcome State Fault Refusal := runSem (semMbarWait w) s
/-- MBAR sync. -/
def semMbarSync (w : IWord) : Sem := syncSem 0xC8 w 0
/-- MBAR sync issues. -/
def execMbarSync (w : IWord) (s : State) : Host.Outcome State Fault Refusal := runSem (semMbarSync w) s
/-- MBAR racq.p. -/
def semMbarRacqP (w : IWord) : Sem := { op := 0xC8, w := w, gate := racqGate true w, eff := racqEff true w }
/-- MBAR racq.p issues. -/
def execMbarRacqP (w : IWord) (s : State) : Host.Outcome State Fault Refusal := runSem (semMbarRacqP w) s
/-- MBAR racq.c. -/
def semMbarRacqC (w : IWord) : Sem := { op := 0xC8, w := w, gate := racqGate false w, eff := racqEff false w }
/-- MBAR racq.c issues. -/
def execMbarRacqC (w : IWord) (s : State) : Host.Outcome State Fault Refusal := runSem (semMbarRacqC w) s
/-- MBAR rcommit. -/
def semMbarRcommit (w : IWord) : Sem := { op := 0xC8, w := w, gate := ringGate true w, eff := ringEff true w }
/-- MBAR rcommit issues. -/
def execMbarRcommit (w : IWord) (s : State) : Host.Outcome State Fault Refusal := runSem (semMbarRcommit w) s
/-- MBAR rrel. -/
def semMbarRrel (w : IWord) : Sem := { op := 0xC8, w := w, gate := ringGate false w, eff := ringEff false w }
/-- MBAR rrel issues. -/
def execMbarRrel (w : IWord) (s : State) : Host.Outcome State Fault Refusal := runSem (semMbarRrel w) s

/-! ### Path merges (spec/07 R207; spec/05 R137) -/

/-- Merges paths, given by index: the lowest-numbered takes the union of the masks, goes to `pc` with `rpc`, and is ready; the others are free. -/
def Warp.merge (w : Warp) (l : List Nat) (pc : Nat) (rpc : Option Nat) : Warp :=
  match l with
  | [] => w
  | a :: r =>
    let low := r.foldl min a
    let mask := l.foldl (fun m i => match w.paths.get? i with | some p => m ||| p.mask | none => m) (0 : Word32)
    let ready := l.foldl (fun m i => match w.paths.get? i with | some p => max m p.ready | none => m) 0
    let old := w.paths.getD low State.path0
    { w with paths := Tbl.set (w.paths.filter fun kv => !l.contains kv.1) low
               { old with pc := pc, rpc := rpc, mask := mask, wait := .none, ready := ready, synced := none, slept := false, released := false } }

/-- Where a path that waits in a WARPSYNC goes on. -/
def Path.syncNext (p : Path) : Option Nat := match p.wait with | .warpsync n => some n | _ => none

/-- Once every live path waits in a WARPSYNC, those that wait at one address merge and go on after it (spec/07 R207). -/
def Warp.warpsync (w : Warp) : Warp :=
  if w.paths.any fun kv => kv.2.syncNext.isNone then w
  else
    ((w.paths.map fun kv => kv.2.pc).eraseDups).foldl (fun (w' : Warp) pc =>
      let here := w.paths.filter fun kv => kv.2.pc == pc
      let low := (here.map (·.1)).foldl min ((here.map (·.1)).headD 0)
      let p := w.paths.getD low State.path0
      w'.merge (here.map (·.1)) (p.syncNext.getD 0) p.rpc) w

/-- WARPSYNC's effect: the path waits at it, and the merge takes place once all do. -/
def warpsyncEff (e : Env) (s : State) : State := ((s.setPc e.party e.pc).setWait e.party (.warpsync e.next)).modWarp e.key Warp.warpsync
/-- WARPSYNC. -/
def semWarpsync (w : IWord) : Sem := { op := 0xA5, w := w, gate := fun _ _ => .ok, eff := fun e s => warpsyncEff e s }
/-- WARPSYNC issues. -/
def execWarpsync (w : IWord) (s : State) : Host.Outcome State Fault Refusal := runSem (semWarpsync w) s

end Sys2Proof.Machine
end

