-- ==== Sys2Proof/Machine/Fetch.lean ====
section
/-!
DEFINITION. Fetching an item's bytes: from the locked instruction store, or from code through the page tables and what the core's fetch holds
(spec/03 R74, R83, R84; spec/10 R275; spec/19 R418, R424, R427; spec/22 R462).
-/
namespace Sys2Proof.Machine

open Sys2Proof

/-- The outcome of reading code. -/
inductive Fetched where
  | ok (s : State) (v : Nat)
  | fault (kind level va : Nat)
  /-- The bytes wait: for the end of a refresh window, or to enter the replay buffer while it is full (spec/10 R285; spec/19 R427). -/
  | held (refresh : Bool) (va : Nat)
  | trap (t : Trap)
deriving DecidableEq, Repr

/-- Lines a core's fetch holds: 64 KiB (spec/00 R1). -/
def fetchLines : Nat := 1024

/-- The core's fetch gives up a line when it is full: the one of the lowest address that is not among `keep`, the lines of the read it serves (DESIGN CHOICE,
log entry 18). -/
def Core.evictCode (c : Core) (keep : List Nat) : Core :=
  if c.icache.length < fetchLines then c
  else match c.icache.find? fun kv => !keep.contains kv.1 with
    | some (l, _) => { c with icache := c.icache.erase l, code := c.code.filter fun x => x.pa / 64 != l }
    | none => c

/-- A code line that a core's fetch takes, if it does not hold it; the lines of `keep` stay. -/
def State.fetchLine (s : State) (core : Nat) (keep : List Nat) (line : Nat) : State :=
  if ((s.core core).icache.get? line).isSome then s
  else s.modCore core fun c => let c := c.evictCode keep; { c with icache := c.icache.set line (homeLine s line) }

/-- A byte of code as a core's fetch reads it. -/
def codeByte (c : Core) (pa : Nat) : Byte := BitVec.ofNat 8 (vbits (c.icache.getD (pa / 64) 0) (8 * (pa % 64)) 8)

/-- Reads `n` bytes of code of a partition. -/
def fetchCode (s : State) (core part va n : Nat) : Fetched :=
  match translate s core part .fetch [(va, n)] with
  | .trap t => .trap t
  | .fault k lv v => .fault k lv v
  | .ok pages =>
    match rangeTrap s .fetch pages va n with
    | some t => .trap t
    | none =>
      if missesFull s core part .fetch [(va, n)] then .held false va else
      let pas := pasVia pages ((List.range n).map fun i => (va + i) % 2 ^ 57)
      let lines := (pas.map (· / 64)).eraseDups
      let fresh := lines.filter fun l => ((s.core core).icache.get? l).isNone
      if fresh.any fun l => inRefresh s (64 * l) then .held true va else
      match readUe s (fresh.map (64 * ·)) with
      | some c => .trap (ueTrap c va)
      | none =>
        let s := fresh.foldl (fun s l => (s.correct l).fetchLine core lines l) (s.learn core pages)
        .ok s (leNat (pas.map (codeByte (s.core core))))

/-- Reads `n` bytes at a position of a party: the locked store is read by offset. -/
def fetchAt (s : State) (core part : Nat) (locked : Bool) (va n : Nat) : Fetched :=
  if locked then .ok s (lockedNat (s.core core) va n) else fetchCode s core part (va % 2 ^ 57) n

/-- Whether a party writes no records of kinds 1 and 2: its handler bit is set, or it is a service context (spec/22 R474). -/
def State.quietParty (s : State) (p : Party) : Bool :=
  match p with
  | .service _ => true
  | p => match partyKey p with | some k => (s.warp k).handler.isSome | none => false

/-- Whether there is no room for the record of the retry of a party's fetch, or of a read of its item (spec/22 R474, R475). -/
def State.retryFull (s : State) (p : Party) : Bool := !s.quietParty p && !logFits s (s.partyPart p) 1 1

/-- A fetch of a party, or a read its item makes before it issues, enters the replay buffer, with room for the record of its retry. -/
def State.awaitRead (s : State) (p : Party) (va : Nat) (code : Bool) (fault : Option (Nat × Nat × Nat × Nat)) : State :=
  let part := s.partyPart p
  let room := !s.quietParty p && logOn s part 1
  (if room then s.reserveLog part (partyGroup p) 1 1 else s).enterReplay (partyCore p) part (.fetch p va code) (s.quietParty p) room fault

/-- The gate of a form whose own read waits in the replay buffer. -/
def State.awaitGate (s : State) (p : Party) (va : Nat) (code : Bool) (fault : Option (Nat × Nat × Nat × Nat)) : Gate :=
  if s.retryFull p then .trap (logFull 1 1) else .hold (s.awaitRead p va code fault) .fetch

/-- A party whose fetch faults waits in the replay buffer (spec/19 R427); LOGFULL when the record of its retry finds no room. -/
def State.fetchFault (s : State) (p : Party) (kind level va : Nat) : State :=
  if s.retryFull p then s.raise p (s.pcOf p) false (logFull 1 1) else (s.awaitRead p va true (some (va, 3, kind, level))).setWait p .fetch

/-- A party whose fetch waits: for a refresh window it tries again, for room in the replay buffer it stands in line. -/
def State.fetchHeld (s : State) (p : Party) (refresh : Bool) (va : Nat) : State :=
  if refresh then s.setWait p .refresh
  else if s.retryFull p then s.raise p (s.pcOf p) false (logFull 1 1)
  else (s.awaitRead p va true none).setWait p .fetch

/-- The gate of a form whose own read of code waits. -/
def State.heldGate (s : State) (p : Party) (refresh : Bool) (va : Nat) : Gate :=
  if refresh then .wait .refresh else s.awaitGate p va true none

/-- The address after the bundle whose header stands at an address (spec/03 R84). -/
def afterHeader (va header : Nat) : Nat := (va + itemSize (BitVec.ofNat 64 header)) % 2 ^ 57

/-- The address of the bundle after END: what a form that names it must read first (spec/05 R143, R147). -/
inductive AfterEnd where
  | at (s : State) (va : Nat)
  | gate (g : Gate)
deriving DecidableEq, Repr

/-- Reads the header at END. -/
def Env.afterEnd (e : Env) (s : State) (last : Nat) : AfterEnd :=
  match fetchAt s e.core (s.partyPart e.party) e.locked last 8 with
  | .ok s h => .at s (afterHeader last h)
  | .trap t => .gate (.trap t)
  | .fault k lv va => .gate (s.awaitGate e.party va true (some (va, 3, k, lv)))
  | .held r va => .gate (s.heldGate e.party r va)

/-- The gate of a form that reads the header at END. -/
def AfterEnd.toGate : AfterEnd → Gate
  | .at _ _ => .ok
  | .gate g => g

end Sys2Proof.Machine
end

