-- ==== Sys2Proof/Machine/Control.lean ====
section
/-!
DEFINITION. Control forms: branches, calls, JOIN, EXIT, loops, MODE, NOP and SLEEP, the end of a warp and the retirement of a block
(spec/05 R133 to R150; spec/01 R43; spec/09 R268; spec/14 R366).
-/
namespace Sys2Proof.Machine

open Sys2Proof

/-! ### Targets and transfers -/

/-- The address a target operand names (spec/05 R133). -/
def Env.target (e : Env) (w : IWord) (o : Operand) : Nat :=
  match o with
  | .small n => wrap 57 ((e.pc : Int) + 8 * smallInt n)
  | .lit true j => litRaw w true j % 2 ^ 57
  | .lit false j => wrap 57 ((e.pc : Int) + sInt 32 (litRaw w false j))
  | .sreg n => (e.w.sreg n.val).toNat % 2 ^ 57 / 8 * 8
  | _ => 0

/-- The index of the issuing path in records; a thread counts as path 0. -/
def Env.pathNo (e : Env) : Nat := match e.party with | .path _ _ i => i | _ => 0

/-- Moves the issuer to an address, and traces the transfer. -/
def State.goto (s : State) (e : Env) (pc : Nat) : State :=
  match e.view with
  | .slot _ => (s.jump e.party pc).trace e [(0, pc, 0xFFFFFFFF)]
  | .simt => (s.setPc e.party pc).trace e [(e.pathNo, pc, e.mask.toNat)]
  | .stream => s.setPc e.party pc

/-- Room for the trace records of an issue that gives `n` of them. -/
def Env.moveGate (e : Env) (s : State) (n : Nat) : Gate := match e.view with | .stream => .ok | _ => e.traceGate s n

/-- A uniform form that moves the issuer when `taken`. -/
def uniformSem (op : Nat) (w : IWord) (gate : Env → Gate) (taken : Env → Bool) (target : Env → Nat) (before : Env → State → State) : Sem :=
  { op := op, w := w
    gate := fun e s => match gate e with
      | .ok => e.moveGate s (b2n (taken e))
      | g => g
    eff := fun e s => let s := before e s; if taken e then s.goto e (target e) else s
    room := fun e s => e.traceRoom s (b2n (taken e)) }

/-! ### BRA and BRX (spec/05 R135, R136) -/

/-- The threads of the issuing path whose predicate test passes. -/
def Env.takenSet (e : Env) (w : IWord) : Word32 :=
  BitVec.ofNat 32 ((e.lanesOn w).map (2 ^ ·)).sum

/-- The lowest-numbered free entry of a path table. -/
def Warp.freePath (w : Warp) : Option Nat := (List.range 32).find? fun i => (w.paths.get? i).isNone

/-- The paths that wait at JOIN address `pc`. -/
def Path.joins (p : Path) (pc : Nat) : Bool := !p.held && p.pc == pc && (match p.wait with | .join _ _ => true | _ => false)

/-- JOIN addresses at which every path that rejoins there waits. -/
def Warp.joinable (w : Warp) : List Nat :=
  ((w.paths.filterMap fun kv => kv.2.rpc).eraseDups).filter fun j =>
    (w.paths.filter fun kv => kv.2.rpc == some j).all fun kv => kv.2.joins j

/-- One merge at a JOIN address. -/
def Warp.joinAt (w : Warp) (j : Nat) : Warp :=
  let l := (w.paths.filter fun kv => kv.2.rpc == some j).map (·.1)
  let low := l.foldl min (l.headD 0)
  match (w.paths.getD low State.path0).wait with
  | .join n r => w.merge l n r
  | _ => w

/-- Every merge that a JOIN, a merge or an EXIT makes due. -/
def Warp.joinAll (w : Warp) : Warp := w.joinable.foldl Warp.joinAt w

/-- Records of the paths that merges leave: those whose mask grew or whose entry was waiting at the JOIN. -/
def Warp.mergeRecords (w : Warp) : List (Nat × Nat × Nat) :=
  w.joinable.map fun j =>
    let l := (w.paths.filter fun kv => kv.2.rpc == some j).map (·.1)
    let low := l.foldl min (l.headD 0)
    let m := l.foldl (fun m i => match w.paths.get? i with | some p => m ||| p.mask | none => m) (0 : Word32)
    (low, (match (w.paths.getD low State.path0).wait with | .join n _ => n | _ => 0), m.toNat)

/-- A warp whose path `i` splits: the entry keeps the fall-through set and entry `j` takes the taken set. -/
def Warp.split (x : Warp) (e : Env) (w : IWord) (i j target : Nat) : Warp :=
  let t := e.takenSet w
  let p := x.paths.getD i State.path0
  let a := { p with mask := e.mask &&& ~~~t, rpc := if w.ext.getLsbD 0 then some (e.target w w.b) else p.rpc }
  let b := { a with pc := target, mask := t, wait := .none, synced := none, slept := false, held := false, steps := 0, released := false }
  { x with paths := Tbl.set (Tbl.set x.paths i a) j b }

/-- The warp a SIMT branch leaves, and its records: no split when either set is empty. With RC = 1 the path leaves its RPC, and paths that wait at a
JOIN there may now merge (spec/05 R137; notes/assumptions/31.md). -/
def Warp.branch (x : Warp) (e : Env) (w : IWord) (target : Nat) : Warp × List (Nat × Nat × Nat) :=
  match x.freePath with
  | none => (x, [])
  | some j =>
    let y := x.split e w e.pathNo j target
    let l := [(e.pathNo, e.next, (e.mask &&& ~~~(e.takenSet w)).toNat), (j, target, (e.takenSet w).toNat)]
    if w.ext.getLsbD 0 then (y.joinAll, l ++ y.mergeRecords) else (y, l)

/-- How many records a SIMT branch gives: none when no thread goes, one when every thread does. -/
def Env.branchRecords (e : Env) (w : IWord) (target : Nat) : Nat :=
  let t := e.takenSet w
  if t = 0 then 0 else if t = e.mask then 1 else (e.w.branch e w target).2.length

/-- A SIMT branch. -/
def branchSimt (e : Env) (w : IWord) (target : Nat) (s : State) : State :=
  let t := e.takenSet w
  if t = 0 then s
  else if t = e.mask then s.goto e target
  else (s.modWarp e.key fun x => (x.branch e w target).1).trace e ((s.warp e.key).branch e w target).2

/-- BRA and BRX in a view. -/
def branchSem (op : Nat) (w : IWord) : Sem :=
  { op := op, w := w
    gate := fun e s => match e.view with
      | .simt => e.traceGate s (e.branchRecords w (e.target w w.a))
      | .slot _ => e.traceGate s (b2n (e.scalarPred w))
      | .stream => .ok
    eff := fun e s => match e.view with
      | .simt => branchSimt e w (e.target w w.a) s
      | .slot _ => if e.scalarPred w then s.goto e (e.target w w.a) else s
      | .stream => s.goto e (e.target w w.a)
    room := fun e s => e.traceRoom s (b2n (e.scalarPred w)) }

/-- BRA. -/
def semBra (w : IWord) : Sem := branchSem 0xD0 w
/-- BRA issues. -/
def execBra (w : IWord) (s : State) : Host.Outcome State Fault Refusal := runSem (semBra w) s
/-- BRX. -/
def semBrx (w : IWord) : Sem := branchSem 0xD1 w
/-- BRX issues. -/
def execBrx (w : IWord) (s : State) : Host.Outcome State Fault Refusal := runSem (semBrx w) s

/-! ### CALL and RET (spec/05 R139) -/

/-- A 64-bit value on its way to an s-register destination. -/
def State.sendS (s : State) (e : Env) (w : IWord) (lat v : Nat) : State :=
  match w.d with
  | .sreg n => if n.val = 0 then s else s.send e lat [{ reg := .s n.val, spec := encodeSpec w.d, value := v % 2 ^ 64, mask := 2 ^ 64 - 1 }]
  | _ => s

/-- CALL: the link register receives the address of what follows, and control moves. -/
def semCall (w : IWord) : Sem :=
  uniformSem 0xD2 w (fun _ => .ok) (fun _ => true) (fun e => e.target w w.a) fun e s => s.sendS e w 1 e.next
/-- CALL issues. -/
def execCall (w : IWord) (s : State) : Host.Outcome State Fault Refusal := runSem (semCall w) s
/-- RET. -/
def semRet (w : IWord) : Sem := uniformSem 0xD3 w (fun _ => .ok) (fun _ => true) (fun e => e.target w w.a) fun _ s => s
/-- RET issues. -/
def execRet (w : IWord) (s : State) : Host.Outcome State Fault Refusal := runSem (semRet w) s

/-! ### JOIN (spec/05 R137) -/

/-- A warp once a path has arrived at a JOIN. -/
def Warp.atJoin (w : Warp) (i pc next : Nat) (rpc : Option Nat) : Warp :=
  { w with paths := w.paths.modify i fun p => { p with pc := pc, wait := .join next rpc } }

/-- Whether the issuing path rejoins here. -/
def Env.rejoins (e : Env) : Bool :=
  match e.w.paths.get? e.pathNo with
  | some p => p.rpc == some e.pc
  | none => false

/-- JOIN's RPC operand. -/
def joinRpc (e : Env) (w : IWord) : Option Nat := if w.ext.getLsbD 0 then some (e.target w w.a) else none

/-- JOIN: a path whose RPC is this address waits, and the last one merges them all. -/
def semJoin (w : IWord) : Sem :=
  { op := 0xD4, w := w
    gate := fun e s => if e.rejoins then e.traceGate s (e.w.atJoin e.pathNo e.pc e.next (joinRpc e w)).mergeRecords.length else .ok
    eff := fun e s =>
      if e.rejoins then
        let s := s.modWarp e.key fun x => x.atJoin e.pathNo e.pc e.next (joinRpc e w)
        let l := (s.warp e.key).mergeRecords
        (s.modWarp e.key Warp.joinAll).trace e l
      else s }
/-- JOIN issues. -/
def execJoin (w : IWord) (s : State) : Host.Outcome State Fault Refusal := runSem (semJoin w) s

/-! ### EXIT, the end of a warp, and retirement (spec/05 R140; spec/07 R205; spec/09 R268) -/

/-- Whether a core's copy buffer still holds a command of a block. -/
def copiesOf (s : State) (core block : Nat) : Bool := (s.core core).copies.any fun c => c.blockKey == block

/-- A block whose last party has ended retires; its entry stays while copy commands of its parties are unfinished. -/
def State.retire (s : State) (block : Nat) : State :=
  match s.block? block with
  | none => s
  | some b =>
    if b.live.isEmpty then
      let s := s.modLaunch b.launch fun l => { l with retired := l.retired + 1 }
      if copiesOf s b.core block then s else { s with sched := { s.sched with blocks := s.sched.blocks.erase block } }
    else s

/-- A party leaves its block's live parties. -/
def State.leaveBlock (s : State) (block wid : Nat) : State := (s.modBlock block fun b => { b with live := b.live.filter (· != wid) }).retire block

/-- A lane group with no warp left has no mode (spec/09 R254). -/
def State.emptyGroup (s : State) (g : Nat) : State :=
  if s.warps.any fun kv => kv.1 < Config.groups * Config.warpSlots && kv.1 / Config.warpSlots == g then s
  else s.modGroup g fun x => { x with mode := .empty, running := none }

/-- A warp ends: it leaves its barriers and rings, its slot and its context are free, what it issued goes on without it. -/
def State.endWarp (s : State) (e : Env) : State :=
  match e.party with
  | .service _ => s
  | .seq _ => s
  | p =>
    let block := s.partyBlock p
    let s := (s.depart e).orphan p
    let s := s.outstanding e.core e.w.launch false
    let s := { s with warps := s.warps.erase e.key }
    let s := s.modGroup e.group fun g => { g with running := if g.running = some (e.key % Config.warpSlots) then none else g.running }
    let s := s.emptyGroup e.group
    match block with
    | some (n, _) => s.leaveBlock n e.w.wid
    | none => s

/-- The threads that an EXIT leaves on its path. -/
def Env.survivors (e : Env) (w : IWord) : Word32 := e.mask &&& ~~~(e.takenSet w)

/-- Whether an EXIT ends the whole warp or thread. -/
def Env.exitsAll (e : Env) (w : IWord) : Bool :=
  match e.view with
  | .slot _ => e.scalarPred w
  | _ => e.survivors w == 0 && e.w.paths.all fun kv => kv.1 == e.pathNo

/-- A warp without one path. -/
def Warp.dropPath (w : Warp) (i : Nat) : Warp := { w with paths := w.paths.erase i }

/-- EXIT. -/
def semExit (w : IWord) : Sem :=
  { op := 0xD5, w := w
    gate := fun e s =>
      if e.exitsAll w then e.decisionGate s (s.departRecords e)
      else match e.view with
        | .simt => if e.survivors w = 0 then e.traceGate s (e.w.dropPath e.pathNo).mergeRecords.length else .ok
        | _ => .ok
    eff := fun e s =>
      if e.exitsAll w then s.endWarp e
      else match e.view with
        | .simt =>
          if e.survivors w = 0 then
            let s := s.modWarp e.key fun x => x.dropPath e.pathNo
            let l := (s.warp e.key).mergeRecords
            (s.modWarp e.key fun x => x.joinAll.warpsync).trace e l
          else s.modWarp e.key fun x => { x with paths := x.paths.modify e.pathNo fun p => { p with mask := e.survivors w } }
        | _ => s
    room := fun e s => ⟨0, if e.exitsAll w then e.decisionRoom s (s.departRecords e) else 0⟩ }
/-- EXIT issues. -/
def execExit (w : IWord) (s : State) : Host.Outcome State Fault Refusal := runSem (semExit w) s

/-! ### Loops (spec/05 R142, R143, R147; spec/14 R366) -/

/-- The count register of LOOP.dec, and what it becomes. -/
def loopCount (e : Env) (w : IWord) : Nat := match w.d with | .sreg n => (e.w.sreg n.val).toNat | _ => 0

/-- LP's limits on LOOP.dec: a count above 4,096, or more than 2^20 taken branches and returns. -/
def lpLoop (e : Env) (count : Nat) (taken : Bool) : Gate :=
  match e.lpMode with
  | none => .ok
  | some m => if 4096 < count || (taken && decide (2 ^ 20 ≤ m.taken)) then .trap (lpIll 4) else .ok

/-- A taken loop branch counts against a logit program's limit. -/
def State.countTaken (s : State) (e : Env) : State :=
  match e.lpMode with
  | none => s
  | some _ => s.modWarp e.key fun x => { x with lp := x.lp.map fun m => { m with taken := m.taken + 1 } }

/-- LOOP.dec (spec/05 R142). Its count register is written with a latency of 1 (DESIGN CHOICE, log entry 66; spec/04 R106). -/
def semLoopDec (w : IWord) : Sem :=
  uniformSem 0xD6 w (fun e => lpLoop e (loopCount e w) (1 < loopCount e w)) (fun e => 1 < loopCount e w) (fun e => e.target w w.a)
    fun e s =>
      let s := s.sendS e w 1 (loopCount e w - 1)
      if 1 < loopCount e w then s.countTaken e else s
/-- LOOP.dec issues. -/
def execLoopDec (w : IWord) (s : State) : Host.Outcome State Fault Refusal := runSem (semLoopDec w) s

/-- N of LOOP.push. -/
def pushCount (e : Env) (w : IWord) : Nat := e.u64 w w.a % 2 ^ 32

/-- LOOP.push. -/
def semLoopPush (w : IWord) : Sem :=
  { op := 0xD6, w := w
    gate := fun e s => match lpLoop e (pushCount e w) false with
      | .ok =>
        if pushCount e w = 0 then
          match (e.afterEnd s (e.target w w.b)).toGate with
          | .ok => e.traceGate s 1
          | g => g
        else if 8 ≤ e.depth then .trap { cause := causeILLMODE, info := 6 }
        else .ok
      | g => g
    eff := fun e s =>
      if pushCount e w = 0 then
        match e.afterEnd s (e.target w w.b) with
        | .at s va => s.goto e va
        | .gate _ => s
      else
        let k := bits w.ext.toNat 2 4
        let l : Loop := { start := e.next, last := e.target w w.b, count := pushCount e w, pro := k, epi := k, stages := k + 1, iter := 0 }
        s.modWarp e.key fun x =>
          (range 9 16).foldl (fun (y : Warp) i => y.setMask i 0)
            (({ x with vliw := x.vliw.map fun (y : Vliw) => { y with loops := l :: y.loops } } : Warp).setMask 8 (BitVec.allOnes 1024))
    room := fun e s => e.traceRoom s (b2n (pushCount e w == 0)) }
/-- LOOP.push issues. -/
def execLoopPush (w : IWord) (s : State) : Host.Outcome State Fault Refusal := runSem (semLoopPush w) s

/-- The innermost entry that a taken LBREAK pops. -/
def Env.breaks (e : Env) (w : IWord) : Option Loop :=
  if e.scalarPred w then (match e.w.vliw with | some x => x.loops.head? | none => none) else none

/-- LBREAK. -/
def semLbreak (w : IWord) : Sem :=
  { op := 0xD7, w := w
    gate := fun e s => match e.breaks w with
      | none => .ok
      | some l => match (e.afterEnd s l.last).toGate with
        | .ok => e.traceGate s 1
        | g => g
    eff := fun e s => match e.breaks w with
      | none => s
      | some l => match e.afterEnd s l.last with
        | .at s va => (s.modWarp e.key fun x => { x with vliw := x.vliw.map fun y => { y with loops := y.loops.drop 1 } }).goto e va
        | .gate _ => s
    room := fun e s => e.traceRoom s (b2n (e.breaks w).isSome) }
/-- LBREAK issues. -/
def execLbreak (w : IWord) (s : State) : Host.Outcome State Fault Refusal := runSem (semLbreak w) s

/-- LP's limit on LBREAK.z and LBREAK.nz: a target at or before the form. -/
def lpBreak (w : IWord) (e : Env) : Gate := if e.lpMode.isSome && e.target w w.b ≤ e.pc then .trap (lpIll 5) else .ok

/-- Whether the register a conditional LBREAK tests is zero. -/
def breakZero (e : Env) (w : IWord) : Bool := e.u64 w w.a == 0

/-- LBREAK.z. -/
def semLbreakZ (w : IWord) : Sem := uniformSem 0xD7 w (lpBreak w) (fun e => breakZero e w) (fun e => e.target w w.b) fun _ s => s
/-- LBREAK.z issues. -/
def execLbreakZ (w : IWord) (s : State) : Host.Outcome State Fault Refusal := runSem (semLbreakZ w) s
/-- LBREAK.nz. -/
def semLbreakNz (w : IWord) : Sem := uniformSem 0xD7 w (lpBreak w) (fun e => !breakZero e w) (fun e => e.target w w.b) fun _ s => s
/-- LBREAK.nz issues. -/
def execLbreakNz (w : IWord) (s : State) : Host.Outcome State Fault Refusal := runSem (semLbreakNz w) s

/-! ### MODE (spec/05 R148 to R150; spec/01 R43) -/

/-- ILLMODE with a code. -/
def illMode (code : Nat) : Trap := { cause := causeILLMODE, info := code }

/-- The contexts of a lane group that a thread holds. -/
def State.contexts (s : State) (g : Nat) : List Nat :=
  s.warps.filterMap fun kv => if kv.1 < Config.groups * Config.warpSlots ∧ kv.1 / Config.warpSlots = g then kv.2.vliw.bind (·.ctx) else none

/-- The lowest-numbered free context of a lane group. -/
def State.freeContext (s : State) (g : Nat) : Option Nat := (List.range Config.contexts).find? fun c => !(s.contexts g).contains c

/-- MODE.vliw's conditions. -/
def modeVliwGate (e : Env) (s : State) : Gate :=
  if !e.w.inflight.isEmpty then .wait (.result ((e.w.inflight.map (·.due)).foldl max 0))
  else if (s.group e.group).mode != .dual then .trap (illMode 1)
  else if !(e.w.paths.length == 1 && e.mask == 0xFFFFFFFF) then .trap (illMode 2)
  else if !(s.pending e.key).isEmpty then .trap (illMode 3)
  else .ok

/-- MODE.vliw: the warp collapses; without a free context it waits for one. -/
def modeVliwEff (e : Env) (s : State) : State :=
  let c := s.freeContext e.group
  s.modWarp e.key fun w =>
    { w with paths := [], active := false, slots := 0,
             vliw := some { State.vliw0 with ctx := c, pc := e.next, wait := if c.isNone then .context else .none, locked := e.locked } }
/-- MODE.vliw. -/
def semModeVliw (w : IWord) : Sem := { op := 0xD8, w := w, gate := modeVliwGate, eff := fun e s => modeVliwEff e s }
/-- MODE.vliw issues. -/
def execModeVliw (w : IWord) (s : State) : Host.Outcome State Fault Refusal := runSem (semModeVliw w) s

/-- The oldest warp of a lane group that waits for a context. -/
def State.contextWaiter (s : State) (g : Nat) : Option Nat :=
  (s.warps.foldl (fun (acc : Option (Nat × Nat)) kv =>
    if kv.1 < Config.groups * Config.warpSlots && kv.1 / Config.warpSlots == g && (match kv.2.vliw with | some x => x.ctx.isNone | none => false) then
      match acc with
      | none => some (kv.1, kv.2.age)
      | some (k, a) => if kv.2.age < a then some (kv.1, kv.2.age) else some (k, a)
    else acc) none).map (·.1)

/-- MODE_VLIW_CONTEXT_TAKEN (spec/05 R150): the oldest waiting warp takes a free context. -/
def execModeVliwContextTaken (group slot : Nat) (s : State) : Host.Outcome State Fault Refusal :=
  match s.freeContext group with
  | some c =>
    if s.contextWaiter group = some (warpKey group slot) then
      .next ((s.modWarp (warpKey group slot) fun w => { w with vliw := w.vliw.map fun x => { x with ctx := some c, wait := .none } }).rouse (group / 2) 1)
    else .next s
  | none => .next s

/-- MODE.simt's conditions. -/
def modeSimtGate (e : Env) (s : State) : Gate :=
  if (s.group e.group).mode != .dual then .trap (illMode 1)
  else if !(s.pending e.key).isEmpty then .trap (illMode 3)
  else if !(headerOf e.header).yield then .trap (illMode 4)
  else if 0 < e.depth then .trap (illMode 5)
  else .ok

/-- MODE.simt: the thread expands. Results that a false YIELD left in flight fall due after as many cycles as they had slots to go. -/
def modeSimtEff (e : Env) (s : State) : State :=
  s.modWarp e.key fun w =>
    { w with vliw := none, active := false,
             inflight := w.inflight.map fun f => { f with due := e.acyc + (f.due - e.w.slots) },
             paths := [(0, { State.path0 with pc := e.next, mask := 0xFFFFFFFF, ready := e.acyc + 1 + (headerOf e.header).stall, locked := e.locked })] }
/-- MODE.simt. -/
def semModeSimt (w : IWord) : Sem := { op := 0xD8, w := w, gate := modeSimtGate, eff := fun e s => modeSimtEff e s }
/-- MODE.simt issues. -/
def execModeSimt (w : IWord) (s : State) : Host.Outcome State Fault Refusal := runSem (semModeSimt w) s

/-! ### NOP and SLEEP (spec/05 R141) -/

/-- NOP. -/
def semNop (w : IWord) : Sem := { op := 0xD9, w := w, gate := fun _ _ => .ok, eff := fun _ s => s }
/-- NOP issues. -/
def execNop (w : IWord) (s : State) : Host.Outcome State Fault Refusal := runSem (semNop w) s

/-- The limit of a SLEEP at its issue. -/
def sleepLimit (e : Env) (w : IWord) : Nat := if w.ext.getLsbD 0 then e.u64 w w.a else e.ccnt + e.u64 w w.a

/-- SLEEP: waits until ccnt reaches its limit. -/
def semSleep (w : IWord) : Sem :=
  { op := 0xDA, w := w
    gate := fun e s =>
      if s.sleptOf e.party || !e.scalarPred w || sleepLimit e w ≤ e.ccnt then .ok else .wait (.sleep (sleepLimit e w))
    eff := fun e s => s.setSlept e.party false }
/-- SLEEP issues. -/
def execSleep (w : IWord) (s : State) : Host.Outcome State Fault Refusal := runSem (semSleep w) s

/-- SLEEP_EXPIRY (spec/05 R141; spec/19 R431): a sleeper whose limit ccnt has reached goes on. -/
def execSleepExpiry (party : Party) (s : State) : Host.Outcome State Fault Refusal :=
  match s.waitOf party with
  | .sleep n => if n ≤ s.ccnt then .next (((s.setWait party .none).setSlept party true).rouse (partyCore party) 7) else .next s
  | _ => .next s

end Sys2Proof.Machine
end

