-- ==== Sys2Proof/Machine/System.lean ====
section
/-!
DEFINITION. System forms: control and status registers, counters, software traps and the return from a handler, user log records, and the device-side
launch queue (spec/08 R237 to R243; spec/09 R265 to R267; spec/20 R449).
-/
namespace Sys2Proof.Machine

open Sys2Proof

/-! ### GETSR, SETSR, CLK (spec/08 R237 to R239) -/

/-- The register number of GETSR and SETSR. -/
def csrNo (w : IWord) : Nat :=
  match w.a with
  | .small n => n.toNat
  | .lit p j => litRaw w p j
  | _ => 0

/-- Whether an earlier fadd, fmin or fmax of the issuer has not been performed (spec/07 R199). -/
def State.satfBusy (s : State) (p : Party) : Bool :=
  s.anyAcc p fun a => match a.kind with | .atom op _ => decide (9 ≤ op) | _ => false

/-- GETSR: the register as of its issue. -/
def semGetsr (w : IWord) : Sem :=
  { op := 0xE0, w := w
    gate := fun e s => if csrNo w = 0 && s.satfBusy e.party then .wait .satfAtomics else .ok
    eff := fun e s => s.commit e (wordLat e 0xE0 w) (e.sResult w (csrRead s e.core e.group (s.partyPart e.party) e.w (csrNo w))) }
/-- GETSR issues. -/
def execGetsr (w : IWord) (s : State) : Host.Outcome State Fault Refusal := runSem (semGetsr w) s

/-- SETSR's value. -/
def setsrValue (e : Env) (w : IWord) : Word64 := BitVec.ofNat 64 (e.u64 w w.b)

/-- SETSR: a value of 5 to 7 for RMODE.MODE is ILLOP (spec/01 R36). An SFTLOAD whose first wait is over by then stays past it (spec/06 R183). -/
def semSetsr (w : IWord) : Sem :=
  { op := 0xE1, w := w
    gate := fun e _ => if e.scalarPred w && csrNo w = 1 && 4 < (setsrValue e w).toNat % 8 then .trap { cause := causeILLOP, info := 9 } else .ok
    eff := fun e s =>
      if e.scalarPred w then
        (s.openSft e.core).modWarp e.key fun x => { x with csr := csrWrite x.csr (logOn s (s.partyPart e.party) 0) (csrNo w) (setsrValue e w) }
      else s }
/-- SETSR issues. -/
def execSetsr (w : IWord) (s : State) : Host.Outcome State Fault Refusal := runSem (semSetsr w) s

/-- CLK's value. -/
def clkValue (e : Env) (w : IWord) : Nat :=
  match w.ext.toNat with
  | 0 => e.ccnt
  | 1 => e.acyc
  | _ => e.w.committed
/-- CLK. -/
def semClk (w : IWord) : Sem :=
  { op := 0xE7, w := w, gate := fun _ _ => .ok, eff := fun e s => s.commit e (wordLat e 0xE7 w) (e.sResult w (clkValue e w)) }
/-- CLK issues. -/
def execClk (w : IWord) (s : State) : Host.Outcome State Fault Refusal := runSem (semClk w) s

/-! ### Software traps (spec/08 R240) -/

/-- A form that raises a trap when its predicate passes. -/
def trapSem (op : Nat) (w : IWord) (t : Env → Trap) : Sem :=
  { op := op, w := w, gate := fun e _ => if e.scalarPred w then .trap (t e) else .ok, eff := fun _ s => s }

/-- The value TRAP puts in INFO: a class-00 operand supplies the word of the lowest-numbered thread. -/
def trapValue (e : Env) (w : IWord) : Nat :=
  match w.b with
  | .vec _ _ => e.elem w .n32 true w.b 0 e.leader 0
  | o => e.u64 w o % 2 ^ 32

/-- TRAP. -/
def semTrap (w : IWord) : Sem := trapSem 0xE2 w fun e => { cause := csrNo w, info := 2 ^ 38 + trapValue e w }
/-- TRAP issues. -/
def execTrap (w : IWord) (s : State) : Host.Outcome State Fault Refusal := runSem (semTrap w) s
/-- SVC. -/
def semSvc (w : IWord) : Sem := trapSem 0xE4 w fun _ => { cause := causeSVC, info := csrNo w % 2 ^ 16 }
/-- SVC issues. -/
def execSvc (w : IWord) (s : State) : Host.Outcome State Fault Refusal := runSem (semSvc w) s
/-- BKPT. -/
def semBkpt (w : IWord) : Sem := trapSem 0xE5 w fun _ => { cause := causeBKPT, info := 2 ^ 38 + csrNo w % 2 ^ 16 }
/-- BKPT issues. -/
def execBkpt (w : IWord) (s : State) : Host.Outcome State Fault Refusal := runSem (semBkpt w) s

/-! ### The return from a handler (spec/08 R241) and from a service run (spec/19 R437; spec/20 R449) -/

/-- A service run ends. -/
def State.endRun (s : State) (g : Nat) : State := s.returnFromTrap (.service g) 0

/-- A watchpoint predicate has given its result: its issuer continues, or is held; `cut` when the predicate was ended at its 33rd bundle. -/
def State.endPredicate (s : State) (g : Nat) (result cut : Bool) : State :=
  match (s.group g).hits.find? fun h => h.value.isSome with
  | none => s
  | some h =>
    let s := s.modGroup g fun x => { x with hits := x.hits.filter (· != h) }
    let s := if s.waitOf h.party = .watch then s.setWait h.party .none else s
    let s := if result then s.stop h.party h.pc { cause := causeWATCH, info := h.n * 2 ^ 16 + b2n cut * 2 ^ 20, addr := h.addr } else s
    if (s.group g).hits.any fun y => y.value.isSome then s.request g 2 else s

/-- The end of a service run by TRET: the predicate of a watchpoint gives its result in s5 bit 0. -/
def State.serviceReturn (s : State) (g : Nat) : State :=
  let kind := (s.group g).requests.head?
  let r := ((s.warp (serviceKey g)).sreg 5).getLsbD 0
  let s := s.endRun g
  if kind = some 2 then s.endPredicate g r false else s

/-- The address of the instruction after one, or of the bundle after one (spec/03 R74, R84). -/
def nextAddr (vliw : Bool) (va word : Nat) : Nat :=
  if vliw then afterHeader va word else (va + wordSize (BitVec.ofNat 64 word)) % 2 ^ 57

/-- Where TRET goes on: `none` with the gate that stands before it. -/
inductive Return where
  | to (s : State) (pc : Nat)
  | gate (g : Gate)
deriving DecidableEq, Repr

/-- The target of TRET. -/
def tretTarget (next : Bool) (e : Env) (s : State) : Return :=
  let pc := e.w.csr.rec1.toNat % 2 ^ 57
  if !next then .to s pc
  else match fetchCode s e.core (s.partyPart e.party) pc 8 with
    | .ok s x => .to s (nextAddr e.view.inSlot pc x)
    | .trap t => .gate (.trap t)
    | .fault k lv va => .gate (s.awaitGate e.party va true (some (va, 3, k, lv)))
    | .held r va => .gate (s.heldGate e.party r va)

/-- TRET's checks: it stands in the locked instruction store alone. -/
def tretGate (next : Bool) (e : Env) (s : State) : Gate :=
  if !e.locked then .trap { cause := causeILLOP, info := 9 }
  else match e.party with
    | .service _ => .ok
    | _ => match tretTarget next e s with
      | .to _ _ => e.traceGate s 1
      | .gate g => g

/-- TRET's effect. -/
def tretEff (next : Bool) (e : Env) (s : State) : State :=
  match e.party with
  | .service g => s.serviceReturn g
  | p => match tretTarget next e s with
    | .to s pc =>
      let s := s.returnFromTrap p pc
      let s := if e.view.inSlot then s.jump p pc else s
      s.trace e [(e.pathNo, pc, if e.view.inSlot then 0xFFFFFFFF else e.mask.toNat)]
    | .gate _ => s

/-- The trace record of a TRET from a trap. -/
def tretRoom (e : Env) (s : State) : LogRoom := match e.party with | .service _ => ⟨0, 0⟩ | _ => e.traceRoom s 1

/-- TRET.retry. -/
def semTretRetry (w : IWord) : Sem := { op := 0xE3, w := w, gate := tretGate false, eff := fun e s => tretEff false e s, room := tretRoom }
/-- TRET.retry issues. -/
def execTretRetry (w : IWord) (s : State) : Host.Outcome State Fault Refusal := runSem (semTretRetry w) s
/-- TRET.next. -/
def semTretNext (w : IWord) : Sem := { op := 0xE3, w := w, gate := tretGate true, eff := fun e s => tretEff true e s, room := tretRoom }
/-- TRET.next issues. -/
def execTretNext (w : IWord) (s : State) : Host.Outcome State Fault Refusal := runSem (semTretNext w) s

/-! ### LOGW (spec/08 R242) -/

/-- Whether a LOGW writes its record. -/
def logwOn (e : Env) (w : IWord) (s : State) : Bool := e.scalarPred w && e.w.csr.logEn && logOn s (s.partyPart e.party) 0

/-- LOGW. -/
def semLogw (w : IWord) : Sem :=
  { op := 0xE6, w := w
    gate := fun e s => if logwOn e w s && !logFits s (s.partyPart e.party) 0 1 then .trap (logFull 0 1) else .ok
    eff := fun e s =>
      if logwOn e w s then
        s.userRecord (s.partyPart e.party) e.core e.group e.key e.w.wid 0x01 e.w.csr.logTag (e.u64 w w.a) (e.u64 w w.b)
      else s
    room := fun e s => ⟨b2n (logwOn e w s), 0⟩ }
/-- LOGW issues. -/
def execLogw (w : IWord) (s : State) : Host.Outcome State Fault Refusal := runSem (semLogw w) s

/-! ### The device-side launch queue (spec/08 R243; spec/09 R265 to R267) -/

/-- LAUNCH's read of its record; it counts in the launch slot until the entry's copy is performed. The 128 bytes are read at the address given, whatever its
alignment (DESIGN CHOICE, log entry 67; spec/09 R250 gives no trap). -/
def launchAccess (w : IWord) (j : Nat) (e : Env) (s : State) : Access :=
  let va := e.globalAddr w 0
  { e.access s (.launchRead j) 0 [{ lane := 0, addr := va, size := 128, data := 0, data2 := 0, off := 0 }] .none [] with
    counted := (s.partyLaunch e.party).isSome }

/-- LAUNCH's gate: no queue is PAGEPERM with bit 13, a full one is waited for, and an entry that lies over bytes of the Pantry atomic unit is PAGEPERM with
bit 3, at the entry's physical address (spec/14 R357; log entry 64). -/
def launchGate (w : IWord) (e : Env) (s : State) : Gate :=
  if !e.scalarPred w then .ok
  else match (s.part (s.partyPart e.party)).device with
    | none => .trap (permBit 13 (e.globalAddr w 0))
    | some q =>
      if 2 ^ q.dlog ≤ (q.rsv + 2 ^ 32 - q.head) % 2 ^ 32 then .wait .launchQueue
      else if (List.range 128).any fun i => unitOnly s (entryPa q q.rsv + i) then .trap (permBit 3 (entryPa q q.rsv))
      else globalGate e s (launchAccess w q.rsv e s)

/-- LAUNCH's effect: the entry is reserved, and the record's read and copy are under way. -/
def launchEff (w : IWord) (e : Env) (s : State) : State :=
  if !e.scalarPred w then s
  else
    let part := s.partyPart e.party
    match (s.part part).device with
    | none => s
    | some q =>
      let s := s.modPart part fun p => { p with device := p.device.map fun q => { q with rsv := (q.rsv + 1) % 2 ^ 32 } }
      s.issueAccess e (launchAccess w q.rsv e s)

/-- LAUNCH. -/
def semLaunch (w : IWord) : Sem :=
  { op := 0xE8, w := w, gate := launchGate w, eff := fun e s => launchEff w e s
    room := fun e s => match (s.part (s.partyPart e.party)).device with
      | some q => if e.scalarPred w then accessRoom e s (launchAccess w q.rsv e s) else ⟨0, 0⟩
      | none => ⟨0, 0⟩ }
/-- LAUNCH issues. -/
def execLaunch (w : IWord) (s : State) : Host.Outcome State Fault Refusal := runSem (semLaunch w) s

/-- The key of a launch queue among the scheduler's queues. -/
def queueKey : LaunchQueue → Nat
  | .host q => q
  | .device p => 64 + p

/-- A record that has reached the scheduler. -/
def pendingOf (record : BitVec 1024) (partition qseq ccnt : Nat) : Pending :=
  { record := record, qseq := qseq, arrived := ccnt, metAt := none, aged := none, launch := none, blocked := none, idle := 0, irq := false,
    partition := partition }

/-- A record enters a scheduler queue. -/
def State.enqueue (s : State) (k : Nat) (p : Pending) : State :=
  { s with sched := { s.sched with queues := s.sched.queues.set k (s.sched.queues.getD k [] ++ [p]) } }

/-- Consumes stamped entries in index order up to TMAX. -/
def consumeDevice (part : Nat) : Nat → State → State
  | 0, s => s
  | n + 1, s =>
    match (s.part part).device with
    | none => s
    | some q =>
      let pa := entryPa q q.head
      let r := BitVec.ofNat 1024 (memNat s pa 128)
      if q.head = q.tmax ∨ r.getLsbD 1023 = false then s
      else
        let s := s.poke pa 128 (putBits r.toNat 1023 1 0)
        let s := s.enqueue (64 + part) ((pendingOf r part q.head s.ccnt).mark s)
        consumeDevice part n (s.modPart part fun p => { p with device := p.device.map fun q => { q with head := (q.head + 1) % 2 ^ 32 } })

/-- TMAX after a tail notify: the greatest in sequence. -/
def tmaxAfter (q : DeviceQueue) (n : Nat) : Nat := if (n + 2 ^ 32 - q.tmax) % 2 ^ 32 < 2 ^ 31 then n else q.tmax

/-- Whether a bank of an entry up to a tail is in its refresh window: the scheduler's reads wait for its end (spec/10 R285). -/
def entriesHeld (s : State) (q : DeviceQueue) (tmax : Nat) : Bool :=
  (List.range (min (2 ^ q.dlog) ((tmax + 2 ^ 32 - q.head) % 2 ^ 32))).any fun i => rangeRefresh s (entryPa q (q.head + i)) 128

/-- Whether a device queue has a tail notify that the scheduler can take. -/
def notifies (s : State) (q : DeviceQueue) : Bool :=
  match q.notes with
  | [] => false
  | n :: _ => !entriesHeld s q (tmaxAfter q n)

/-- TAIL_NOTIFY (spec/09 R267): the scheduler takes the oldest tail notify of a partition. -/
def execTailNotify (partition : Nat) (s : State) : Host.Outcome State Fault Refusal :=
  match (s.part partition).device with
  | none => .next s
  | some q =>
    match q.notes with
    | [] => .next s
    | n :: r =>
      let tmax := tmaxAfter q n
      if !notifies s q then .next s
      else .next (consumeDevice partition (2 ^ q.dlog + 1) (s.modPart partition fun p => { p with device := some { q with notes := r, tmax := tmax } }))

end Sys2Proof.Machine
end

