-- ==== Sys2Proof/Machine/Sequence.lean ====
section
/-!
DEFINITION. Forms over Pantry sequence records, and logit programs: ULA, SQREC, SQACC, SQBIND, LPCALL, LPRET
(spec/07 R201; spec/08 R244 to R248; spec/14 R355 to R367).
-/
namespace Sys2Proof.Machine

open Sys2Proof

/-! ### Records as operands -/

/-- The record address in A, rounded down to a multiple of 256. -/
def recordVa (e : Env) (w : IWord) : Nat := roundDown (e.u64 w w.a % 2 ^ 57) 256

/-- The offset operand of SQREC.ld and SQREC.st. -/
def recordOff (e : Env) (w : IWord) : Nat := e.u64 w w.b % 256 / 8 * 8

/-- LP's limit on SQREC: the record of LPCALL alone, and no store to word 1 (spec/14 R366, code 3). -/
def lpRecord (e : Env) (w : IWord) (storeOff : Option Nat) : Gate :=
  match e.lpMode with
  | none => .ok
  | some m => if recordVa e w != roundDown m.record 256 || storeOff == some 8 then .trap (lpIll 3) else .ok

/-- An access of the Pantry unit: a word of the record, with an operand. -/
def unitAccess (w : IWord) (kind : AccKind) (op off size data : Nat) (e : Env) (s : State) : Access :=
  let dest := e.destFor w 64
  let a := e.access s kind 0 [{ lane := 0, addr := (recordVa e w + off) % 2 ^ 57, size := size, data := data, data2 := 0, off := 0 }] dest
    (if dest == .none then [] else pendOf op w e)
  { a with counted := a.counted && kind.writes }

/-- A form that is one action of the unit. -/
def unitSem (op : Nat) (w : IWord) (pre : Env → Gate) (mk : Env → State → Access) : Sem :=
  { op := op, w := w
    gate := fun e s => if !e.scalarPred w then .ok else match pre e with | .ok => globalGate e s (mk e s) | g => g
    eff := fun e s => if !e.scalarPred w then s else s.issueAccess e (mk e s)
    room := fun e s => if e.scalarPred w then accessRoom e s (mk e s) else ⟨0, 0⟩ }

/-! ### ULA (spec/07 R201) -/

/-- ULA's access: the record [a + b]. -/
def ulaAccess (w : IWord) (e : Env) (s : State) : Access :=
  let list := min (e.u64 w w.c) 6
  let dest := e.destFor w 64
  e.access s (.ula list) 0 [{ lane := 0, addr := roundDown (e.globalAddr w 0) 256, size := 8, data := 0, data2 := 0, off := 0 }] dest
    (if dest == .none then [] else pendOf 0x92 w e)
/-- ULA. -/
def semUla (w : IWord) : Sem := unitSem 0x92 w (fun _ => .ok) (ulaAccess w)
/-- ULA issues. -/
def execUla (w : IWord) (s : State) : Host.Outcome State Fault Refusal := runSem (semUla w) s

/-! ### SQREC (spec/08 R244) and SQACC (R245) -/

/-- SQREC.ld. -/
def semSqrecLd (w : IWord) : Sem :=
  unitSem 0xE9 w (fun e => lpRecord e w none) fun e s => unitAccess w (.sqLd (recordOff e w)) 0xE9 (recordOff e w) 8 0 e s
/-- SQREC.ld issues. -/
def execSqrecLd (w : IWord) (s : State) : Host.Outcome State Fault Refusal := runSem (semSqrecLd w) s
/-- SQREC.st. -/
def semSqrecSt (w : IWord) : Sem :=
  unitSem 0xE9 w (fun e => lpRecord e w (some (recordOff e w))) fun e s =>
    unitAccess w (.sqSt (recordOff e w)) 0xE9 (recordOff e w) 8 (e.u64 w w.c) e s
/-- SQREC.st issues. -/
def execSqrecSt (w : IWord) (s : State) : Host.Outcome State Fault Refusal := runSem (semSqrecSt w) s
/-- SQREC.hist: words 8 and 10 to 31 of the record. -/
def semSqrecHist (w : IWord) : Sem :=
  unitSem 0xE9 w (fun e => lpRecord e w none) fun e s => unitAccess w .sqHist 0xE9 64 192 (e.u64 w w.c) e s
/-- SQREC.hist issues. -/
def execSqrecHist (w : IWord) (s : State) : Host.Outcome State Fault Refusal := runSem (semSqrecHist w) s
/-- SQREC.cinc. -/
def semSqrecCinc (w : IWord) : Sem :=
  unitSem 0xE9 w (fun e => lpRecord e w none) fun e s => unitAccess w .sqCinc 0xE9 16 8 (e.u64 w w.c) e s
/-- SQREC.cinc issues. -/
def execSqrecCinc (w : IWord) (s : State) : Host.Outcome State Fault Refusal := runSem (semSqrecCinc w) s
/-- SQREC.cget. -/
def semSqrecCget (w : IWord) : Sem :=
  unitSem 0xE9 w (fun e => lpRecord e w none) fun e s => unitAccess w .sqCget 0xE9 16 8 (e.u64 w w.c) e s
/-- SQREC.cget issues. -/
def execSqrecCget (w : IWord) (s : State) : Host.Outcome State Fault Refusal := runSem (semSqrecCget w) s
/-- SQACC: words 7 and 8 of the record. -/
def semSqacc (w : IWord) : Sem :=
  unitSem 0xEA w (fun _ => .ok) fun e s =>
    unitAccess w (.sqAcc w.ext.toNat) 0xEA (if w.ext.toNat = 2 then 64 else 56) 8 (e.uniform w .n32 w.c) e s
/-- SQACC issues. -/
def execSqacc (w : IWord) (s : State) : Host.Outcome State Fault Refusal := runSem (semSqacc w) s

/-! ### Actions taken at issue: SQREC.wchk, SQBIND, LPCALL -/

/-- A record as an action at issue finds it. -/
inductive AtUnit where
  | at (s : State) (a : Access) (base slot : Nat)
  | gate (g : Gate)
deriving DecidableEq, Repr

/-- Reaches a record at issue: earlier accesses of the issuer to its bytes, a translation that faults, and, when `ordered`, the key order of deterministic mode
are waited for. -/
def reachUnit (ordered : Bool) (e : Env) (s : State) (a : Access) : AtUnit :=
  let probe := { a with id := s.serial }
  match resolve s a with
  | .trap t => .gate (.trap t)
  | .fault k lv va =>
    .gate (s.awaitGate e.party va false (some (va, a.gkind.faultAcc, k, lv)))
  | .ok s' b =>
    let key := if a.kind.atomic && s.keyed e.party then some (s.keyOf e.party) else none
    let busy := heldBack s { b with id := probe.id } || (ordered && !({ b with id := probe.id, key := key }).keyReady s) || b.refreshing s
    let pas := b.pas.flatMap fun x => (List.range x.2).map (x.1 + ·)
    let va := match b.spans with | some ((v, _) :: _) => v | _ => 0
    if busy then .gate (.wait .pending)
    else if missesFull s a.core a.partition a.gkind.acc (b.spans.getD []) then
      .gate (s.awaitGate e.party va false none)
    else match readUe s pas with
      | some c => .gate (.trap (readUeTrap s b.pages (rangeBytes (b.spans.getD [])) c))
      | none =>
        let n := (spanLines (b.spans.getD [])).length
        if !e.quiet && logOn s a.partition 2 && !logFits s a.partition 2 n then .gate (.trap (logFull 2 n))
        else match recordAt s a.partition (paVia b.pages va) with
          | some (_, base, slot) => .at (s'.learn e.core b.pages) { b with id := probe.id, key := key } base slot
          | none => .gate (.trap (permBit 2 va))

/-- Reaches a record for an action that waits for its key, if it has one. -/
def atUnit (e : Env) (s : State) (a : Access) : AtUnit := reachUnit true e s a

/-- An action at issue is performed: its record in the ordering log, its place in its agent's count of atomic actions, and the watchpoints, for what it
touched and the `loads` before it. -/
def State.acted (s : State) (e : Env) (a : Access) (write : Bool) (loads : List (Nat × Nat) := []) : State :=
  let s := if a.key.isSome then s.countAtomic e.party else s
  let s := s.record { a with code := partyCode s e.party, reserved := if e.quiet then 0 else 1 } (if a.kind.atomic then 2 else 0) write
  s.watchNow e a (a.watchRanges s ++ loads.map fun r => (62, r.1, r.2))

/-! SQREC.wchk (spec/14 R363) -/

/-- SQREC.wchk's access: word 5 of the record. -/
def wchkAccess (w : IWord) (e : Env) (s : State) : Access := unitAccess w (.sqSt 40) 0xE9 40 8 0 e s

/-- SQREC.wchk's gate: a violation raises SQWIN. -/
def wchkGate (w : IWord) (e : Env) (s : State) : Gate :=
  if !e.scalarPred w then .ok
  else match lpRecord e w none with
    | .ok => match atUnit e s (wchkAccess w e s) with
      | .gate g => g
      | .at _ _ base slot =>
        let p := e.u64 w w.c
        if wchkOk s base slot p then .ok else .trap { cause := causeSQWIN, info := p % 2 ^ 32, addr := recordVa e w }
    | g => g

/-- SQREC.wchk's effect: SHEAD advances. -/
def wchkEff (w : IWord) (e : Env) (s : State) : State :=
  if !e.scalarPred w then s
  else match atUnit e s (wchkAccess w e s) with
    | .gate _ => s
    | .at s a base slot => (s.wchk e.core base slot (e.u64 w w.c)).acted e a true

/-- SQREC.wchk. -/
def semSqrecWchk (w : IWord) : Sem := { op := 0xE9, w := w, gate := wchkGate w, eff := fun e s => wchkEff w e s }
/-- SQREC.wchk issues. -/
def execSqrecWchk (w : IWord) (s : State) : Host.Outcome State Fault Refusal := runSem (semSqrecWchk w) s

/-! SQBIND (spec/08 R246) -/

/-- The words of a region, from its bytes. -/
def regionWords (n v : Nat) : List Word64 := (List.range n).map fun i => BitVec.ofNat 64 (bits v (64 * i) 64)

/-- What decoding found: the word offsets at which items start, the branches with their targets (none for an s register), and the offset at which it
stopped, if it did. -/
structure Scan where
  starts : List Nat
  branches : List (Nat × Option Int)
  stop : Option Nat
deriving DecidableEq, Repr

/-- The target of a loop branch as a word offset from the item at word `pc`. -/
def branchTarget (lits : List Word32) (base pc : Nat) (o : Operand) : Option Int :=
  let w : IWord := { ext := 0, stall := 0, pred := 0, d := zeroOperand, a := zeroOperand, b := zeroOperand, c := zeroOperand, lits := lits }
  let at' : Int := ((base + 8 * pc : Nat) : Int)
  let t : Option Int := match o with
    | .small n => some ((wrap 57 (at' + 8 * smallInt n) : Nat) : Int)
    | .lit true j => some ((litRaw w true j % 2 ^ 57 : Nat) : Int)
    | .lit false j => some ((wrap 57 (at' + sInt 32 (litRaw w false j)) : Nat) : Int)
    | _ => none
  t.map (· - (base : Int))

/-- The loop branch of a word, if it is one: LOOP.dec, LBREAK.z or LBREAK.nz. -/
def loopBranch (base pc : Nat) (r : Raw) : List (Nat × Option Int) :=
  match r.toIWord with
  | none => []
  | some w =>
    if r.op = 0xD6 ∧ r.ext.toNat % 4 = 0 then [(pc, branchTarget r.lits base pc w.a)]
    else if r.op = 0xD7 ∧ r.ext.toNat != 0 then [(pc, branchTarget r.lits base pc w.b)]
    else []

/-- Decodes SIMT words in sequence, from word `i`. -/
def scanSimt (base : Nat) (ws : List Word64) : Nat → Nat → Scan → Scan
  | 0, _, r => r
  | n + 1, i, r =>
    match ws[i]? with
    | none => r
    | some x =>
      let lits := if wBit x then (match ws[i + 1]? with | some y => litHalves y | none => []) else []
      let raw := rawOf x lits
      let past := wBit x && ws.length ≤ i + 1
      if past || !(violations .simt 64 raw).isEmpty || !lpAllows raw.op then { r with stop := some i }
      else scanSimt base ws n (i + (if wBit x then 2 else 1)) { r with starts := r.starts ++ [i], branches := r.branches ++ loopBranch base i raw }

/-- The bundle that starts at word `i` of a list. -/
def bundleAt (ws : List Word64) (i : Nat) : BundleBits :=
  let h := ws.getD i 0
  let n := (presentSlots (headerOf h).present).length
  { header := h, slots := (ws.drop (i + 1)).take n,
    pool := ((ws.drop (i + 1 + n)).take (((headerOf h).litn + 1) / 2)).flatMap litHalves }

/-- Decodes bundles in sequence, from word `i`. -/
def scanVliw (base : Nat) (ws : List Word64) : Nat → Nat → Scan → Scan
  | 0, _, r => r
  | n + 1, i, r =>
    match ws[i]? with
    | none => r
    | some h =>
      let b := bundleAt ws i
      let size := itemSize h / 8
      let ops := if (headerOf h).kind = 0 then b.ops else []
      let bad := !(bundleBad ((base + 8 * i) % 2 ^ 57) 64 b).isEmpty || (ops.any fun x => !lpAllows x.2.2.op)
      if ws.length < i + size || bad then { r with stop := some i }
      else scanVliw base ws n (i + size) { r with starts := r.starts ++ [i], branches := r.branches ++ ops.flatMap fun x => loopBranch base i x.2.2 }

/-- The first failing word of a region, if any (spec/08 R246). -/
def regionBad (v : Bool) (base : Nat) (ws : List Word64) : Option Nat :=
  let r := if v then scanVliw base ws (ws.length + 1) 0 ⟨[], [], none⟩ else scanSimt base ws (ws.length + 1) 0 ⟨[], [], none⟩
  let edge := r.stop.getD ws.length
  let fails := r.branches.filter fun x => match x.2 with
    | none => true
    | some t => !(decide (0 ≤ t) && decide (t < 8 * (ws.length : Int)) && (decide (8 * (edge : Int) ≤ t) || (decide (t % 8 = 0) && r.starts.contains (t / 8).toNat)))
  match (match r.stop with | some i => [i] | none => []) ++ fails.map (·.1) with
  | [] => none
  | a :: l => some (l.foldl min a)

/-- SQBIND's region: its address, rounded down to a multiple of 8 (DESIGN CHOICE, log entry 64), and its length. -/
def bindRegion (e : Env) (w : IWord) : Nat × Nat := (e.u64 w w.b % 2 ^ 57 / 8 * 8, e.u64 w w.c)

/-- SQBIND's access: word 1 of the record, and the handle it writes. -/
def bindAccess (w : IWord) (e : Env) (s : State) : Access :=
  let r := bindRegion e w
  unitAccess w .bind 0xEB 8 8 (bindWord r.1 r.2 (w.ext.getLsbD 0)) e s

/-- SQBIND's read of the region: plain loads. -/
def bindRead (w : IWord) (e : Env) (s : State) : Access :=
  let r := bindRegion e w
  e.access s (.load false) 0 [{ lane := 0, addr := r.1, size := 8 * r.2, data := 0, data2 := 0, off := 0 }] .none []

/-- SQBIND up to its write: the state once the region has been read and passed. For a length that fails TRAPREC2.ADDR holds the region's address (DESIGN
CHOICE, log entry 64): spec/08 R246 names no failing word then. -/
def bindCheck (w : IWord) (e : Env) (s : State) : AtUnit :=
  let r := bindRegion e w
  let v := w.ext.getLsbD 0
  if r.2 = 0 ∨ 256 < r.2 then .gate (.trap { cause := causeLPILL, info := 0x1FF, addr := r.1 })
  else
    let a := { bindRead w e s with id := s.serial }
    match resolve s a with
    | .trap t => .gate (.trap t)
    | .fault k lv va => .gate (s.awaitGate e.party va false (some (va, 0, k, lv)))
    | .ok s1 b =>
      let pas := b.pas.flatMap fun x => (List.range x.2).map (x.1 + ·)
      if heldBack s { b with id := s.serial } || b.refreshing s then .gate (.wait .pending)
      else if missesFull s e.core a.partition .read (b.spans.getD []) then
        .gate (s.awaitGate e.party (((b.spans.getD []).headD (0, 0)).1) false none)
      else match readUe s pas with
        | some c => .gate (.trap (readUeTrap s b.pages (rangeBytes (b.spans.getD [])) c))
        | none =>
          let x := (s1.learn e.core b.pages).loadBytes (b.view s1 b.pages) 0 ((List.range (8 * r.2)).map fun i => (r.1 + i) % 2 ^ 57)
          match regionBad v r.1 (regionWords r.2 x.2) with
          | some i => .gate (.trap { cause := causeLPILL, info := i, addr := (r.1 + 8 * i) % 2 ^ 57 })
          | none => reachUnit false e x.1 (bindAccess w e x.1)

/-- SQBIND's effect: the handle is written, and the region's reads and the write are tried on the watchpoints. A write whose key has to wait is issued, and does
not hold its issuer, since it returns no result (spec/11 R321). -/
def bindEff (w : IWord) (e : Env) (s : State) : State :=
  match bindCheck w e s with
  | .gate _ => s
  | .at s a base slot =>
    let r := bindRegion e w
    if a.keyReady s then (s.bindProgram e.core base slot r.1 r.2 (w.ext.getLsbD 0)).acted e a true [(r.1, 8 * r.2)]
    else s.issueAccess e (bindAccess w e s)

/-- SQBIND. -/
def semSqbind (w : IWord) : Sem :=
  { op := 0xEB, w := w
    gate := fun e s => if !e.scalarPred w then .ok else match bindCheck w e s with | .gate g => g | .at _ _ _ _ => .ok
    eff := fun e s => if !e.scalarPred w then s else bindEff w e s }
/-- SQBIND issues. -/
def execSqbind (w : IWord) (s : State) : Host.Outcome State Fault Refusal := runSem (semSqbind w) s

/-! LPCALL and LPRET (spec/08 R247, R248; spec/14 R367) -/

/-- LPCALL's read of word 1. -/
def callAccess (w : IWord) (e : Env) (s : State) : Access := unitAccess { w with d := zeroOperand } .call 0xEC 8 8 0 e s

/-- The handle that LPCALL reads: a plain load of word 1, in one piece (spec/14 R367). -/
def callHandle (s : State) (a : Access) : State × Nat :=
  s.loadBytes (a.view s a.pages) 0 ((rangeBytes (a.spans.getD [])).map (· % 2 ^ 57))

/-- Whether an LPCALL fits its issuer: the handle's V is the view, and a path is the warp's only one. -/
def callFits (e : Env) (handle : Nat) : Bool := bit handle 63 == e.view.inSlot && (e.view.inSlot || e.w.paths.length == 1)

/-- LPCALL's gate. -/
def callGate (w : IWord) (e : Env) (s : State) : Gate :=
  match atUnit e s (callAccess w e s) with
  | .gate g => g
  | .at t a _ _ =>
    let h := (callHandle t a).2
    if bits h 54 9 = 0 then .ok
    else if callFits e h then e.moveGate s 1
    else .trap (lpIll 7)

/-- LPCALL's effect: s1 to s3, LP mode, and the region's first word. -/
def callEff (w : IWord) (e : Env) (s : State) : State :=
  match atUnit e s (callAccess w e s) with
  | .gate _ => s
  | .at s a _ _ =>
    let (s, h) := callHandle s a
    let s := s.acted e a false
    if bits h 54 9 = 0 then s
    else
      let vals := [e.u64 w w.a, e.u64 w w.b, e.u64 w w.c]
      let s := s.modWarp e.key fun x =>
        { x with s := setS (setS (setS x.s 1 (BitVec.ofNat 64 (vals.getD 0 0))) 2 (BitVec.ofNat 64 (vals.getD 1 0))) 3 (BitVec.ofNat 64 (vals.getD 2 0)),
                 lp := some { ret := e.next, base := bits h 0 54 * 8, words := bits h 54 9, record := e.u64 w w.a % 2 ^ 57,
                              window := vals.getD 1 0, windowLen := vals.getD 2 0, taken := 0 } }
      s.goto e (bits h 0 54 * 8 % 2 ^ 57)

/-- LPCALL. -/
def semLpcall (w : IWord) : Sem := { op := 0xEC, w := w, gate := callGate w, eff := fun e s => callEff w e s }
/-- LPCALL issues. -/
def execLpcall (w : IWord) (s : State) : Host.Outcome State Fault Refusal := runSem (semLpcall w) s

/-- LPRET: outside LP mode it is ILLOP with code 9. -/
def semLpret (w : IWord) : Sem :=
  { op := 0xED, w := w
    gate := fun e s => match e.w.lp with
      | none => .trap { cause := causeILLOP, info := 9 }
      | some _ => e.moveGate s 1
    eff := fun e s => match e.w.lp with
      | none => s
      | some m => (s.modWarp e.key fun x => { x with lp := none }).goto e m.ret }
/-- LPRET issues. -/
def execLpret (w : IWord) (s : State) : Host.Outcome State Fault Refusal := runSem (semLpret w) s

end Sys2Proof.Machine
end

