-- ==== Sys2Proof/Machine/Copy.lean ====
section
/-!
DEFINITION. The copy engine and the Sieve: command blocks and their checks, what a command reads, makes and writes, the buffer and its time order,
batches, and codebook tables (spec/07 R210 to R216; spec/12 R324 to R342).
-/
namespace Sys2Proof.Machine

open Sys2Proof

/-! ### Command blocks (spec/12 R324, R325) -/

/-- A descriptor. `bad` says that a reserved field is not 0. -/
structure CopyDesc where
  start : List Int
  extent : List Nat
  stride : List Int
  rank : Nat
  global : Bool
  fmt : Option Ty
  base : Nat
  bad : Bool
deriving DecidableEq, Repr

/-- The descriptor in 768 bits. -/
def copyDesc (x : Nat) : CopyDesc :=
  let rank := bits x 70 3
  let dim (d : Nat) : Nat := bits x (128 * (d + 1)) 128
  { start := (List.range rank).map fun d => sInt 32 (bits (dim d) 0 32)
    extent := (List.range rank).map fun d => bits (dim d) 32 32
    stride := (List.range rank).map fun d => sInt 48 (bits (dim d) 64 48)
    rank := rank
    global := !bit x 69
    fmt := Ty.ofCode (bits x 64 5)
    base := bits x 0 57
    bad := bits x 73 55 != 0 || bits x 57 7 != 0 || (bit x 69 && bits x 32 25 != 0) ||
           (List.range 5).any fun d => bits (dim d) 112 16 != 0 || (decide (rank ≤ d) && dim d != 0) }

/-- A command block. -/
structure CopyBlock where
  src : CopyDesc
  dst : CopyDesc
  count : List Nat
  xf : Nat
  rnd : Nat
  bnd : Nat
  pad : Nat
  srctr : Nat
  table : Nat
  bad : Bool
deriving DecidableEq, Repr

/-- The block in 2,048 bits. -/
def copyBlock (x : Nat) : CopyBlock :=
  { src := copyDesc (bits x 0 768), dst := copyDesc (bits x 768 768), count := (List.range 5).map fun d => bits x (1536 + 32 * d) 32,
    xf := bits x 1698 3, rnd := bits x 1701 3, bnd := bits x 1704 2, pad := bits x 1728 64, srctr := bits x 1792 64, table := bits x 1864 57,
    bad := bits x 1921 127 != 0 || bits x 1856 8 != 0 || bits x 1706 22 != 0 || bits x 1696 2 != 0 }

/-- Whether a type packs several elements in a byte. -/
def subByte (t : Ty) : Bool := t == .i4 || t == .n4 || t == .f4e2 || t == .f6e3p || t == .cb2

/-- Whether a type converts to others in a copy (spec/12 R329). -/
def copyTy (t : Ty) : Bool := t.isFloat || t.isInt || t == .f6e3p

/-- The format pairs of a transform (spec/12 R329, R330, R336). -/
def copyPair (xf : Nat) (s d : Ty) : Bool :=
  if xf = 0 ∨ xf = 4 then (copyTy s && copyTy d) || (s == d && (s == .b128 || s == .b64 || s == .e8m0))
  else if xf = 1 then s == .cb2 && (d == .f32 || d == .bf16 || d == .f16)
  else s.isArith && d.isArith

/-- COUNT of a dimension. -/
def CopyBlock.countOf (b : CopyBlock) (d : Nat) : Nat := (b.count[d]?).getD 0

/-- Whether a block is well formed (spec/12 R340, step 2). -/
def CopyBlock.fits (b : CopyBlock) : Bool :=
  !b.bad && !b.src.bad && !b.dst.bad && decide (1 ≤ b.src.rank) && decide (b.src.rank ≤ 5) && b.src.rank == b.dst.rank &&
  decide (b.rnd ≤ 4) && decide (b.xf ≤ 4) && decide (b.bnd ≤ 2) &&
  (match b.src.fmt, b.dst.fmt with
   | some s, some d => copyPair b.xf s d && (!subByte s || b.src.stride.headD 0 == 0) && (!subByte d || b.dst.stride.headD 0 == 0)
   | _, _ => false) &&
  (b.xf != 4 || decide (2 ≤ b.dst.rank)) &&
  (!(b.xf == 2 || b.xf == 3) || b.table % 64 == 0) &&
  (List.range b.dst.rank).all fun d => decide (1 ≤ b.countOf d)

/-! ### Boxes and ranges (spec/12 R326, R340) -/

/-- A coordinate of a descriptor's list. -/
def intAt (l : List Int) (d : Nat) : Int := (l[d]?).getD 0
/-- An extent. -/
def CopyDesc.ext (x : CopyDesc) (d : Nat) : Int := (((x.extent[d]?).getD 0 : Nat) : Int)

/-- The indices n of a dimension whose destination coordinate is inside: first, and one past the last. -/
def CopyBlock.nRange (b : CopyBlock) (d : Nat) : Int × Int :=
  (max 0 (-(intAt b.dst.start d)), min (b.countOf d : Int) (b.dst.ext d - intAt b.dst.start d))

/-- The inside box of the destination: lowest and highest coordinates, or none when it is empty. -/
def CopyBlock.dstBox (b : CopyBlock) : Option (List (Int × Int)) :=
  let l := (List.range b.dst.rank).map fun d => let r := b.nRange d; (intAt b.dst.start d + r.1, intAt b.dst.start d + r.2 - 1)
  if l.all fun x => decide (x.1 ≤ x.2) then some l else none

/-- The dimension whose index moves source dimension `d`: XF 4 exchanges the first two. -/
def CopyBlock.turn (b : CopyBlock) (d : Nat) : Nat := if b.xf = 4 ∧ d < 2 then 1 - d else d

/-- The inside box of the source (spec/12 R340). For XF 0, 1 and 4 it counts the indices whose destination is inside; for the Sieve it counts every
index and every offset of the three dimensions that have one, and in the dimensions a table may leave out their own coordinates too. -/
def CopyBlock.srcBox (b : CopyBlock) : Option (List (Int × Int)) :=
  let sieve := b.xf = 2 ∨ b.xf = 3
  let l := (List.range b.src.rank).map fun d =>
    let s := intAt b.src.start d
    let x := b.src.ext d
    let r : Int × Int :=
      if sieve then
        let hi : Int := (b.countOf d : Int) - 1
        let r := if 3 ≤ d then (s, s + hi) else if b.xf = 2 then (s - 1, s + 2 * hi + 1) else (s, s + (hi + 1) / 2)
        let r := if d = 0 then r else (min r.1 s, max r.2 (s + hi))
        if b.bnd != 0 && (decide (r.1 < 0) || decide (x ≤ r.2)) then (0, x - 1) else r
      else
        let n := b.nRange (b.turn d)
        (s + n.1, s + n.2 - 1)
    (max r.1 0, min r.2 (x - 1))
  if (!sieve && b.dstBox.isNone) || (l.any fun x => decide (x.2 < x.1)) then none else some l

/-- The lowest and highest byte addresses of a box (spec/12 R328). -/
def CopyDesc.span (x : CopyDesc) (box : List (Int × Int)) : Int × Int :=
  let r := (List.range x.rank).foldl (fun (acc : Int × Int) d =>
    let c := (box[d]?).getD (0, 0)
    let p := c.1 * intAt x.stride d
    let q := c.2 * intAt x.stride d
    (acc.1 + min p q, acc.2 + max p q)) (((x.base : Nat) : Int), ((x.base : Nat) : Int))
  let c := box.headD (0, 0)
  match x.fmt with
  | some .f6e3p => (r.1 + 3 * (c.1 / 4), r.2 + 3 * (c.2 / 4) + 2)
  | some .cb2 => (r.1 + 20 * (c.1 / 64) + 2 * (c.1 % 64 / 8), r.2 + 20 * (c.2 / 64) + 16 + c.2 % 64 / 16)
  | some t => if t.width = 4 then (r.1 + c.1 / 2, r.2 + c.2 / 2) else (r.1, r.2 + (t.width / 8 : Nat) - 1)
  | none => r

/-- The lowest of `n + 1` runs of `w` bytes at `a`, `a + d`, …: its lowest byte that is not below `limit`. -/
def runOutside (a d : Int) (w n : Nat) (limit : Int) : Option Int :=
  if limit ≤ a + w - 1 then some (max a limit)
  else if d ≤ 0 then none
  else
    let k := (limit - (a + w - 1) + d - 1) / d
    if k ≤ n then some (max (a + k * d) limit) else none

/-- The lowest byte address of a box that is not below `limit` (spec/12 R340): dimension 0 in runs, the others one by one. -/
def CopyDesc.lowestOutside (x : CopyDesc) (box : List (Int × Int)) (limit : Int) : Option Int :=
  let c := box.headD (0, 0)
  let n := (c.2 - c.1).toNat
  let rests := ((box.zip x.stride).drop 1).foldl (fun (acc : List Int) r =>
    acc.flatMap fun a => (List.range ((r.1.2 - r.1.1).toNat + 1)).map fun (i : Nat) => a + (r.1.1 + (i : Int)) * r.2) [((x.base : Nat) : Int)]
  let at' (a : Int) : Option Int :=
    match x.fmt with
    | some .f6e3p => runOutside (a + 3 * (c.1 / 4)) 0 (3 * (c.2 / 4) - 3 * (c.1 / 4) + 3).toNat 0 limit
    | some .cb2 =>
      ((List.range ((c.2 / 64 - c.1 / 64).toNat + 1)).filterMap fun (i : Nat) =>
        let u := c.1 / 64 + (i : Int)
        let p := max (c.1 - 64 * u) 0
        let q := min (c.2 - 64 * u) 63
        match runOutside (a + 20 * u + 2 * (p / 8)) 0 (2 * (q / 8) - 2 * (p / 8) + 2).toNat 0 limit with
        | some y => some y
        | none => runOutside (a + 20 * u + 16 + p / 16) 0 (q / 16 - p / 16 + 1).toNat 0 limit).head?
    | some t =>
      if t.width = 4 then runOutside (a + c.1 / 2) 0 (c.2 / 2 - c.1 / 2 + 1).toNat 0 limit
      else
        let d := intAt x.stride 0
        runOutside (a + min (c.1 * d) (c.2 * d)) d.natAbs (t.width / 8) n limit
    | none => none
  (rests.filterMap at').foldl (fun (acc : Option Int) y => match acc with | none => some y | some z => some (min y z)) none

/-- Step 4 of R340 for one descriptor: `which` is 0 for the source, 1 for the destination. -/
def CopyDesc.rangeTrap (x : CopyDesc) (which scratch : Nat) : Option (List (Int × Int)) → Option Trap
  | none => none
  | some box =>
    let r := x.span box
    if x.global then
      if r.1 < 0 ∨ (2 ^ 57 : Nat) ≤ r.2 then some { cause := causeCPYADDR, info := which, addr := x.base } else none
    else if r.1 < 0 ∨ (scratch : Int) ≤ r.2 then
      some { cause := causePAGEPERM, info := 1 + which * 2 ^ 36, addr := wrap 32 (if r.1 < 0 then r.1 else (x.lowestOutside box scratch).getD r.2) }
    else none

/-! ### CPY (spec/07 R210, R211; spec/12 R340) -/

/-- The offset of a CPY's block. -/
def cpyOffset (e : Env) (w : IWord) : Nat := roundDown (e.u64 w w.a % 2 ^ 32) 256

/-- The block of a CPY, as a number. -/
def cpyBlock (e : Env) (s : State) (w : IWord) : Nat := (s.core e.core).sNat ((s.region e.party).1 + cpyOffset e w) 256

/-- Steps 2 to 4 of R340. -/
def cpyTrap (e : Env) (s : State) (w : IWord) : Option Trap :=
  let b := copyBlock (cpyBlock e s w)
  let t := e.u64 w w.b
  let scratch := (s.region e.party).2
  if !b.fits then some { cause := causePAGEPERM, info := 2 ^ 5 }
  else if t != 0 && e.ccnt + 2 ^ 31 < t then some { cause := causeCPYTIME, info := (t - e.ccnt) % 2 ^ 32 }
  else match b.src.rangeTrap 0 scratch b.srcBox with
    | some x => some x
    | none => b.dst.rangeTrap 1 scratch b.dstBox

/-- The place of a party among those that wait to enter a command. -/
def Env.waiter (e : Env) : CopyWaiter :=
  match e.party with
  | .path g sl i => ⟨g, sl, i⟩
  | .thread g sl => ⟨g, sl, 0⟩
  | _ => ⟨e.group, 0, 0⟩

/-- The party a waiter stands for. -/
def CopyWaiter.party (s : State) (x : CopyWaiter) : Party :=
  if (s.warp (warpKey x.group x.slot)).vliw.isSome then .thread x.group x.slot else .path x.group x.slot x.path

/-- Those that wait to enter a command on a core; one that the debugger holds keeps no other back (spec/20 R444). -/
def State.copyWaiters (s : State) (core : Nat) : List CopyWaiter := (s.core core).copyWait.filter fun x => !s.heldParty (x.party s)

/-- Room in the copy buffer: those that began to wait earlier enter first (spec/07 R211). -/
def copyRoom (e : Env) (s : State) : Gate :=
  let c := s.core e.core
  if Config.copyEntries ≤ c.copies.length ∨ ((s.copyWaiters e.core).headD e.waiter) ≠ e.waiter then
    .hold (if c.copyWait.contains e.waiter then s else s.setCore e.core { c with copyWait := c.copyWait ++ [e.waiter] }) .copyBuffer
  else .ok

/-- What stands before the entry of a command: it follows the issuer's earlier accesses as a release at .die would (spec/11 R312), and keeps room for a
record of its replay (spec/22 R475). -/
def enterGate (e : Env) (s : State) (trap : Option Trap) : Gate :=
  if releaseWaits s e.party 4 then .wait .fence
  else match trap with
    | some t => .trap t
    | none => match e.decisionGate s 1 with
      | .ok => copyRoom e s
      | g => g

/-- A command enters the buffer, in the issuer's open batch (spec/07 R210, R212; spec/12 R337). -/
def State.enterCommand (s : State) (e : Env) (block : Option (BitVec 2048)) (tableVa time : Nat) : State :=
  let part := s.partyPart e.party
  let r1 := !e.quiet && logOn s part 1
  let s := if r1 then s.reserveLog part e.group 1 1 else s
  let s := s.outstanding e.core e.w.launch true
  let cmd : CopyCmd :=
    { block := block, tableVa := tableVa, time := if time = 0 then e.ccnt else time, arrival := (s.core e.core).arrivals, group := e.group,
      slot := e.key % Config.warpSlots, age := e.w.age, batch := (s.warp e.key).sealed + 1, launch := e.w.launch,
      blockKey := (match s.partyBlock e.party with | some (n, _) => n | none => 0), pc := e.pc, moving := false, held := false, table := none, ends := 0,
      moved := false, pages := [], wpages := [], flags := 0, bare := false, got := [], put := [], remote := [], reserved1 := r1, quiet := e.quiet, code := partyCode s e.party, path := e.pathNo, inVliw := e.view.inSlot,
      agent := s.agentOf e.party, after := s.serial }
  s.modCore e.core fun c => { c with copies := c.copies ++ [cmd], arrivals := c.arrivals + 1, copyWait := c.copyWait.filter (· != e.waiter) }

/-- CPY's gate. -/
def cpyGate (w : IWord) (e : Env) (s : State) : Gate :=
  if !e.scalarPred w then .ok
  else match scratchGate e s [(cpyOffset e w, 256)] false false with
    | .ok => enterGate e s (cpyTrap e s w)
    | g => g
/-- CPY. -/
def semCpy (w : IWord) : Sem :=
  { op := 0xB0, w := w, gate := cpyGate w,
    eff := fun e s => if e.scalarPred w then s.enterCommand e (some (BitVec.ofNat 2048 (cpyBlock e s w))) 0 (e.u64 w w.b) else s
    room := fun e s => ⟨0, if e.scalarPred w then e.decisionRoom s 1 else 0⟩ }
/-- CPY issues. -/
def execCpy (w : IWord) (s : State) : Host.Outcome State Fault Refusal := runSem (semCpy w) s

/-- CTABLE: a command that loads the block's codebook table (spec/07 R215). -/
def semCtable (w : IWord) : Sem :=
  { op := 0xB3, w := w
    gate := fun e s => if e.scalarPred w then enterGate e s none else .ok
    eff := fun e s => if e.scalarPred w then s.enterCommand e none (roundDown (e.globalAddr w 0) 1024) 0 else s
    room := fun e s => ⟨0, if e.scalarPred w then e.decisionRoom s 1 else 0⟩ }
/-- CTABLE issues. -/
def execCtable (w : IWord) (s : State) : Host.Outcome State Fault Refusal := runSem (semCtable w) s

/-- CPY_WAIT_ENTER (spec/07 R211): an entry is free, and the first of those that wait goes on. -/
def execCpyWaitEnter (core : Nat) (s : State) : Host.Outcome State Fault Refusal :=
  match s.copyWaiters core with
  | [] => .next s
  | x :: _ =>
    let p := x.party s
    if Config.copyEntries ≤ (s.core core).copies.length then .next s
    else .next ((if s.waitOf p = .copyBuffer then s.setWait p .none else s).rouse core 4)

/-! ### Batches (spec/07 R212, R213, R216) -/

/-- Whether a command was issued by the warp of an environment. -/
def CopyCmd.isOf (c : CopyCmd) (e : Env) : Bool := c.group == e.group && c.slot == e.key % Config.warpSlots && c.age == e.w.age

/-- The issuer's sealed batches that are unfinished. -/
def unfinished (e : Env) (s : State) : List Nat :=
  (((s.core e.core).copies.filter fun c => c.isOf e && decide (c.batch ≤ (s.warp e.key).sealed)).map (·.batch)).eraseDups

/-- CSEAL's effect. -/
def csealEff (w : IWord) (e : Env) (s : State) : State :=
  let n := (s.warp e.key).sealed
  if !e.scalarPred w then s.commit e (wordLat e 0xB1 w) (e.sResult w n)
  else
    if (unfinished e s).length < 8 then
      (s.modWarp e.key fun x => { x with sealed := n + 1 }).commit e (wordLat e 0xB1 w) (e.sResult w (n + 1))
    else
      (s.modCore e.core fun c => { c with copies := c.copies.map fun x => if x.isOf e ∧ x.batch = n + 1 then { x with batch := n } else x }).commit e
        (wordLat e 0xB1 w) (e.sResult w n)
/-- CSEAL. -/
def semCseal (w : IWord) : Sem := { op := 0xB1, w := w, gate := fun _ _ => .ok, eff := csealEff w }
/-- CSEAL issues. -/
def execCseal (w : IWord) (s : State) : Host.Outcome State Fault Refusal := runSem (semCseal w) s

/-- CWAIT: waits while more than n sealed batches are unfinished. -/
def semCwait (w : IWord) : Sem :=
  { op := 0xB2, w := w
    gate := fun e s => if e.scalarPred w && decide (min (e.u64 w w.a) 8 < (unfinished e s).length) then .wait .batch else .ok
    eff := fun _ s => s }
/-- CWAIT issues. -/
def execCwait (w : IWord) (s : State) : Host.Outcome State Fault Refusal := runSem (semCwait w) s

/-- CQUERY's value. -/
def cqueryValue (w : IWord) (e : Env) (s : State) : Nat :=
  match w.ext.toNat % 4 with
  | 0 => (unfinished e s).length
  | 1 => Config.copyEntries - (s.core e.core).copies.length
  | 2 => (s.warp e.key).sealed % 2 ^ 64
  | _ => match unfinished e s with | [] => 0 | a :: r => r.foldl min a
/-- CQUERY. -/
def semCquery (w : IWord) : Sem :=
  { op := 0xB4, w := w, gate := fun _ _ => .ok, eff := fun e s => s.commit e (wordLat e 0xB4 w) (e.sResult w (cqueryValue w e s)) }
/-- CQUERY issues. -/
def execCquery (w : IWord) (s : State) : Host.Outcome State Fault Refusal := runSem (semCquery w) s

/-! ### Elements (spec/12 R326 to R336) -/

/-- Where an element lies: byte addresses, bit offset in them, width. -/
structure Loc where
  bytes : List Nat
  off : Nat
  width : Nat
deriving DecidableEq, Repr

/-- Consecutive addresses. -/
def addrs (a n : Nat) : List Nat := (List.range n).map (a + ·)

/-- The place of an inside element (spec/12 R328); for cb2, of its index. -/
def CopyDesc.loc (x : CopyDesc) (c : List Int) : Loc :=
  let t := x.fmt.getD .n8
  let a := ((List.range x.rank).foldl (fun (acc : Int) d => acc + intAt c d * intAt x.stride d) ((x.base : Nat) : Int)).toNat
  let c0 := (intAt c 0).toNat
  match t with
  | .f6e3p =>
    let p := 6 * (c0 % 4)
    ⟨addrs (a + 3 * (c0 / 4) + p / 8) (if p % 8 ≤ 2 then 1 else 2), p % 8, 6⟩
  | .cb2 => ⟨addrs (a + 20 * (c0 / 64) + 2 * (c0 % 64 / 8)) 2, 0, 16⟩
  | t => if t.width = 4 then ⟨[a + c0 / 2], 4 * (c0 % 2), 4⟩ else ⟨addrs a (t.width / 8), 0, t.width⟩

/-- The address of the scale byte of a cb2 weight (spec/12 R328). -/
def CopyDesc.scaleAt (x : CopyDesc) (c : List Int) : Nat :=
  let c0 := (intAt c 0).toNat
  ((List.range x.rank).foldl (fun (acc : Int) d => acc + intAt c d * intAt x.stride d) ((x.base : Nat) : Int)).toNat + 20 * (c0 / 64) + 16 +
    c0 % 64 / 16

/-- Whether coordinates are inside a tensor. -/
def CopyDesc.inside (x : CopyDesc) (c : List Int) : Bool := (List.range x.rank).all fun d => decide (0 ≤ intAt c d) && decide (intAt c d < x.ext d)

/-- A source of a destination element: its place (none reads as the pad value), the place of its cb2 scale, the number of the weight in its index, and the
stencil weight. -/
structure CopySrc where
  loc : Option Loc
  scale : Nat
  k : Nat
  weight : FVal
deriving DecidableEq, Repr

/-- A destination element with its sources. -/
structure CopyPoint where
  n : List Nat
  loc : Loc
  srcs : List CopySrc
deriving DecidableEq, Repr

/-- Index vectors of ranges, the first dimension fastest. -/
def indexVecs : List (List Nat) → List (List Nat)
  | [] => [[]]
  | r :: rs => (indexVecs rs).flatMap fun v => r.map (· :: v)

/-- The index vectors of the destination elements inside their tensor. -/
def CopyBlock.vecs (b : CopyBlock) : List (List Nat) :=
  indexVecs ((List.range b.dst.rank).map fun d => let r := b.nRange d; range r.1.toNat r.2.toNat)

/-- A number of an index vector. -/
def natAt (l : List Nat) (d : Nat) : Nat := (l[d]?).getD 0

/-- The source of a copy or an expansion. -/
def CopyBlock.plainSrc (b : CopyBlock) (n : List Nat) : CopySrc :=
  let c := (List.range b.src.rank).map fun d => intAt b.src.start d + (natAt n (b.turn d) : Int)
  if b.src.inside c then { loc := some (b.src.loc c), scale := b.src.scaleAt c, k := (intAt c 0).toNat % 8, weight := .fin false 1 0 }
  else { loc := none, scale := 0, k := 0, weight := .fin false 1 0 }

/-- SD of a stencil table. -/
def stencilDims (t : BitVec 8192) : Nat := vbits t 0 2

/-- Whether a stencil table is malformed (spec/12 R332). -/
def stencilBad (t : BitVec 8192) (rank : Nat) : Bool := stencilDims t == 0 || decide (rank < stencilDims t) || vbits t 3 29 != 0

/-- Weight `j` of a stencil table. -/
def stencilWeight (t : BitVec 8192) (j : Nat) : FVal :=
  let x := vbits t (32 * (j + 1)) 32
  if t.getLsbD 2 then
    let q := sInt 24 (bits x 0 24)
    .fin (decide (q < 0)) q.natAbs (-((bits x 24 8 : Nat) : Int))
  else fDecode .f32 x

/-- The offset vectors of a stencil, each with its weight number. -/
def stencilOffsets (sd : Nat) : List (List Int × Nat) :=
  let r (d : Nat) : List Int := if d < sd then [-1, 0, 1] else [0]
  (r 2).flatMap fun o2 => (r 1).flatMap fun o1 => (r 0).map fun o0 => ([o0, o1, o2], (o0 + 1 + 3 * (o1 + 1) + 9 * (o2 + 1)).toNat)

/-- The coordinate a boundary mode uses in a stencil dimension (spec/12 R335): none for a point that takes the pad value. -/
def boundary (bnd : Nat) (ext c : Int) : Option Int :=
  if 0 ≤ c ∧ c < ext then some c
  else
    match bnd with
    | 1 => let m := if c < 0 then -c else 2 * (ext - 1) - c
           if 0 ≤ m ∧ m < ext then some m else none
    | 2 => if ext = 0 then none else some (c % ext)
    | _ => none

/-- A source of a stencil from its coordinates. -/
def CopyBlock.stencilSrc (b : CopyBlock) (sd : Nat) (c : List Int) (weight : FVal) : CopySrc :=
  let l := (List.range b.src.rank).map fun d =>
    if d < sd then boundary b.bnd (b.src.ext d) (intAt c d)
    else if 0 ≤ intAt c d ∧ intAt c d < b.src.ext d then some (intAt c d) else none
  if l.all Option.isSome then
    { loc := some (b.src.loc (l.map fun x => x.getD 0)), scale := 0, k := 0, weight := weight }
  else { loc := none, scale := 0, k := 0, weight := weight }

/-- The sources of a restriction or a prolongation (spec/12 R333, R334). -/
def CopyBlock.sieveSrcs (b : CopyBlock) (t : BitVec 8192) (n : List Nat) : List CopySrc :=
  let sd := stencilDims t
  (stencilOffsets sd).filterMap fun o =>
    let up := b.xf = 2
    if !up && (List.range sd).any (fun d => ((natAt n d : Int) - intAt o.1 d) % 2 != 0) then none
    else
      let c := (List.range b.src.rank).map fun d =>
        let s := intAt b.src.start d
        let k : Int := (natAt n d : Int)
        if sd ≤ d then s + k
        else if up then s + 2 * k + intAt o.1 d
        else s + (k - intAt o.1 d) / 2
      some (b.stencilSrc sd c (stencilWeight t o.2))

/-- The points of a command. -/
def CopyBlock.points (b : CopyBlock) (t : BitVec 8192) : List CopyPoint :=
  b.vecs.map fun n =>
    { n := n
      loc := b.dst.loc ((List.range b.dst.rank).map fun d => intAt b.dst.start d + (natAt n d : Int))
      srcs := if b.xf = 2 ∨ b.xf = 3 then b.sieveSrcs t n else [b.plainSrc n] }

/-- The format in which an element of a type is computed. -/
def cellTy (t : Ty) : Ty := if t == .f6e3p then .f6e3 else t

/-- A pattern of one type converted to another (spec/12 R329): equal formats keep their bits. -/
def copyConvert (s d : Ty) (mode : RMode) (rnd x : Nat) : Nat × Nat :=
  if s = d then (x, 0)
  else
    let s := cellTy s
    let d := cellTy d
    if s.isFloat && d.isFloat then fConv (Fmt.ofTy s) (Fmt.ofTy d) mode rnd (x % 2 ^ (Fmt.ofTy s).width)
    else if s.isFloat then fToInt (Fmt.ofTy s) d.isSigned d.width mode rnd (x % 2 ^ (Fmt.ofTy s).width)
    else if d.isFloat then intToF (Fmt.ofTy d) mode rnd (iInt s.isSigned s.width x)
    else satFlag (satTo d.isSigned d.width (iInt s.isSigned s.width x))

/-- The random word of a destination index (spec/12 R331). -/
def CopyBlock.rand (b : CopyBlock) (key : BitVec 64) (n : List Nat) : Nat :=
  let e := natAt n 0 + b.countOf 0 * (natAt n 1 + b.countOf 1 * (natAt n 2 + b.countOf 2 * (natAt n 3 + b.countOf 3 * natAt n 4)))
  bits (whisk (BitVec.ofNat 128 (b.srctr * 2 ^ 64 + e / 4 % 2 ^ 64)) key).toNat (32 * (e % 4)) 32

/-- A stencil sum rounded once (spec/02 R71; spec/12 R336). -/
def sieveSum (d : Ty) (mode : RMode) (rnd : Nat) (l : List FVal) : Nat × Nat :=
  let f := Fmt.ofTy d
  if l.isEmpty then (0, 0)
  else if l.any FVal.isNan || (l.any FVal.isPosInf && l.any FVal.isNegInf) then (f.canonNaN, 0)
  else if l.any FVal.isPosInf then infPat f false
  else if l.any FVal.isNegInf then infPat f true
  else
    let ds : List Dy := l.map fun p => match p with | .fin s m e => Dy.ofFin s m e | _ => ⟨0, 0⟩
    match alignSum 160 ds with
    | none => (f.signBit (l.all FVal.isNegZero || mode == .rd), 0)
    | some x => roundDy f mode rnd (mode == .rd) x

/-- The value of a destination element, from a reader of source bytes (spec/12 R327, R329, R330, R336). A cb2 weight is rounded by the command's RND as
spec/12 R330 and spec/02 R58 say, where spec/02 R52 says RNE (DESIGN CHOICE, log entry 64); it is +0 when the command is `bare` (R330). -/
def CopyBlock.value (b : CopyBlock) (t : BitVec 8192) (bare : Bool) (key : BitVec 64) (rd : List Nat → Nat) (p : CopyPoint) : Nat × Nat :=
  let s := b.src.fmt.getD .n8
  let d := b.dst.fmt.getD .n8
  let mode := RMode.ofCode b.rnd
  let rnd := if mode = .sr then b.rand key p.n else 0
  let pat (x : CopySrc) : Nat := match x.loc with
    | some l => bits (rd l.bytes) l.off l.width
    | none => b.pad % 2 ^ (if s = .f6e3p then 6 else s.width)
  match b.xf with
  | 1 =>
    match p.srcs with
    | x :: _ =>
      match x.loc with
      | none => (b.pad % 2 ^ d.width, 0)
      | some _ =>
        let sc := rd [x.scale]
        if sc = 255 then ((Fmt.ofTy d).canonNaN, flagPoison)
        else if bare then (0, 0)
        else match cb2Weight t (pat x) x.k sc with
          | .fin neg m e => roundDy (Fmt.ofTy d) mode rnd neg (Dy.ofFin neg m e)
          | _ => ((Fmt.ofTy d).canonNaN, 0)
    | [] => (0, 0)
  | 2 => sieveSum d mode rnd (p.srcs.map fun x => (fDecode (Fmt.ofTy s) (pat x)).mul x.weight)
  | 3 => sieveSum d mode rnd (p.srcs.map fun x => (fDecode (Fmt.ofTy s) (pat x)).mul x.weight)
  | _ =>
    match p.srcs with
    | x :: _ => copyConvert s d mode rnd (pat x)
    | [] => (0, 0)

/-! ### A command's accesses -/

/-- The addresses of the source bytes of a point. -/
def CopyBlock.srcBytes (b : CopyBlock) (p : CopyPoint) : List Nat :=
  p.srcs.flatMap fun x => match x.loc with
    | some l => if b.xf = 1 then l.bytes ++ [x.scale] else l.bytes
    | none => []

/-- The byte ranges a command reads, and those it writes: global ones alone. -/
def CopyBlock.reads (b : CopyBlock) (l : List CopyPoint) : List (Nat × Nat) :=
  if b.src.global then runsOf ((l.flatMap b.srcBytes).eraseDups) else []
def CopyBlock.writes (b : CopyBlock) (l : List CopyPoint) : List (Nat × Nat) :=
  if b.dst.global then runsOf ((l.flatMap fun p => p.loc.bytes).eraseDups) else []

/-- What the access of a command finds: its pages, a fault, or a trap. -/
inductive Reach where
  | ok (src dst : List TlbEntry)
  | fault (acc kind level va : Nat)
  /-- The replay buffer is full, and a page is not in the TLBs (spec/19 R427). -/
  | full
  | trap (t : Trap)
deriving DecidableEq, Repr

/-- The bytes of ranges, by virtual address. -/
def rangeVas (l : List (Nat × Nat)) : List Nat := (rangeBytes l).map (· % 2 ^ 57)

/-- The UE of the first byte of ranges that an error is met at, with its address (spec/12 R341). -/
def firstUe (pages : List TlbEntry) (l : List (Nat × Nat)) (f : Nat → Option Nat) : Option Trap :=
  (rangeVas l).findSome? fun va => (f (paVia pages va)).map fun c => ueTrap c va

/-- What the homes of a command's bytes refuse, and the errors they meet. -/
def homesTrap (s : State) (ps pd : List TlbEntry) (reads writes : List (Nat × Nat)) : Option Trap :=
  match reads.findSome? fun x => rangeTrap s .copyRead ps x.1 x.2 with
  | some t => some t
  | none =>
    match writes.findSome? fun x => rangeTrap s .copyWrite pd x.1 x.2 with
    | some t => some t
    | none =>
      match unitTrap s pd writes with
      | some t => some t
      | none =>
        match firstUe ps reads (ueAt s) with
        | some t => some t
        | none => firstUe pd writes (writeUeAt s (pasVia pd (rangeVas writes)))

/-- Translates the ranges of a command and asks their homes (spec/12 R338, R341). -/
def reach (s : State) (core part : Nat) (reads writes : List (Nat × Nat)) : Reach :=
  match translate s core part .read reads with
  | .trap t => .trap t
  | .fault k lv va => .fault 4 k lv va
  | .ok ps =>
    match translate s core part .write writes with
    | .trap t => .trap t
    | .fault k lv va => .fault 5 k lv va
    | .ok pd => match homesTrap s ps pd reads writes with
      | some t => .trap t
      | none => if missesFull s core part .read reads || missesFull s core part .write writes then .full else .ok ps pd

/-- The command of a core under its arrival number. -/
def Core.copy? (c : Core) (i : Nat) : Option CopyCmd := c.copies.find? fun x => x.arrival == i

/-- Changes a command. -/
def State.modCopy (s : State) (core i : Nat) (f : CopyCmd → CopyCmd) : State :=
  s.modCore core fun c => { c with copies := c.copies.map fun x => if x.arrival = i then f x else x }

/-- The partition of a launch. -/
def State.launchPart (s : State) (launch : Nat) : Nat := match s.launch? launch with | some l => l.partition | none => 0

/-- A trap of a command is charged to its issuer, with INFO bit 37 (spec/12 R341). -/
def State.chargeCopy (s : State) (c : CopyCmd) (t : Trap) : State :=
  let r := recordOf { t with info := t.info ||| 2 ^ 37 } c.path c.inVliw c.pc s.ccnt
  let k := warpKey c.group c.slot
  let s := if (s.warps.get? k).isSome && (s.warp k).age == c.age then s.modWarp k fun w => w.setRecord r else s
  s.startDiscard (s.launchPart c.launch) c.launch r

/-- A command met a trap: an error in memory is counted, and the trap charged to its issuer. -/
def State.copyTrap (s : State) (core : Nat) (c : CopyCmd) (t : Trap) : State :=
  (s.meetUe core (s.launchPart c.launch) (paVia (c.pages ++ c.wpages) t.addr) t).chargeCopy c t

/-- The block a command moves by, and the table it uses. -/
def CopyCmd.plan (c : CopyCmd) : CopyBlock × List CopyPoint :=
  let b := copyBlock (match c.block with | some x => x.toNat | none => 0)
  (b, b.points (c.table.getD 0))

/-- The ranges of a command. -/
def CopyCmd.ranges (c : CopyCmd) : List (Nat × Nat) × List (Nat × Nat) :=
  match c.block with
  | none => ([(c.tableVa, 1024)], [])
  | some _ => let p := c.plan; (p.1.reads p.2, p.1.writes p.2)

/-- A command waits in the replay buffer. -/
def State.holdCopy (s : State) (core i part : Nat) (fault : Option (Nat × Nat × Nat × Nat)) : State :=
  let quiet := match (s.core core).copy? i with | some c => c.quiet | none => false
  (s.modCopy core i fun c => { c with held := true }).enterReplay core part (.copy i) quiet false fault

/-- The arithmetic cycles a command takes to move (spec/12 R338). -/
def CopyCmd.cycles (c : CopyCmd) : Nat :=
  match c.block with
  | none => 1
  | some _ =>
    let p := c.plan
    let bytes := ((p.2.flatMap fun x => x.loc.bytes).eraseDups).length
    let products := if p.1.xf = 2 ∨ p.1.xf = 3 then (p.2.map fun x => x.srcs.length).sum else 0
    max 1 (max (ceilDiv bytes 256) (ceilDiv products 32))

/-- A started command translates what it touches; once it has, it is given the cycle from which it may finish. -/
def State.reachCopy (s : State) (core i : Nat) : State :=
  match (s.core core).copy? i with
  | none => s
  | some c =>
    let part := s.launchPart c.launch
    let r := c.ranges
    match reach s core part r.1 r.2 with
    | .trap t => s.copyTrap core c t
    | .fault a k lv va => s.holdCopy core i part (some (va, a, k, lv))
    | .full => s.holdCopy core i part none
    | .ok ps pd => (s.learn core (ps ++ pd)).modCopy core i fun c =>
        { c with held := false, ends := s.ecyc core + c.cycles, pages := ps, wpages := pd }

/-- Whether an access that its issuer made before it is not yet performed, in a slot before it in its own bundle: the command's reads come after it
(spec/11 R298, R312). -/
def copyBehind (s : State) (c : CopyCmd) : Bool := s.accs.any fun a => a.agent == some c.agent && decide (a.id < c.after) && a.short 4

/-- A byte that a command has read before the rest of its table. -/
def CopyCmd.tableByte (s : State) (c : CopyCmd) (pages : List TlbEntry) (a : Nat) : Byte :=
  match c.got.find? fun x => x.2.1 == a with
  | some x => x.2.2
  | none => memGet s.mem (paVia pages a)

/-- The physical lines of byte ranges. -/
def rangeLines (pages : List TlbEntry) (l : List (Nat × Nat)) : List Nat := ((paRanges pages l).flatMap fun x => linesOf x.1 x.2).eraseDups

/-- Lines of an engine's accesses are performed: recorded in the ordering log, unless the issuer ran its handler, and what a read or an add-on-store meets is
corrected (spec/22 R462, R474, R476). -/
def State.orderLines (s : State) (code part kind : Nat) (write quiet : Bool) (lines : List Nat) : State :=
  (lines.filter fun n => homeOf s (64 * n) != .debug && !isPeer (64 * n)).foldl (fun s n =>
    let s := if write && kind != 3 then s else s.correct n
    if quiet then s else s.order n code (some part) write kind) s

/-- The lines of a command's stencil table as its slices see them. -/
def CopyCmd.tableLines (c : CopyCmd) (pages : List TlbEntry) (va : Nat) : List (Nat × Bool) :=
  if c.quiet then [] else (rangeLines pages [(va, 128)]).map fun n => (n, false)

/-- A started command reads its table, if it has one, and goes on to translate (spec/12 R330, R332). A table in a bank in its refresh window is waited
for (spec/10 R285). -/
def State.prepareCopy (s : State) (core i : Nat) : State :=
  match (s.core core).copy? i with
  | none => s
  | some c =>
    let part := s.launchPart c.launch
    let b := copyBlock (match c.block with | some x => x.toNat | none => 0)
    if c.table.isSome || c.block.isNone then s.reachCopy core i
    else if b.xf = 1 then
      let t := match s.block? c.blockKey with | some x => if x.loaded then some x.table else none | none => none
      (s.modCopy core i fun c => { c with table := some (t.getD 0), bare := t.isNone }).reachCopy core i
    else if b.xf = 2 ∨ b.xf = 3 then
      match reach s core part [(b.table, 128)] [] with
      | .trap t => s.copyTrap core c t
      | .fault a k lv va => s.holdCopy core i part (some (va, a, k, lv))
      | .full => s.holdCopy core i part none
      | .ok ps _ =>
       let lines := c.tableLines ps b.table
       if rangesRefresh s ps [(b.table, 128)] || copyBehind s c || slicesBlocked s lines c.code (some part) then
        (s.learn core ps).askRoom lines c.code (some part)
       else
        let t := BitVec.ofNat 8192 (leNat ((addrs b.table 128).map (c.tableByte s ps)))
        if stencilBad t b.src.rank then s.copyTrap core c { cause := causePAGEPERM, info := 2 ^ 5, addr := b.table }
        else
          let s := (s.learn core ps).orderLines c.code part 5 false c.quiet (rangeLines ps [(b.table, 128)])
          (s.modCopy core i fun c => { c with table := some t, got := [] }).reachCopy core i
    else s.reachCopy core i

/-! ### Starting (spec/12 R337; spec/07 R215) -/

/-- Whether a command expands cb2 weights. -/
def CopyCmd.expands (c : CopyCmd) : Bool := match c.block with | some x => bits x.toNat 1698 3 == 1 | none => false

/-- Whether a command is eligible to start. -/
def Core.eligible (x : Core) (ccnt : Nat) (c : CopyCmd) : Bool :=
  !c.moving && decide (c.time ≤ ccnt) && decide ((x.copies.filter (·.moving)).length < Config.copyMoving) &&
  !(c.expands && x.copies.any fun y => y.block.isNone && y.blockKey == c.blockKey && decide (y.arrival < c.arrival))

/-- The eligible command with the smallest key. -/
def Core.nextCopy (x : Core) (ccnt : Nat) : Option CopyCmd :=
  (x.copies.filter (x.eligible ccnt)).foldl (fun (acc : Option CopyCmd) c => match acc with
    | none => some c
    | some d => if c.time < d.time ∨ (c.time = d.time ∧ c.arrival < d.arrival) then some c else some d) none

/-- Whether a partition's work stands still: it halts for a save, or its discard is under way. -/
def State.stopped (s : State) (part : Nat) : Bool := (s.part part).halting || (s.part part).discarding.isSome

/-- The command of a core that starts in this cycle, if one does. -/
def State.copyDue (s : State) (core : Nat) : Option CopyCmd :=
  let x := s.core core
  if x.copyStart = s.ccnt + 1 then none
  else match x.nextCopy s.ccnt with
    | some c => if s.stopped (s.launchPart c.launch) then none else some c
    | none => none

/-- COPY_COMMAND_START (spec/12 R337, R338): command `i` of a core, which must be the one due, begins to move. -/
def execCopyCommandStart (core i : Nat) (s : State) : Host.Outcome State Fault Refusal :=
  match s.copyDue core with
  | some c =>
    if c.arrival = i then
      .next (((s.modCore core fun x => { x with copyStart := s.ccnt + 1 }).modCopy core i fun c => { c with moving := true }).prepareCopy core i)
    else .next s
  | none => .next s

/-! ### Moving and finishing (spec/12 R338, R339, R342; spec/11 R313) -/

/-- Replaces bits of the bytes at some addresses. -/
def mergeLoc (l : Loc) (old v : Nat) : List Byte := natLe l.bytes.length (putBits old l.off l.width v)

/-- The reader of a command's source bytes. -/
def copyReader (s : State) (core base : Nat) (global : Bool) (pages : List TlbEntry) (l : List Nat) : Nat :=
  if global then leNat (l.map fun a => memGet s.mem (paVia pages a)) else leNat (l.map fun a => (s.core core).sByte (base + a))

/-- The bytes of a destination element that are written at address `va` or with it: the whole of an aligned one, else that byte (spec/11 R299). -/
def Loc.pieceOf (l : Loc) (va : Nat) : List Nat := if !l.bytes.contains va then [] else if wholeRun l.bytes then l.bytes else [va]

/-- Writes bytes `vas` of one destination element, but for those in peer memory, which leave for the peer (spec/12 R338; spec/18 R414). -/
def State.putCopy (s : State) (core base : Nat) (global : Bool) (pages : List TlbEntry) (l : Loc) (v : Nat) (vas : List Nat) : State :=
  if global then
    let pas := l.bytes.map (paVia pages)
    let x := (l.bytes.zip (mergeLoc l (leNat (pas.map (memGet s.mem))) v)).filter fun y => vas.contains y.1 && !isPeer (paVia pages y.1)
    s.storeBytes (some core) (pasVia pages (x.map (·.1))) (x.map (·.2))
  else
    let old := leNat (l.bytes.map fun a => (s.core core).sByte (base + a))
    let x := (l.bytes.zip (mergeLoc l old v)).filter fun y => vas.contains y.1
    s.modCore core fun c => x.foldl (fun c y => c.sPut (base + y.1) y.2) c

/-- The lanes of an access to peer memory that carries what a command writes there. A lane that writes part of its bytes carries the bits it writes as a
mask in `data2` (spec/12 R328). -/
def copyLanes (pages : List TlbEntry) (l : List (Loc × Nat)) : List LaneAcc :=
  (l.filter fun x => (x.1.bytes.map (paVia pages)).any isPeer).map fun x =>
    let n := x.1.bytes.length
    { lane := 0, addr := x.1.bytes.headD 0, size := n, data := leNat (mergeLoc x.1 0 x.2),
      data2 := if x.1.width = 8 * n then 0 else (2 ^ x.1.width - 1) <<< x.1.off, off := 0 }

/-- An operation of an engine with writes in peer memory leaves for the peer (spec/18 R414, R415): the state, and the identity of its access. -/
def State.sendRemote (s : State) (core launch part pc : Nat) (kind : AccKind) (pages : List TlbEntry) (lanes : List LaneAcc) : State × List Nat :=
  if lanes.isEmpty then (s, [])
  else
    let a : Access :=
      { id := s.serial, core := core, party := none, launch := launch, partition := part, pc := pc, kind := kind, ord := 0, scratch := false, lanes := lanes,
        spans := some (lanes.map fun l => (l.addr, l.size)), dest := .none, pend := [], ready := true, pages := pages, recs := none, key := none,
        counted := true, sent := some s.ccnt, reserved := 0, reserved1 := false, quiet := false, watched := false, code := 0, agent := none, joined := 0, after := 0, fence := none, piped := true, done := [] }
    (({ s with serial := s.serial + 1, accs := s.accs ++ [a] }).outstanding core launch true, [s.serial])

/-- A CTABLE replaces its block's table as one action (spec/07 R215; spec/10 R294). -/
def State.loadTable (s : State) (core block : Nat) (t : BitVec 8192) : State :=
  (s.modBlock block fun b => { b with table := t, generation := b.generation + 1, loaded := true }).modCore core fun c =>
    { c with tiles := c.tiles.filter fun x => x.block != block || vbits x.record 271 2 != 3 }

/-- Whether a command that has started waits to read its stencil table, and may do so now: no bank of the table is in its refresh window (spec/10 R285). -/
def copyTable (s : State) (c : CopyCmd) : Bool :=
  let b := copyBlock (match c.block with | some x => x.toNat | none => 0)
  c.moving && !c.held && c.ends == 0 && c.table.isNone && c.block.isSome && (b.xf == 2 || b.xf == 3) && (s.part (s.launchPart c.launch)).discarding.isNone &&
  !copyBehind s c &&
  match translate s (c.group / 2) (s.launchPart c.launch) .read [(b.table, 128)] with
  | .ok ps => !rangesRefresh s ps [(b.table, 128)] && (let l := c.tableLines ps b.table
                                                     !slicesBlocked s l c.code (some (s.launchPart c.launch)) ||
                                                       !(slicesWant s l c.code (some (s.launchPart c.launch))).isEmpty)
  | _ => true

/-- Whether a command that has started may move now, but for room in an ordering buffer. -/
def copyTimed (s : State) (core : Nat) (c : CopyCmd) : Bool :=
  c.moving && !c.held && c.ends != 0 && decide (c.ends ≤ s.ecyc core) && (s.part (s.launchPart c.launch)).discarding.isNone &&
  (if c.moved then c.remote.all fun i => (s.acc? i).isNone
   else !copyBehind s c && !rangesRefresh s c.pages c.ranges.1 && !rangesRefresh s c.wpages c.ranges.2)

/-- The lines of a command as its slices see them: each with whether it is written. -/
def CopyCmd.lines (c : CopyCmd) : List (Nat × Bool) :=
  if c.quiet then [] else (rangeLines c.pages c.ranges.1).map (fun n => (n, false)) ++ (rangeLines c.wpages c.ranges.2).map fun n => (n, true)

/-- Whether a command must wait at a slice for room in an ordering buffer (spec/22 R476). -/
def copyBlocked (s : State) (c : CopyCmd) : Bool := !c.moved && slicesBlocked s c.lines c.code (some (s.launchPart c.launch))

/-- The room that its slices have yet to ask for. -/
def copyWants (s : State) (c : CopyCmd) : List (Nat × Nat) := slicesWant s c.lines c.code (some (s.launchPart c.launch))

/-- How a command moves: its block, its points, the first byte of its region, and the value of a point under what it has read (spec/12 R338, R339). -/
structure CopyMove where
  b : CopyBlock
  points : List CopyPoint
  base : Nat
  key : BitVec 64

/-- What a command moves by. -/
def CopyCmd.move (s : State) (c : CopyCmd) : CopyMove :=
  let p := c.plan
  { b := p.1, points := p.2, base := (match s.block? c.blockKey with | some x => x.base | none => 0),
    key := match s.launch? c.launch with | some l => BitVec.ofNat 64 (recBits l.record 384 64) | none => 0 }

/-- The reader of a point's source bytes: what the command has read for it, the rest as it stands now. -/
def CopyCmd.reader (s : State) (core : Nat) (c : CopyCmd) (m : CopyMove) (i : Nat) (l : List Nat) : Nat :=
  leNat (l.map fun a => match c.got.find? fun x => x.1 == i && x.2.1 == a with
    | some x => x.2.2
    | none => BitVec.ofNat 8 (copyReader s core m.base m.b.src.global c.pages [a]))

/-- The value of point `i` and its flags. -/
def CopyCmd.valueAt (s : State) (core : Nat) (c : CopyCmd) (m : CopyMove) (i : Nat) (p : CopyPoint) : Nat × Nat :=
  m.b.value (c.table.getD 0) c.bare m.key (c.reader s core m i) p

/-- The bytes of point `i` that are left to write. -/
def CopyCmd.left (c : CopyCmd) (i : Nat) (p : CopyPoint) : List Nat := p.loc.bytes.filter fun a => !c.put.contains (i, a)

/-- The scratchpad granules, by number from the region, that a command has still bytes to write in. -/
def CopyCmd.openGranules (c : CopyCmd) (m : CopyMove) : List Nat :=
  ((List.range m.points.length).flatMap fun i => match m.points[i]? with | some p => (c.left i p).map fun a => (m.base + a) / 16 | none => []).eraseDups

/-- Whether a part of a command may move by itself: it may move, and nothing of it traps or waits for room. -/
def copyPartly (s : State) (core : Nat) (c : CopyCmd) : Bool :=
  !c.moved && copyTimed s core c && !copyBlocked s c && (!c.put.isEmpty || (homesTrap s c.pages c.wpages c.ranges.1 c.ranges.2).isNone)

/-- A command reads the byte at `va` for point `i`, or of the table that it loads or moves by. -/
def State.copyRead (s : State) (core arrival i va : Nat) : State :=
  match (s.core core).copy? arrival with
  | none => s
  | some c =>
    let m := c.move s
    let table (pages : List TlbEntry) : State :=
      if c.got.any fun x => x.2.1 == va then s
      else s.modCopy core arrival fun c => { c with got := c.got ++ [(0, va, memGet s.mem (paVia pages va))] }
    if c.block.isNone then (if copyPartly s core c && (addrs c.tableVa 1024).contains va then table c.pages else s)
    else if copyTable s c then
      match translate s core (s.launchPart c.launch) .read [(m.b.table, 128)] with
      | .ok ps => if (homesTrap s ps [] [(m.b.table, 128)] []).isNone && (addrs m.b.table 128).contains va then table ps else s
      | _ => s
    else match m.points[i]? with
    | none => s
    | some p =>
      if !copyPartly s core c || !(m.b.srcBytes p).contains va || (c.got.any fun x => x.1 == i && x.2.1 == va) then s
      else s.modCopy core arrival fun c => { c with got := c.got ++ [(i, va, BitVec.ofNat 8 (copyReader s core m.base m.b.src.global c.pages [va]))] }

/-- A command writes the byte at `va` of point `i`, or the whole of an aligned point; a granule whose last byte it is becomes full (spec/12 R338). -/
def State.copyWrite (s : State) (core arrival i va : Nat) : State :=
  match (s.core core).copy? arrival with
  | none => s
  | some c =>
    let m := c.move s
    match m.points[i]? with
    | none => s
    | some p =>
      let vas := (p.loc.pieceOf va).filter fun a => !c.put.contains (i, a) && !(m.b.dst.global && isPeer (paVia c.wpages a))
      if !copyPartly s core c || c.block.isNone || vas.isEmpty then s
      else
        let rd := (m.b.srcBytes p).eraseDups.filter fun a => !c.got.any fun x => x.1 == i && x.2.1 == a
        let got := rd.map fun a => (i, a, BitVec.ofNat 8 (copyReader s core m.base m.b.src.global c.pages [a]))
        let d : CopyCmd := { c with got := c.got ++ got, put := c.put ++ vas.map fun a => (i, a) }
        let s' := s.putCopy core m.base m.b.dst.global c.wpages p.loc (c.valueAt s core m i p).1 vas
        let s' := if m.b.dst.global then s'.noteCode (some core) none (pasVia c.wpages vas)
          else s'.modCore core fun x => x.setFull true ((vas.map fun a => (m.base + a) / 16).eraseDups.filter fun g => !(d.openGranules m).contains g)
        s'.modCopy core arrival fun _ => d

/-- What is left of a command's elements moves (spec/12 R338, R339). Its source bytes are those before; the granules it finishes writing become full. -/
def State.moveCopy (s : State) (core : Nat) (c : CopyCmd) : State :=
  let part := s.launchPart c.launch
  let r := c.ranges
  let s0 := s.orderLines c.code part 5 false c.quiet (rangeLines c.pages r.1)
  match c.block with
  | none =>
    let t := BitVec.ofNat 8192 (leNat ((addrs c.tableVa 1024).map (c.tableByte s c.pages)))
    (s0.loadTable core c.blockKey t).modCopy core c.arrival fun c => { c with moved := true }
  | some _ =>
    let m := c.move s
    let vals := (List.range m.points.length).filterMap fun i => (m.points[i]?).map fun p => (p.loc, c.valueAt s core m i p, c.left i p)
    let s1 := vals.foldl (fun s x => s.putCopy core m.base m.b.dst.global c.wpages x.1 x.2.1.1 x.2.2) s0
    let s2 :=
      if m.b.dst.global then
        let pas := ((paRanges c.wpages r.2).flatMap fun x => addrs x.1 x.2).filter fun a => !isPeer a
        ((s1.unpoisonAll pas).noteCode (some core) none pas).orderLines c.code part 4 true c.quiet (rangeLines c.wpages r.2)
      else s1.modCore core fun x => x.setFull true (c.openGranules m)
    let f := (vals.map fun x => x.2.1.2).foldl (· ||| ·) 0
    let q := if m.b.dst.global then s2.sendRemote core c.launch part c.pc .store c.wpages (copyLanes c.wpages (vals.map fun x => (x.1, x.2.1.1))) else (s2, [])
    q.1.modCopy core c.arrival fun c => { c with moved := true, flags := f, remote := q.2 }

/-- A command has finished: its flags reach its issuer, it leaves the buffer, and its launch slot counts one less. -/
def State.endCopy (s : State) (core : Nat) (c : CopyCmd) : State :=
  let k := warpKey c.group c.slot
  let live := (s.warps.get? k).isSome && (s.warp k).age == c.age
  let s := if live && c.flags != 0 then s.modWarp k fun w => w.orFlags c.flags else s
  let s := s.modCore core fun x => { x with copies := x.copies.filter fun y => y.arrival != c.arrival }
  let s := s.outstanding core c.launch false
  let s := if c.reserved1 then s.releaseLog (s.launchPart c.launch) 1 1 else s
  let gone := match s.block? c.blockKey with | some b => b.live.isEmpty && !copiesOf s core c.blockKey | none => false
  let s := if gone then { s with sched := { s.sched with blocks := s.sched.blocks.erase c.blockKey } } else s
  s.rouse core 4

/-- Whether a command that has started may move now. -/
def copyReady (s : State) (core : Nat) (c : CopyCmd) : Bool := copyTimed s core c && !copyBlocked s c

/-- COPY_COMMAND_FINISH (spec/12 R342): command `i` moves its elements, and finishes once every write is performed. -/
def execCopyCommandFinish (core i : Nat) (s : State) : Host.Outcome State Fault Refusal :=
  match (s.core core).copy? i with
  | none => .next s
  | some c =>
    if copyTable s c then .next (s.prepareCopy core i)
    else if !copyTimed s core c then .next s
    else if copyBlocked s c then .next (s.askRoom c.lines c.code (some (s.launchPart c.launch)))
    else
      let r := c.ranges
      let done (s : State) : State := match (s.core core).copy? i with
        | some c => if c.remote.all fun j => (s.acc? j).isNone then s.endCopy core c else s
        | none => s
      if c.moved then .next (done s)
      else match (if c.put.isEmpty then homesTrap s c.pages c.wpages r.1 r.2 else none) with
        | some t => .next (s.copyTrap core c t)
        | none => .next (done (s.moveCopy core c))

end Sys2Proof.Machine
end

