-- ==== Sys2Proof/Machine/Matrix.lean ====
section
/-!
DEFINITION. The matrix engine: its operations, what each reads, makes and writes, the three paths, and the sequencer's forms
(spec/08 R217 to R234; spec/13 R344 to R353; spec/02 R42, R64, R66 to R70).
-/
namespace Sys2Proof.Machine

open Sys2Proof

/-! ### Types of the forms -/

/-- The A and B types of an MMA code (spec/08 R225). -/
def mmaPair (code : Nat) : Ty × Ty := (mmaTypes code).getD (.i4, .i4)

/-- The window of an MMA code (spec/02 R67). -/
def mmaWindow : Nat → Nat
  | 0x00 => 160 | 0x01 => 64 | _ => 48

/-- Whether an MMA code is an integer combination. -/
def mmaInt (code : Nat) : Bool := decide (0x10 ≤ code)

/-- The types to which the scale state applies (spec/08 R227). -/
def scaledTy (t : Ty) : Bool := t == .f8e4 || t == .f8e5 || t == .f6e3 || t == .f4e2

/-! ### Operations and what they touch (spec/13 R346) -/

/-- The path of an operation: 0 load, 1 compute, 2 drain. -/
def EngOp.path : EngOp → Nat
  | .mload _ _ _ _ _ _ => 0 | .mperm _ _ _ _ => 0 | .mscale _ => 0
  | .mzero _ _ => 1 | .mma _ _ _ _ _ => 1 | .mladr _ _ _ _ => 1
  | .mdrain _ _ _ _ _ _ _ => 2

/-- Slot halves of a type at a slot: keys 2 x slot + half. -/
def halvesOf (t : Ty) (slot half : Nat) : List Nat :=
  if typeSlots t = 0 then [2 * slot + half] else (List.range (2 * typeSlots t)).map (2 * slot + ·)

/-- The halves an operation touches, and whether it writes them. -/
def EngOp.halves : EngOp → List Nat × Bool
  | .mload _ t _ slot half _ => (halvesOf t slot half, true)
  | .mperm _ _ _ slot => (halvesOf .bf16 slot 0, true)
  | .mma code _ slot half _ => (halvesOf (mmaPair code).2 slot half, false)
  | .mladr _ _ slot _ => (halvesOf .bf16 slot 0, false)
  | _ => ([], false)

/-- The tiles an operation touches, and whether it writes them. -/
def EngOp.tiles : EngOp → List Nat × Bool
  | .mzero t pair => (if pair then [t, t + 1] else [t], true)
  | .mma code _ _ _ t => (if code = 0 then [t, t + 1] else [t], true)
  | .mladr _ _ _ t => ([t], true)
  | .mdrain _ _ _ _ _ t kind => (if kind = 2 then [t, t + 1] else [t], false)
  | _ => ([], false)

/-- Memory an operation touches: whether it is global, whether it is written, and the byte ranges in the order of its image. -/
structure EngMem where
  global : Bool
  write : Bool
  ranges : List (Nat × Nat)
deriving DecidableEq, Repr

/-- The memory of an operation (spec/08 R221, R222, R226 to R229). -/
def EngOp.mem : EngOp → Option EngMem
  | .mload g t addr _ _ stride => some ⟨g, false, (List.range 128).map fun n => ((addr + n * stride) % 2 ^ (if g then 57 else 32), colBytes t)⟩
  | .mperm g t addr _ => some ⟨g, false, [(addr, 128 * colBytes t)]⟩
  | .mzero _ _ => none
  | .mma code addr _ _ _ => some ⟨false, false, [(addr, 256 * (mmaPair code).1.width)]⟩
  | .mladr t addr _ _ => some ⟨false, false, [(addr, 256 * t.width)]⟩
  | .mscale (some addr) => some ⟨false, false, [(addr, 640)]⟩
  | .mscale none => none
  | .mdrain g _ df addr stride _ _ =>
    some ⟨g, true, (List.range 32).map fun i => ((addr + i * stride) % 2 ^ (if g then 57 else 32), 16 * (drainOut df).width)⟩

/-- The kind of an operation's global access. -/
def EngOp.gkind : EngOp → GKind
  | .mdrain _ add _ _ _ _ _ => if add then .addStore else .drain
  | .mload _ _ _ _ _ _ => .mload
  | _ => .matrixRead

/-- Whether an operation is an add-on-store. -/
def EngOp.adds : EngOp → Bool | .mdrain _ add _ _ _ _ _ => add | _ => false

/-- Whether an operation reads or writes the scale state. -/
def EngOp.scales : EngOp → Bool × Bool
  | .mscale _ => (false, true)
  | .mma code _ _ _ _ => (scaledTy (mmaPair code).1 || scaledTy (mmaPair code).2, false)
  | _ => (false, false)

/-- Physical ranges of an operation's memory, when they translate; else the virtual ones. -/
def memRanges (s : State) (core part : Nat) (m : EngMem) : List (Nat × Nat) :=
  if !m.global then m.ranges
  else match translate s core part .read m.ranges with
    | .ok pages => paRanges pages m.ranges
    | _ => m.ranges

/-- Whether two operations touch common bytes that one of them writes. -/
def memMeets (s : State) (core part : Nat) : Option EngMem → Option EngMem → Bool
  | some a, some b => a.global == b.global && (a.write || b.write) &&
      (rangesMeet (memRanges s core part a) (memRanges s core part b) || rangesMeet a.ranges b.ranges)
  | _, _ => false

/-- Whether an operation depends on an earlier one (spec/13 R346). -/
def depends (s : State) (core part : Nat) (x y : EngOp) : Bool :=
  ((x.halves.2 || y.halves.2) && x.halves.1.any y.halves.1.contains) ||
  ((x.tiles.2 || y.tiles.2) && x.tiles.1.any y.tiles.1.contains) ||
  (x.scales.2 && y.scales.1) || (x.scales.1 && y.scales.2) || (x.scales.2 && y.scales.2) ||
  memMeets s core part x.mem y.mem

/-- The operation running on a path. -/
def Engine.run (g : Engine) (path : Nat) : Option EngRun := match path with | 0 => g.load | 1 => g.compute | _ => g.drain

/-- Changes what runs on a path. -/
def Engine.setRun (g : Engine) (path : Nat) (r : Option EngRun) : Engine :=
  match path with | 0 => { g with load := r } | 1 => { g with compute := r } | _ => { g with drain := r }

/-- Entries that have been issued and have not completed. -/
def Engine.open (g : Engine) : List EngEntry :=
  g.queue ++ ((List.range 3).flatMap fun p => match g.run p with | some r => r.entries | none => [])

/-- Whether every earlier operation on which an entry depends has completed; `but` are entries of its own pass. -/
def engFree (s : State) (core part : Nat) (g : Engine) (e : EngEntry) (but : List EngEntry) : Bool :=
  !(g.open.any fun y => decide (y.id < e.id) && !but.contains y && depends s core part e.op y.op)

/-! ### Issue (spec/08 R218 to R220) -/

/-- A slot selector: slot and half. -/
def slotSel (e : Env) (o : Operand) (w : IWord) (t : Ty) : Nat × Nat :=
  let x := e.u64 w o % 128
  if typeSlots t = 0 then (x % 64, x / 64) else (roundDown (x % 64) (typeSlots t), 0)

/-- A tile selector: the tile, even when a pair is named. -/
def tileSel (e : Env) (o : Operand) (w : IWord) (pair : Bool) : Nat :=
  let x := e.u64 w o % 8
  if pair then roundDown x 2 else x

/-- An address of a space. -/
def matAddr (e : Env) (w : IWord) (o : Operand) (global : Bool) : Nat := e.u64 w o % 2 ^ (if global then 57 else 32)

/-- MLOAD's operation. -/
def mloadOp (w : IWord) (e : Env) : EngOp :=
  let g := w.ext.getLsbD 5
  let t := (Ty.ofCode (w.ext.toNat % 32)).getD .i8
  let x := slotSel e w.b w t
  let c := e.u64 w w.c
  .mload g t (matAddr e w w.a g) x.1 x.2 (if c = 0 then colBytes t else c % 2 ^ (if g then 57 else 32))

/-- MPERM's operation. -/
def mpermOp (w : IWord) (e : Env) : EngOp :=
  let g := w.ext.getLsbD 5
  .mperm g ((Ty.ofCode (w.ext.toNat % 32)).getD .i8) (matAddr e w w.a g) (slotSel e w.b w .bf16).1

/-- MZERO's operation. -/
def mzeroOp (w : IWord) (e : Env) : EngOp := .mzero (tileSel e w.c w (w.ext.getLsbD 0)) (w.ext.getLsbD 0)

/-- MMA's operation. -/
def mmaOp (w : IWord) (e : Env) : EngOp :=
  let code := w.ext.toNat
  let x := slotSel e w.b w (mmaPair code).2
  .mma code (roundDown (matAddr e w w.a false) 16) x.1 x.2 (tileSel e w.c w (code == 0))

/-- MLADR's operation. -/
def mladrOp (w : IWord) (e : Env) : EngOp :=
  .mladr ((Ty.ofCode (w.ext.toNat % 32)).getD .i8) (roundDown (matAddr e w w.a false) 16) (slotSel e w.b w .bf16).1 (tileSel e w.c w false)

/-- MSCALE's operation. -/
def mscaleOp (w : IWord) (e : Env) : EngOp := .mscale (some (roundDown (matAddr e w w.a false) 16))

/-- MSCALE.clr's operation. -/
def mscaleClrOp (_ : IWord) (_ : Env) : EngOp := .mscale none

/-- The kind of an MDRAIN: bits 4:3 of its tile selector. -/
def drainKind (w : IWord) (e : Env) : Nat := e.u64 w w.c / 8 % 4

/-- MDRAIN's operation. Only a stride operand of 0 is the packed one (log entry 38). -/
def mdrainOp (w : IWord) (e : Env) : EngOp :=
  let g := w.ext.getLsbD 5
  let df := w.ext.toNat % 16
  let kind := drainKind w e
  let b := e.u64 w w.b
  let st := if b = 0 then 16 * (drainOut df).width else roundDown (b % 2 ^ (if g then 57 else 32)) 16
  .mdrain g (w.ext.getLsbD 4) df (roundDown (matAddr e w w.a g) 16) st (tileSel e w.c w (kind == 2)) kind

/-- What stands before an engine operation's entry into the queue. -/
def engGate (op : EngOp) (pre : Option Trap) (e : Env) (s : State) : Gate :=
  match pre with
  | some t => .trap t
  | none =>
    let m := op.mem
    let bound : Option Trap := match m with
      | some m => if m.global then none else beyond (s.region e.party).2 m.ranges
      | none => none
    match bound with
    | some t => .trap t
    | none =>
      match e.decisionGate s (match m with | some m => b2n m.global | none => 0) with
      | .ok => if Config.engineQueue ≤ (s.core e.core).engine.queue.length then .wait .engine else .ok
      | g => g

/-- An operation enters the engine queue. -/
def engEff (op : EngOp) (e : Env) (s : State) : State :=
  let part := s.partyPart e.party
  let r1 := logOn s part 1 && (match op.mem with | some m => m.global | none => false)
  let s := if r1 then s.reserveLog part e.group 1 1 else s
  let key := if op.adds && s.keyed e.party then some (s.keyOf e.party) else none
  let s := if key.isSome then s.countAtomic e.party else s
  let s := if op.adds then s.outstanding e.core e.w.launch true else s
  s.modCore e.core fun c =>
    { c with engine := { c.engine with queue := c.engine.queue ++ [{ id := c.engine.issued, pc := e.pc, op := op, key := key, reserved1 := r1 }],
                                       issued := c.engine.issued + 1 } }

/-- A form that enters the engine queue. -/
def engSem (op : Nat) (w : IWord) (mk : IWord → Env → EngOp) (pre : Env → Option Trap) : Sem :=
  { op := op, w := w, gate := fun e s => engGate (mk w e) (pre e) e s, eff := fun e s => engEff (mk w e) e s }

/-- MLOAD. -/
def semMload (w : IWord) : Sem := engSem 0xC0 w mloadOp fun _ => none
/-- MLOAD issues. -/
def execMload (w : IWord) (s : State) : Host.Outcome State Fault Refusal := runSem (semMload w) s
/-- MPERM. -/
def semMperm (w : IWord) : Sem := engSem 0xC1 w mpermOp fun _ => none
/-- MPERM issues. -/
def execMperm (w : IWord) (s : State) : Host.Outcome State Fault Refusal := runSem (semMperm w) s
/-- MZERO. -/
def semMzero (w : IWord) : Sem := engSem 0xC2 w mzeroOp fun _ => none
/-- MZERO issues. -/
def execMzero (w : IWord) (s : State) : Host.Outcome State Fault Refusal := runSem (semMzero w) s
/-- MMA. -/
def semMma (w : IWord) : Sem := engSem 0xC3 w mmaOp fun _ => none
/-- MMA issues. -/
def execMma (w : IWord) (s : State) : Host.Outcome State Fault Refusal := runSem (semMma w) s
/-- MLADR. -/
def semMladr (w : IWord) : Sem := engSem 0xC4 w mladrOp fun _ => none
/-- MLADR issues. -/
def execMladr (w : IWord) (s : State) : Host.Outcome State Fault Refusal := runSem (semMladr w) s
/-- MSCALE. -/
def semMscale (w : IWord) : Sem := engSem 0xC5 w mscaleOp fun _ => none
/-- MSCALE issues. -/
def execMscale (w : IWord) (s : State) : Host.Outcome State Fault Refusal := runSem (semMscale w) s
/-- MSCALE.clr. -/
def semMscaleClr (w : IWord) : Sem := engSem 0xC5 w mscaleClrOp fun _ => none
/-- MSCALE.clr issues. -/
def execMscaleClr (w : IWord) (s : State) : Host.Outcome State Fault Refusal := runSem (semMscaleClr w) s
/-- MDRAIN: a kind from an s register that DF does not allow is ILLOP with code 9 (spec/08 R229). -/
def semMdrain (w : IWord) : Sem :=
  engSem 0xC6 w mdrainOp fun e =>
    if drainKindOk (w.ext.toNat % 16) (w.ext.getLsbD 4) (drainKind w e) then none else some { cause := causeILLOP, info := 9 }
/-- MDRAIN issues. -/
def execMdrain (w : IWord) (s : State) : Host.Outcome State Fault Refusal := runSem (semMdrain w) s

/-! ### Starting (spec/13 R346 to R348, R351) -/

/-- Nonzero differences over a panel's valid columns. -/
def ladderCount (g : Engine) (slot : Nat) : Nat :=
  ((List.range 128).map fun n => match g.panels.get? (128 * (slot / 2) + n) with
    | some p => if p.invalid then 0 else (p.diffs.filter (· != 0)).length
    | none => 0).sum

/-- Whether both slots of a pair are tagged panel. -/
def Engine.panelled (g : Engine) (slot : Nat) : Bool := (List.range 4).all fun h => g.tags.getD (2 * slot + h) .none == .panel

/-- The cycles of an operation, with the f6e3 position it takes (spec/13 R347, R348, R351). -/
def engCycles (g : Engine) (now : Nat) : EngOp → Nat × Nat
  | .mload _ t _ _ _ _ => (ceilDiv (128 * colBytes t) 256, 0)
  | .mperm _ t _ _ => (if t = .ld4 then 48 else ceilDiv (128 * colBytes t) 256 + 64, 0)
  | .mscale (some _) => (3, 0)
  | .mscale none => (1, 0)
  | .mzero _ pair => (if pair then 2 else 1, 0)
  | .mma code _ _ _ _ =>
    match (mmaPair code).1 with
    | .f64 => (512, 0) | .f32 => (256, 0) | .bf16 => (64, 0) | .f16 => (64, 0)
    | .f4e2 => (16, 0) | .i4 => (16, 0)
    | .f6e3 => let p := if g.f6end = now ∧ g.f6pos ≠ 0 then g.f6pos + 1 else 1; (if p % 3 = 1 then 22 else 21, p)
    | _ => (32, 0)
  | .mladr _ _ slot _ => (max 64 (ceilDiv (if g.panelled slot then ladderCount g slot else 0) 64), 0)
  | .mdrain _ add df _ _ _ _ => (2 * (drainOut df).width * (if add then 2 else 1), 0)

/-- Later MLADRs that join a pass. -/
def passTail (s : State) (core part : Nat) (g : Engine) (slot : Nat) : Nat → List EngEntry → List EngEntry → List EngEntry
  | 0, acc, _ => acc
  | _, acc, [] => acc
  | n + 1, acc, e :: r =>
    let last := match acc.getLast? with | some x => x.id | none => 0
    match e.op with
    | .mladr _ _ j _ => if j = slot ∧ e.id = last + 1 ∧ engFree s core part g e acc then passTail s core part g slot n (acc ++ [e]) r else acc
    | _ => acc

/-- The entries that start with the oldest of a path. -/
def passOf (s : State) (core part : Nat) (g : Engine) (e : EngEntry) : List EngEntry :=
  match e.op with
  | .mladr _ _ slot _ => passTail s core part g slot 7 [e] (g.queue.filter fun y => decide (e.id < y.id))
  | _ => [e]

/-- The bytes of ranges of the scratchpad, from a region. -/
def scratchImage (c : Core) (base : Nat) (l : List (Nat × Nat)) : List Byte := l.flatMap fun r => (List.range r.2).map fun i => c.sByte (base + r.1 + i)

/-- What the global access of an operation finds. -/
inductive EngReach where
  | ok (pages : List TlbEntry)
  | fault (kind level va : Nat)
  /-- The replay buffer is full, and a page is not in the TLBs (spec/19 R427). -/
  | full
  | trap (t : Trap)
deriving DecidableEq, Repr

/-- What the homes of an operation's global bytes refuse, and the errors they meet. -/
def engHomes (s : State) (op : EngOp) (pages : List TlbEntry) : Option Trap :=
  match op.mem with
  | none => none
  | some m =>
    if !m.global then none
    else
      match m.ranges.findSome? fun x => rangeTrap s op.gkind pages x.1 x.2 with
      | some t => some t
      | none =>
        match (if m.write then unitTrap s pages m.ranges else none) with
        | some t => some t
        | none =>
          let bytes := (paRanges pages m.ranges).flatMap fun x => addrs x.1 x.2
          match (if m.write && !op.adds then bytes.find? fun a => (writeUeAt s bytes a).isSome else bytes.find? fun a => (ueAt s a).isSome) with
          | none => none
          | some a =>
            let cls := (if m.write && !op.adds then writeUeAt s bytes a else ueAt s a).getD 0
            let va := (m.ranges.flatMap fun x => addrs x.1 x.2).find? fun v => paVia pages v == a
            some (ueTrap cls (va.getD (m.ranges.headD (0, 0)).1))

/-- Translates the memory of an operation and asks its homes. -/
def engReach (s : State) (core part : Nat) (op : EngOp) : EngReach :=
  match op.mem with
  | none => .ok []
  | some m =>
    if !m.global then .ok []
    else
      let k := op.gkind
      match translate s core part k.acc m.ranges with
      | .trap t => .trap t
      | .fault a b c => .fault a b c
      | .ok pages => match engHomes s op pages with
        | some t => .trap t
        | none => if missesFull s core part k.acc m.ranges then .full else .ok pages

/-- The block a core's sequencer works for. -/
def Core.seqBlock (c : Core) : Nat := match c.seq with | some q => q.block | none => 0

/-- A trap of the engine: of the sequencer, at the operation's word (spec/08 R220). -/
def State.engTrap (s : State) (core pc : Nat) (t : Trap) : State :=
  let part := s.partyPart (.seq core)
  (s.meetUe core part (s.paOf core part t.addr) t).takeTrap (.seq core) pc false t

/-- The entry of a path that may start: the oldest of its path, when the path is free, its dependences have completed and it is not in the replay buffer. -/
def engDue (s : State) (core path : Nat) : Option EngEntry :=
  let c := s.core core
  let g := c.engine
  let part := s.partyPart (.seq core)
  if c.seq.isNone || (g.run path).isSome || s.stopped part then none
  else
    match g.queue.find? fun e => e.op.path == path with
    | none => none
    | some e =>
      let waits := (c.replay ++ c.replayWait).any fun r => r.item == .engine e.id
      if waits || !engFree s core part g e [] then none else some e

/-- MATRIX_OP_START (spec/13 R346): the operation due on a path starts, with the MLADRs that join its pass. -/
def execMatrixOpStart (core path : Nat) (s : State) : Host.Outcome State Fault Refusal :=
  match engDue s core path with
  | none => .next s
  | some e =>
    let part := s.partyPart (.seq core)
    match engReach s core part e.op with
    | .trap t => .next (s.engTrap core e.pc t)
    | .fault k lv va => .next (s.enterReplay core part (.engine e.id) false false (some (va, e.op.gkind.faultAcc, k, lv)))
    | .full => .next (s.enterReplay core part (.engine e.id) false false none)
    | .ok pages =>
      let s := s.learn core pages
      let c := s.core core
      let g := c.engine
      let base := match s.block? c.seqBlock with | some b => b.base | none => 0
      let l := passOf s core part g e
      let now := s.ecyc core
      let n := engCycles g now e.op
      let images := l.map fun x => match x.op.mem with
        | some m => if m.global || m.write then [] else scratchImage c base m.ranges
        | none => []
      let g := { g with queue := g.queue.filter fun y => !l.contains y }
      let g := if n.2 = 0 then g else { g with f6pos := n.2, f6end := now + n.1 }
      .next (s.setCore core { c with engine := g.setRun path (some { entries := l, ends := now + n.1, images := images, pages := pages, moved := false, remote := [], done := [], got := [] }) })

/-! ### Slots and panels (spec/08 R221 to R223; spec/13 R344) -/

/-- Fills slots from a packed image. -/
def Engine.fillSlots (g : Engine) (t : Ty) (slot half : Nat) (image : List Byte) (table : BitVec 8192) : Engine :=
  if typeSlots t = 0 then
    let x := putBits (g.slot slot).toNat (32768 * half) 32768 (leNat image)
    { g with slots := g.slots.set slot (BitVec.ofNat 65536 x), tags := g.tags.set (2 * slot + half) (.ty t),
             books := if t = .cb2 then g.books.set (2 * slot + half) table else g.books.erase (2 * slot + half) }
  else
    (List.range (typeSlots t)).foldl (fun (g : Engine) i =>
      { g with slots := g.slots.set (slot + i) (BitVec.ofNat 65536 (leNat ((image.drop (8192 * i)).take 8192))),
               tags := (g.tags.set (2 * (slot + i)) (.ty t)).set (2 * (slot + i) + 1) (.ty t),
               books := (g.books.erase (2 * (slot + i))).erase (2 * (slot + i) + 1) }) g

/-- Loads a ladder panel into a slot pair. -/
def Engine.fillPanel (g : Engine) (t : Ty) (slot : Nat) (image : List Byte) (table : BitVec 8192) : Engine :=
  let n := colBytes t
  { g with panels := (List.range 128).foldl (fun p i => p.set (128 * (slot / 2) + i) (panelOf t table ((image.drop (n * i)).take n))) g.panels,
           slots := (g.slots.erase slot).erase (slot + 1),
           tags := (List.range 4).foldl (fun p h => p.set (2 * slot + h) .panel) g.tags,
           books := (List.range 4).foldl (fun p h => p.erase (2 * slot + h)) g.books }

/-! ### Products (spec/08 R225 to R227; spec/02 R66 to R69) -/

/-- A word of a tile. -/
def tileWord (g : Engine) (t i j : Nat) : Nat := vbits (g.tiles.getD t 0) (32 * (128 * i + j)) 32

/-- An element of a tile, or of a pair (spec/01 R42). -/
def tileElem (g : Engine) (pair : Bool) (t i j : Nat) : Nat := if pair then tileWord g t i j + tileWord g (t + 1) i j * 2 ^ 32 else tileWord g t i j

/-- A tile from its words. -/
def tileOf (f : Nat → Nat → Nat) : TileBits :=
  BitVec.ofNat 131072 (gatherBits ((List.range 32).flatMap fun i => (List.range 128).map fun j => (32 * (128 * i + j), 32, f i j))).1

/-- Writes the elements of a tile or a pair. -/
def Engine.setTile (g : Engine) (pair : Bool) (t : Nat) (f : Nat → Nat → Nat) : Engine :=
  if pair then { g with tiles := (g.tiles.set t (tileOf fun i j => f i j % 2 ^ 32)).set (t + 1) (tileOf fun i j => f i j / 2 ^ 32) }
  else { g with tiles := g.tiles.set t (tileOf f) }

/-- An element pattern of a row of an A image. -/
def rowElem (image : Nat) (wa m k : Nat) : Nat := bits image (64 * wa * m + wa * k) wa

/-- Where column `n` of a B tile lies: its slot, its halves, and the bit offset of the column in the slot. -/
def colPlace (t : Ty) (slot half n : Nat) : Nat × List Nat × Nat :=
  if typeSlots t = 0 then (slot, [half], 32768 * half + 8 * colBytes t * n)
  else let i := n * colBytes t / 8192; (slot + i, [0, 1], 8 * (n * colBytes t % 8192))

/-- The pattern of element (k, n) of a B tile whose tag matches; none supplies +0. For cb2 the weight itself. -/
def bElem (g : Engine) (t : Ty) (slot half n k : Nat) : Option (Nat ⊕ FVal) :=
  let p := colPlace t slot half n
  if !(p.2.1.all fun h => g.tag p.1 h == .ty t) then none
  else if t = .cb2 then
    let x := g.slot p.1
    let idx := vbits x (p.2.2 + 16 * (k / 8)) 16
    let sc := vbits x (p.2.2 + 128 + 8 * (k / 16)) 8
    some (.inr (cb2Weight (g.books.getD (2 * p.1 + half) 0) idx (k % 8) sc))
  else some (.inl (vbits (g.slot p.1) (p.2.2 + t.width * k) t.width))

/-- The value of a float pattern of an operand type; f6e3 in its container. -/
def operandVal (t : Ty) (x : Nat) : FVal := fDecode (Fmt.ofTy t) (x % 2 ^ (Fmt.ofTy t).width)

/-- A scale byte of the scale image. -/
def scaleAt (g : Engine) (byte : Nat) : Nat := match g.scale with | some x => vbits x (8 * byte) 8 | none => 127

/-- A value times 2^x. -/
def FVal.shift (v : FVal) (x : Int) : FVal := match v with | .fin s m e => .fin s m (e + x) | v => v

/-- The product of elements (m, k) and (k, n), and whether a scale of 0xFF poisons it. -/
def product (g : Engine) (ta tb : Ty) (a : Nat) (b : Option (Nat ⊕ FVal)) (m n k : Nat) : FVal × Bool :=
  let av := operandVal ta a
  let bv := match b with
    | none => FVal.fin false 0 0
    | some (.inr v) => v
    | some (.inl x) => operandVal tb x
  let sa := if scaledTy ta then scaleAt g (4 * m + k / 16) else 127
  let sb := if scaledTy tb then scaleAt g (128 + 4 * n + k / 16) else 127
  let bad := match b with | some (.inr .nan) => true | _ => false
  if sa == 255 || sb == 255 || bad then (.nan, true)
  else ((av.mul bv).shift ((sa : Int) - 127 + ((sb : Int) - 127)), false)

/-- One accumulator element of a float MMA. -/
def mmaFloat (g : Engine) (code : Nat) (image slot half m n acc : Nat) : Nat × Nat :=
  let t := mmaPair code
  let f : Fmt := if code = 0 then .f64 else .f32
  (List.range 4).foldl (fun (r : Nat × Nat) q =>
    let ps := (List.range 16).map fun i =>
      let k := 16 * q + i
      product g t.1 t.2 (rowElem image t.1.width m k) (bElem g t.2 slot half n k) m n k
    let x := addGroup f (mmaWindow code) r.1 (ps.map (·.1))
    (x.1, r.2 ||| x.2 ||| (if ps.any (·.2) then flagPoison else 0))) (acc, 0)

/-- One accumulator element of an integer MMA. -/
def mmaInteger (g : Engine) (code : Nat) (image slot half m n acc : Nat) : Nat × Nat :=
  let t := mmaPair code
  (List.range 4).foldl (fun (r : Nat × Nat) q =>
    let sum : Int := ((List.range 16).map fun i =>
      let k := 16 * q + i
      let b : Int := match bElem g t.2 slot half n k with
        | some (.inl x) => iInt t.2.isSigned t.2.width x
        | _ => 0
      iInt t.1.isSigned t.1.width (rowElem image t.1.width m k) * b).foldl (· + ·) 0
    let x := satFlag (satTo true 32 (sInt 32 r.1 + sum))
    (x.1, r.2 ||| x.2)) (acc, 0)

/-- The elements of a tile after an operation, with the OR of the flags. -/
def tileResult (f : Nat → Nat → Nat × Nat) : (Nat → Nat → Nat) × Nat :=
  let t := (List.range 32).map fun i => (List.range 128).map (f i)
  (fun i j => ((((t[i]?).getD [])[j]?).getD (0, 0)).1, (t.flatMap fun r => r.map (·.2)).foldl (· ||| ·) 0)

/-- An MMA's effect. -/
def Engine.mma (g : Engine) (code slot half tile : Nat) (image : List Byte) : Engine × Nat :=
  let x := leNat image
  let pair := code == 0
  let r := tileResult fun m n =>
    if mmaInt code then mmaInteger g code x slot half m n (tileElem g pair tile m n) else mmaFloat g code x slot half m n (tileElem g pair tile m n)
  (g.setTile pair tile r.1, r.2)

/-! ### The ladder path (spec/02 R70; spec/08 R223, R228) -/

/-- The activations of a row as integers in units of 2^u: none when one is not finite, and the unit; `zero` when every bf16 activation is zero. -/
structure Acts where
  vals : List Int
  unit : Int
  bad : Bool
  zero : Bool
deriving DecidableEq, Repr

/-- The activations of row `m`. -/
def rowActs (t : Ty) (image m : Nat) : Acts :=
  let l := (List.range 64).map fun k => rowElem image t.width m k
  if t = .i8 then ⟨l.map (sInt 8), 0, false, false⟩
  else
    let vs := l.map (fDecode .bf16)
    let nz := l.filter fun x => Fmt.fMag' x != 0
    let emax : Int := (nz.map fun x => max 1 (bits x 7 8)).foldl max 0 - 127
    let unit := emax - 40
    let v := vs.map fun x => match x with
      | .fin s m e => let q := if unit ≤ e then m * 2 ^ (e - unit).toNat else m / 2 ^ (unit - e).toNat
                      (if s then -(q : Int) else (q : Int))
      | _ => 0
    ⟨v, unit, vs.any (fun x => match x with | .fin _ _ _ => false | _ => true), nz.isEmpty⟩
where
  /-- The magnitude bits of a bf16 pattern. -/
  Fmt.fMag' (x : Nat) : Nat := x % 2 ^ 15

/-- The running sums U_63 down to U_0, in that order. -/
def runningSums (p : Panel) (a : Acts) : List Int :=
  ((p.perm.reverse.map fun k => intAt a.vals k).foldl (fun (acc : List Int × Int) x => (acc.1 ++ [acc.2 + x], acc.2 + x)) ([], 0)).1

/-- The total T of a group for a row. -/
def ladderTotal (p : Panel) (a : Acts) : Dy :=
  let u := runningSums p a
  let d : Int := ((List.range 63).map fun i => intAt p.diffs (62 - i) * intAt u i).foldl (· + ·) 0
  (⟨d, p.unitE + a.unit⟩ : Dy).add ⟨p.baseM * intAt u 63, p.baseE + a.unit⟩

/-- One accumulator element of an MLADR. -/
def ladderElem (p : Option Panel) (a : Acts) (acc : Nat) : Nat × Nat :=
  match p with
  | none => (acc, 0)
  | some p =>
    if p.invalid then (Fmt.f32.canonNaN, flagPoison)
    else if a.bad then (Fmt.f32.canonNaN, 0)
    else if a.zero then (acc, 0)
    else
      match fDecode .f32 acc with
      | .fin s m e =>
        let t := ladderTotal p a
        if t.m = 0 then (if m = 0 then (0, 0) else (acc, 0)) else roundDy .f32 .rne 0 false ((Dy.ofFin s m e).add t)
      | _ => (acc, 0)

/-- An MLADR's effect. -/
def Engine.mladr (g : Engine) (t : Ty) (slot tile : Nat) (image : List Byte) : Engine × Nat :=
  if !g.panelled slot then (g, 0)
  else
    let x := leNat image
    let rows := (List.range 32).map (rowActs t x)
    let r := tileResult fun m n =>
      ladderElem (g.panels.get? (128 * (slot / 2) + n)) ((rows[m]?).getD ⟨[], 0, false, true⟩) (tileWord g tile m n)
    (g.setTile false tile r.1, r.2)

/-! ### Drains (spec/08 R229, R230) -/

/-- A drain as it writes: the first byte of its block's region, what it writes with, and its elements by address. -/
structure DrainMove where
  base : Nat
  global : Bool
  add : Bool
  df : Nat
  kind : Nat
  pages : List TlbEntry
  rows : List (Nat × Nat)
  elems : List (Nat × Nat)

/-- What an operation drains, if it does. -/
def drainMove (s : State) (core : Nat) (op : EngOp) (pages : List TlbEntry) : Option DrainMove :=
  match op, op.mem with
  | .mdrain g add df addr stride tile kind, some m =>
    let n := (drainOut df).width / 8
    some { base := (match s.block? (s.core core).seqBlock with | some b => b.base | none => 0), global := g, add := add, df := df, kind := kind, pages := pages,
           rows := m.ranges,
           elems := (List.range 32).flatMap fun i => (List.range 128).map fun j =>
             ((addr + i * stride + j * n) % 2 ^ (if g then 57 else 32), tileElem (s.core core).engine (kind == 2) tile i j) }
  | _, _ => none

/-- Bytes of an element. -/
def DrainMove.size (d : DrainMove) : Nat := (drainOut d.df).width / 8

/-- The physical addresses of an element, of a drain to global memory. -/
def DrainMove.pas (d : DrainMove) (x : Nat × Nat) : List Nat := (addrs x.1 d.size).map (paVia d.pages)

/-- The unit of an address, which is written whole: a 16-byte granule, or a line of an add-on-store to global memory (spec/11 R299; spec/08 R230). -/
def DrainMove.unit (d : DrainMove) (a : Nat) : Nat := a / (if d.add then 64 else 16)

/-- Writes one element: at its home, or in the core's scratchpad; the flags of its rounding. A peer rounds an add-on-store's element itself. -/
def State.drainElem (s : State) (core : Nat) (d : DrainMove) (x : Nat × Nat) : State × Nat :=
  if d.global then
    let pas := d.pas x
    if pas.any isPeer then (s, if d.add then 0 else (drainVal d.df d.kind x.2 none).2)
    else
      let r := drainVal d.df d.kind x.2 (if d.add then some (leNat (pas.map (memGet s.mem))) else none)
      (s.storeBytes (some core) pas (natLe d.size r.1), r.2)
  else
    let r := drainVal d.df d.kind x.2 (if d.add then some ((s.core core).sNat (d.base + x.1) d.size) else none)
    (s.modCore core fun c => c.sPuts (d.base + x.1) (natLe d.size r.1), r.2)

/-- The flags of an engine operation reach every live warp of its block (spec/02 R64). -/
def State.engFlags (s : State) (core flags : Nat) : State :=
  match s.block? (s.core core).seqBlock with
  | some b => s.orBlockFlags b.launch b.bid flags
  | none => s

/-- Writes the elements of a drain that lie in some of its units; granules of the scratchpad become full. -/
def State.drainUnits (s : State) (core : Nat) (d : DrainMove) (keep : Nat → Bool) : State :=
  let l := d.elems.filter fun x => keep (d.unit x.1)
  let r := l.foldl (fun (a : State × Nat) x => let y := a.1.drainElem core d x; (y.1, a.2 ||| y.2)) (s, 0)
  (if d.global then r.1.noteCode (some core) (some (s.agentOf (.seq core))) ((l.flatMap d.pas).filter fun a => !isPeer a)
   else r.1.modCore core fun c => c.setFull true ((l.map fun x => (d.base + x.1) / 16).eraseDups)).engFlags core r.2

/-- What is left of a drain is written, and its elements in peer memory leave for the peer: the state, and the accesses it waits for. -/
def State.drain (s : State) (core pc : Nat) (d : DrainMove) (written : List Nat) : State × List Nat :=
  let part := s.partyPart (.seq core)
  let s := s.drainUnits core d fun u => !written.contains u
  if d.global then
    let s := s.unpoisonAll (((paRanges d.pages d.rows).flatMap fun x => addrs x.1 x.2).filter fun a => !isPeer a)
    let s := s.orderLines (partyCode s (.seq core)) part (if d.add then 3 else 1) true false (rangeLines d.pages d.rows)
    let lanes := (d.elems.filter fun x => (d.pas x).any isPeer).map fun x =>
      ({ lane := 0, addr := x.1, size := d.size, data := if d.add then x.2 else (drainVal d.df d.kind x.2 none).1, data2 := 0, off := 0 } : LaneAcc)
    s.sendRemote core (s.partyLaunchNo (.seq core)) part pc (if d.add then .addOn d.df d.kind else .store) d.pages lanes
  else (s, [])

/-! ### Completion (spec/13 R346; spec/08 R231) -/

/-- Changes a core's engine. -/
def State.modEngine (s : State) (core : Nat) (f : Engine → Engine) : State := s.modCore core fun c => { c with engine := f c.engine }

/-- The bytes of global ranges as an engine of a core reads them: at home, under the stores in the core's memory pipeline (spec/11 R300, R314),
but for those in `got`, which it has read. -/
def engRead (s : State) (core : Nat) (pages : List TlbEntry) (got : List (Nat × Byte)) (l : List (Nat × Nat)) : List Byte :=
  let puts := pipeline s core
  (paRanges pages l).flatMap fun x => (List.range x.2).map fun i =>
    match got.find? fun y => y.1 == x.1 + i with
    | some y => y.2
    | none => readByte s core false puts (x.1 + i)

/-- The ladder path leaves its rung registers at values the spec does not give (spec/13 R352). -/
def Engine.leaveRungs (g : Engine) (n : Nat) : Engine := { g with rungs := (List.range 128).map fun i => (i, Config.freeRung (128 * n + i)) }

/-- What an operation does when it completes: the state, and the accesses to peers it waits for. -/
def State.engPerform (s : State) (core : Nat) (e : EngEntry) (image : List Byte) (run : EngRun) : State × List Nat :=
  let pages := run.pages
  let table := match s.block? (s.core core).seqBlock with | some b => b.table | none => 0
  let part := s.partyPart (.seq core)
  let img : List Byte := match e.op.mem with | some m => if m.global && !m.write then engRead s core pages run.got m.ranges else image | none => []
  let s := match e.op.mem with
    | some m => if m.global && !m.write then s.orderLines (partyCode s (.seq core)) part 0 false false (rangeLines pages m.ranges) else s
    | none => s
  match e.op with
  | .mload _ t _ slot half _ => (s.modEngine core fun g => g.fillSlots t slot half img table, [])
  | .mperm _ t _ slot => (s.modEngine core fun g => g.fillPanel t slot img table, [])
  | .mscale (some _) => (s.modEngine core fun g => { g with scale := some (BitVec.ofNat 5120 (leNat img)) }, [])
  | .mscale none => (s.modEngine core fun g => { g with scale := none }, [])
  | .mzero t pair => (s.modEngine core fun g => { g with tiles := if pair then (g.tiles.erase t).erase (t + 1) else g.tiles.erase t }, [])
  | .mma code _ slot half tile =>
    let r := (s.core core).engine.mma code slot half tile img
    ((s.modEngine core fun _ => r.1).engFlags core r.2, [])
  | .mladr t _ slot tile =>
    let r := (s.core core).engine.mladr t slot tile img
    ((s.modEngine core fun g => if g.panelled slot then r.1.leaveRungs (Config.cores * s.ccnt + core) else r.1).engFlags core r.2, [])
  | .mdrain _ _ _ _ _ _ _ => match drainMove s core e.op pages with | some d => s.drain core e.pc d run.done | none => (s, [])

/-- Performs the entries of a run, in stream order. -/
def State.engAll (s : State) (core : Nat) (run : EngRun) : List (EngEntry × List Byte) → State × List Nat
  | [] => (s, [])
  | x :: r =>
    let a := s.engPerform core x.1 x.2 run
    let b := a.1.engAll core run r
    (b.1, a.2 ++ b.2)

/-- What an entry gives back when it has completed: its launch-slot count and its reserved room. -/
def State.engRelease (s : State) (core : Nat) (e : EngEntry) : State :=
  let s := if e.op.adds then s.outstanding core (s.partyLaunchNo (.seq core)) false else s
  if e.reserved1 then s.releaseLog (s.partyPart (.seq core)) 1 1 else s

/-- The lines of what runs on a path as their slices see them: each with whether it is written. -/
def EngRun.lines (r : EngRun) : List (Nat × Bool) :=
  r.entries.flatMap fun e => match e.op.mem with
    | none => []
    | some m => if m.global then (rangeLines r.pages m.ranges).map fun n => (n, m.write) else []

/-- Whether an operation must wait at a slice for room in an ordering buffer (spec/22 R476). -/
def engBlocked (s : State) (core : Nat) (r : EngRun) : Bool :=
  !r.moved && slicesBlocked s r.lines (partyCode s (.seq core)) (some (s.partyPart (.seq core)))

/-- The room that its slices have yet to ask for. -/
def engWants (s : State) (core : Nat) (r : EngRun) : List (Nat × Nat) := slicesWant s r.lines (partyCode s (.seq core)) (some (s.partyPart (.seq core)))

/-- Asks for that room. -/
def State.engAsk (s : State) (core : Nat) (r : EngRun) : State := s.askRoom r.lines (partyCode s (.seq core)) (some (s.partyPart (.seq core)))

/-- Whether a drain must wait: for stores of its core that lie before it in the core's memory pipeline, or for accesses of its own stream
(spec/08 R218; spec/11 R303, R314). -/
def drainHeld (s : State) (core : Nat) (pages : List TlbEntry) (m : EngMem) : Bool :=
  m.global && m.write && s.accs.any fun a => a.core == core && !a.scratch && a.sent.isNone && (a.piped || (a.of (.seq core) && a.ready)) &&
    rangesMeet a.pas (paRanges pages m.ranges)

/-- Whether what runs on a path may complete, but for room in an ordering buffer. -/
def engTimed (s : State) (core path : Nat) : Bool :=
  let part := s.partyPart (.seq core)
  match (s.core core).engine.run path with
  | none => false
  | some r =>
    decide (r.ends ≤ s.ecyc core) && (s.part part).discarding.isNone &&
    (if r.moved then r.remote.all fun i => (s.acc? i).isNone
     else
       r.entries.all fun e =>
         (match e.key with
          | some k => match addLines s core part e.op with | some l => keyFree s part k none l | none => true
          | none => true) &&
         match e.op.mem with
         | none => true
         | some m =>
           !m.global || (!rangesRefresh s r.pages m.ranges && !drainHeld s core r.pages m))

/-- Whether what runs on a path may complete. -/
def engReady (s : State) (core path : Nat) : Bool :=
  engTimed s core path && match (s.core core).engine.run path with | some r => !engBlocked s core r | none => false

/-- MATRIX_OP_COMPLETE (spec/13 R346): what runs on a path has its effect and, once every write is performed, frees the path. -/
def execMatrixOpComplete (core path : Nat) (s : State) : Host.Outcome State Fault Refusal :=
  if !engTimed s core path then .next s
  else
    match (s.core core).engine.run path with
    | none => .next s
    | some r =>
     if engBlocked s core r then .next (s.engAsk core r)
     else
      let done (s : State) : State := match (s.core core).engine.run path with
        | some r =>
          if r.remote.all fun i => (s.acc? i).isNone then
            (r.entries.foldl (fun s e => s.engRelease core e) (s.modEngine core fun g => g.setRun path none)).rouse core 4
          else s
        | none => s
      if r.moved then .next (done s)
      else
        let e := r.entries.headD { id := 0, pc := 0, op := .mscale none, key := none, reserved1 := false }
        match (if r.done.isEmpty then engHomes s e.op r.pages else none) with
        | some t => .next (s.engTrap core e.pc t)
        | none =>
          let x := s.engAll core r (r.entries.zip r.images)
          .next (done (x.1.modEngine core fun g => g.setRun path (some { r with moved := true, remote := x.2 })))

/-- What runs on a path reads the byte at `pa` before the rest (spec/11 R299). -/
def State.engineRead (s : State) (core path pa : Nat) : State :=
  match (s.core core).engine.run path with
  | none => s
  | some r =>
    let e := r.entries.headD { id := 0, pc := 0, op := .mscale none, key := none, reserved1 := false }
    let mine : Bool := match r.entries, e.op.mem with
      | [_], some m => m.global && !m.write && (paRanges r.pages m.ranges).any fun x => decide (x.1 ≤ pa) && decide (pa < x.1 + x.2)
      | _, _ => false
    if r.moved || !mine || (r.got.any fun x => x.1 == pa) || !engReady s core path || (engHomes s e.op r.pages).isSome then s
    else s.modEngine core fun g => g.setRun path (some { r with got := r.got ++ [(pa, readByte s core false (pipeline s core) pa)] })

/-- Part of a drain is written before the rest: a granule, or a line of an add-on-store to global memory, by unit number. An add-on-store to the scratchpad
is one action (spec/13 R353; spec/08 R230). -/
def State.drainPart (s : State) (core unit : Nat) : State :=
  match (s.core core).engine.drain with
  | none => s
  | some r =>
    match r.entries with
    | [e] =>
      match drainMove s core e.op r.pages with
      | none => s
      | some d =>
        if r.moved || (d.add && !d.global) || r.done.contains unit || !engReady s core 2 || (r.done.isEmpty && (engHomes s e.op r.pages).isSome) then s
        else (s.drainUnits core d (· == unit)).modEngine core fun g => { g with drain := some { r with done := r.done ++ [unit] } }
    | _ => s

/-! ### MWAIT and MEND (spec/08 R231, R234) -/

/-- Whether every matrix operation of a stream has completed. -/
def engIdle (s : State) (core : Nat) : Bool := (s.core core).engine.open.isEmpty

/-- MWAIT. -/
def semMwait (w : IWord) : Sem :=
  { op := 0xC7, w := w, gate := fun e s => if engIdle s e.core then .ok else .wait .engine, eff := fun _ s => s }
/-- MWAIT issues. -/
def execMwait (w : IWord) (s : State) : Host.Outcome State Fault Refusal := runSem (semMwait w) s

/-- The sequencer of a core ends (spec/09 R268). -/
def State.endSeq (s : State) (e : Env) : State :=
  let block := (s.core e.core).seqBlock
  let s := (s.depart e).orphan e.party
  let s := s.outstanding e.core e.w.launch false
  (s.modCore e.core fun c => { c with seq := none }).leaveBlock block 64

/-- MEND: waits as MWAIT does, and ends the sequencer. -/
def semMend (w : IWord) : Sem :=
  { op := 0xC9, w := w
    gate := fun e s => if !engIdle s e.core then .wait .engine else e.decisionGate s (s.departRecords e)
    eff := fun e s => s.endSeq e }
/-- MEND issues. -/
def execMend (w : IWord) (s : State) : Host.Outcome State Fault Refusal := runSem (semMend w) s

end Sys2Proof.Machine
end

