-- ==== Sys2Proof/Machine/SemOf.lean ====
section
/-!
DEFINITION. The meaning of every instruction word, for the operations of a bundle; an event of the part has none.
-/
namespace Sys2Proof.Machine

open Sys2Proof

/-- The meaning of an instruction that is a form of the instruction word. -/
def semOf (i : Instr) : Option Sem :=
  match i with
  | .moduleReset _ => none
  | .iadd w => some (Sys2Proof.Machine.semIadd w)
  | .isub w => some (Sys2Proof.Machine.semIsub w)
  | .imul w => some (Sys2Proof.Machine.semImul w)
  | .imulh w => some (Sys2Proof.Machine.semImulh w)
  | .imad w => some (Sys2Proof.Machine.semImad w)
  | .idiv w => some (Sys2Proof.Machine.semIdiv w)
  | .irem w => some (Sys2Proof.Machine.semIrem w)
  | .imin w => some (Sys2Proof.Machine.semImin w)
  | .imax w => some (Sys2Proof.Machine.semImax w)
  | .iabs w => some (Sys2Proof.Machine.semIabs w)
  | .isat w => some (Sys2Proof.Machine.semIsat w)
  | .and w => some (Sys2Proof.Machine.semAnd w)
  | .or w => some (Sys2Proof.Machine.semOr w)
  | .xor w => some (Sys2Proof.Machine.semXor w)
  | .andn w => some (Sys2Proof.Machine.semAndn w)
  | .shl w => some (Sys2Proof.Machine.semShl w)
  | .shr w => some (Sys2Proof.Machine.semShr w)
  | .sar w => some (Sys2Proof.Machine.semSar w)
  | .rotl w => some (Sys2Proof.Machine.semRotl w)
  | .clz w => some (Sys2Proof.Machine.semClz w)
  | .popc w => some (Sys2Proof.Machine.semPopc w)
  | .brev w => some (Sys2Proof.Machine.semBrev w)
  | .bfx w => some (Sys2Proof.Machine.semBfx w)
  | .bfi w => some (Sys2Proof.Machine.semBfi w)
  | .lea w => some (Sys2Proof.Machine.semLea w)
  | .mov w => some (Sys2Proof.Machine.semMov w)
  | .movl w => some (Sys2Proof.Machine.semMovl w)
  | .rshr w => some (Sys2Proof.Machine.semRshr w)
  | .icmp w => some (Sys2Proof.Machine.semIcmp w)
  | .fcmp w => some (Sys2Proof.Machine.semFcmp w)
  | .fclass w => some (Sys2Proof.Machine.semFclass w)
  | .sel w => some (Sys2Proof.Machine.semSel w)
  | .plog w => some (Sys2Proof.Machine.semPlog w)
  | .pmovMm w => some (Sys2Proof.Machine.semPmovMm w)
  | .pmovMv w => some (Sys2Proof.Machine.semPmovMv w)
  | .pmovVm w => some (Sys2Proof.Machine.semPmovVm w)
  | .pcnt w => some (Sys2Proof.Machine.semPcnt w)
  | .pfirst w => some (Sys2Proof.Machine.semPfirst w)
  | .fadd w => some (Sys2Proof.Machine.semFadd w)
  | .fsub w => some (Sys2Proof.Machine.semFsub w)
  | .fmul w => some (Sys2Proof.Machine.semFmul w)
  | .ffma w => some (Sys2Proof.Machine.semFfma w)
  | .fmin w => some (Sys2Proof.Machine.semFmin w)
  | .fmax w => some (Sys2Proof.Machine.semFmax w)
  | .fneg w => some (Sys2Proof.Machine.semFneg w)
  | .fabs w => some (Sys2Proof.Machine.semFabs w)
  | .frnd w => some (Sys2Proof.Machine.semFrnd w)
  | .fscale w => some (Sys2Proof.Machine.semFscale w)
  | .fdot2 w => some (Sys2Proof.Machine.semFdot2 w)
  | .fdot4 w => some (Sys2Proof.Machine.semFdot4 w)
  | .fcvt w => some (Sys2Proof.Machine.semFcvt w)
  | .icvt w => some (Sys2Proof.Machine.semIcvt w)
  | .pack w => some (Sys2Proof.Machine.semPack w)
  | .unpk w => some (Sys2Proof.Machine.semUnpk w)
  | .bscale w => some (Sys2Proof.Machine.semBscale w)
  | .perm w => some (Sys2Proof.Machine.semPerm w)
  | .shuf w => some (Sys2Proof.Machine.semShuf w)
  | .bcast w => some (Sys2Proof.Machine.semBcast w)
  | .ballot w => some (Sys2Proof.Machine.semBallot w)
  | .vote w => some (Sys2Proof.Machine.semVote w)
  | .redx w => some (Sys2Proof.Machine.semRedx w)
  | .maxi w => some (Sys2Proof.Machine.semMaxi w)
  | .mini w => some (Sys2Proof.Machine.semMini w)
  | .scanx w => some (Sys2Proof.Machine.semScanx w)
  | .xmov w => some (Sys2Proof.Machine.semXmov w)
  | .exp2 w => some (Sys2Proof.Machine.semExp2 w)
  | .log2 w => some (Sys2Proof.Machine.semLog2 w)
  | .rcp w => some (Sys2Proof.Machine.semRcp w)
  | .rsq w => some (Sys2Proof.Machine.semRsq w)
  | .sqrt w => some (Sys2Proof.Machine.semSqrt w)
  | .sinp w => some (Sys2Proof.Machine.semSinp w)
  | .cosp w => some (Sys2Proof.Machine.semCosp w)
  | .act w => some (Sys2Proof.Machine.semAct w)
  | .sftload w => some (Sys2Proof.Machine.semSftload w)
  | .sftloadTableWrite _ => none
  | .rndw w => some (Sys2Proof.Machine.semRndw w)
  | .lds w => some (Sys2Proof.Machine.semLds w)
  | .sts w => some (Sys2Proof.Machine.semSts w)
  | .ldsx w => some (Sys2Proof.Machine.semLdsx w)
  | .stsx w => some (Sys2Proof.Machine.semStsx w)
  | .fullEmptyWaitSatisfied _ _ => none
  | .feset w => some (Sys2Proof.Machine.semFeset w)
  | .feclr w => some (Sys2Proof.Machine.semFeclr w)
  | .ld w => some (Sys2Proof.Machine.semLd w)
  | .st w => some (Sys2Proof.Machine.semSt w)
  | .ldb w => some (Sys2Proof.Machine.semLdb w)
  | .stb w => some (Sys2Proof.Machine.semStb w)
  | .pref w => some (Sys2Proof.Machine.semPref w)
  | .cinvLine w => some (Sys2Proof.Machine.semCinvLine w)
  | .cinvTiles w => some (Sys2Proof.Machine.semCinvTiles w)
  | .cinvAll w => some (Sys2Proof.Machine.semCinvAll w)
  | .atom w => some (Sys2Proof.Machine.semAtom w)
  | .cas w => some (Sys2Proof.Machine.semCas w)
  | .ula w => some (Sys2Proof.Machine.semUla w)
  | .fence w => some (Sys2Proof.Machine.semFence w)
  | .variableLatencyResult _ => none
  | .asyncWritePerformed _ => none
  | .barArrive w => some (Sys2Proof.Machine.semBarArrive w)
  | .barWait w => some (Sys2Proof.Machine.semBarWait w)
  | .barSync w => some (Sys2Proof.Machine.semBarSync w)
  | .barq w => some (Sys2Proof.Machine.semBarq w)
  | .racqP w => some (Sys2Proof.Machine.semRacqP w)
  | .racqC w => some (Sys2Proof.Machine.semRacqC w)
  | .rcommit w => some (Sys2Proof.Machine.semRcommit w)
  | .rrel w => some (Sys2Proof.Machine.semRrel w)
  | .warpsync w => some (Sys2Proof.Machine.semWarpsync w)
  | .cpy w => some (Sys2Proof.Machine.semCpy w)
  | .cpyWaitEnter _ => none
  | .cseal w => some (Sys2Proof.Machine.semCseal w)
  | .cwait w => some (Sys2Proof.Machine.semCwait w)
  | .ctable w => some (Sys2Proof.Machine.semCtable w)
  | .cquery w => some (Sys2Proof.Machine.semCquery w)
  | .copyCommandStart _ _ => none
  | .copyCommandFinish _ _ => none
  | .mload w => some (Sys2Proof.Machine.semMload w)
  | .mperm w => some (Sys2Proof.Machine.semMperm w)
  | .mzero w => some (Sys2Proof.Machine.semMzero w)
  | .mma w => some (Sys2Proof.Machine.semMma w)
  | .mladr w => some (Sys2Proof.Machine.semMladr w)
  | .mscale w => some (Sys2Proof.Machine.semMscale w)
  | .mscaleClr w => some (Sys2Proof.Machine.semMscaleClr w)
  | .mdrain w => some (Sys2Proof.Machine.semMdrain w)
  | .matrixOpStart _ _ => none
  | .matrixOpComplete _ _ => none
  | .mwait w => some (Sys2Proof.Machine.semMwait w)
  | .mbarArrive w => some (Sys2Proof.Machine.semMbarArrive w)
  | .mbarWait w => some (Sys2Proof.Machine.semMbarWait w)
  | .mbarSync w => some (Sys2Proof.Machine.semMbarSync w)
  | .mbarRacqP w => some (Sys2Proof.Machine.semMbarRacqP w)
  | .mbarRacqC w => some (Sys2Proof.Machine.semMbarRacqC w)
  | .mbarRcommit w => some (Sys2Proof.Machine.semMbarRcommit w)
  | .mbarRrel w => some (Sys2Proof.Machine.semMbarRrel w)
  | .mend w => some (Sys2Proof.Machine.semMend w)
  | .trn w => some (Sys2Proof.Machine.semTrn w)
  | .trnw w => some (Sys2Proof.Machine.semTrnw w)
  | .bra w => some (Sys2Proof.Machine.semBra w)
  | .brx w => some (Sys2Proof.Machine.semBrx w)
  | .call w => some (Sys2Proof.Machine.semCall w)
  | .ret w => some (Sys2Proof.Machine.semRet w)
  | .join w => some (Sys2Proof.Machine.semJoin w)
  | .exit w => some (Sys2Proof.Machine.semExit w)
  | .loopDec w => some (Sys2Proof.Machine.semLoopDec w)
  | .loopPush w => some (Sys2Proof.Machine.semLoopPush w)
  | .lbreak w => some (Sys2Proof.Machine.semLbreak w)
  | .lbreakZ w => some (Sys2Proof.Machine.semLbreakZ w)
  | .lbreakNz w => some (Sys2Proof.Machine.semLbreakNz w)
  | .modeVliw w => some (Sys2Proof.Machine.semModeVliw w)
  | .modeVliwContextTaken _ _ => none
  | .modeSimt w => some (Sys2Proof.Machine.semModeSimt w)
  | .nop w => some (Sys2Proof.Machine.semNop w)
  | .sleep w => some (Sys2Proof.Machine.semSleep w)
  | .sleepExpiry _ => none
  | .getsr w => some (Sys2Proof.Machine.semGetsr w)
  | .setsr w => some (Sys2Proof.Machine.semSetsr w)
  | .trap w => some (Sys2Proof.Machine.semTrap w)
  | .svc w => some (Sys2Proof.Machine.semSvc w)
  | .bkpt w => some (Sys2Proof.Machine.semBkpt w)
  | .tretRetry w => some (Sys2Proof.Machine.semTretRetry w)
  | .tretNext w => some (Sys2Proof.Machine.semTretNext w)
  | .logw w => some (Sys2Proof.Machine.semLogw w)
  | .clk w => some (Sys2Proof.Machine.semClk w)
  | .launch w => some (Sys2Proof.Machine.semLaunch w)
  | .tailNotify _ => none
  | .sqrecLd w => some (Sys2Proof.Machine.semSqrecLd w)
  | .sqrecSt w => some (Sys2Proof.Machine.semSqrecSt w)
  | .sqrecHist w => some (Sys2Proof.Machine.semSqrecHist w)
  | .sqrecCinc w => some (Sys2Proof.Machine.semSqrecCinc w)
  | .sqrecCget w => some (Sys2Proof.Machine.semSqrecCget w)
  | .sqrecWchk w => some (Sys2Proof.Machine.semSqrecWchk w)
  | .sqacc w => some (Sys2Proof.Machine.semSqacc w)
  | .sqbind w => some (Sys2Proof.Machine.semSqbind w)
  | .lpcall w => some (Sys2Proof.Machine.semLpcall w)
  | .lpret w => some (Sys2Proof.Machine.semLpret w)
  | .bundleIssue _ _ _ => none
  | .emptyRun _ => none
  | .replayRetry _ _ => none
  | .discard _ => none
  | .blockPlace _ _ => none
  | .launchAdmission _ => none
  | .recordAging _ => none
  | .launchComplete _ => none
  | .qtail _ _ _ => none
  | .hostQueueConsume _ => none
  | .launchCommand _ => none
  | .hcopy _ => none
  | .hcopyDone _ => none
  | .signal _ => none
  | .wait _ => none
  | .bind _ => none
  | .wsmode _ => none
  | .wsmodeApply _ => none
  | .logctl _ => none
  | .partitionCreate _ => none
  | .partitionDestroy _ => none
  | .partitionSave _ => none
  | .partitionResume _ _ => none
  | .partitionSaveResume _ => none
  | .partitionHaltComplete _ _ => none
  | .claim _ _ => none
  | .leaseWrite _ _ => none
  | .leaseWarning => none
  | .leaseExpiry => none
  | .hostBar2Write _ _ _ => none
  | .hostAtomic _ _ _ _ _ => none
  | .remoteOpArrive _ _ _ => none
  | .remoteAck _ _ => none
  | .remoteTimeout _ => none
  | .serviceRunStart _ => none
  | .serviceRunLimit _ => none
  | .deadlineExpiry _ => none
  | .coreWake _ _ => none
  | .refreshWindowOpen _ => none
  | .refreshWindowEnd _ => none
  | .patrolScrub _ => none
  | .dramRowRepair _ _ => none
  | .weightStoreBankRepair _ _ => none
  | .runnerLaneSpare _ _ => none
  | .windowBoundary _ _ _ => none
  | .samplePeriod _ => none
  | .dcmdHalt _ => none
  | .dcmdRelease _ => none
  | .dcmdStep1 _ => none
  | .dcmdStepy _ => none
  | .debugWindowWrite _ => none
  | .corespareGo _ _ _ => none
  | .fmctlDrain _ _ => none
  | .fmctlRestore _ _ => none
  | .farMemoryUnitMove _ => none
  | .farMemoryModuleRemoved _ => none
  | .tdctlSnap _ => none
  | .tdctlLive _ => none
  | .tdctlClear _ => none
  | .registerWrite _ _ _ => none
  | .fixedLatencyResult _ _ => none
  | .eviction _ => none
  | .farMemoryModuleSeated _ => none
  | .logBufferRoom _ _ => none
  | .flitReplay _ => none

end Sys2Proof.Machine
end

