-- ==== Sys2Proof/Machine/Bundle.lean ====
section
/-!
DEFINITION. Items of a VLIW stream: bundles and empty runs (spec/03 R83, R84, R88 to R93; spec/04 R109, R117; spec/09 R261 to R263).
-/
namespace Sys2Proof.Machine

open Sys2Proof

/-- The operations of a legal bundle. -/
def BundleBits.slotOps (b : BundleBits) (rows : Nat) : List SlotOp :=
  b.ops.filterMap fun x =>
    match decodeSlot x.1 rows x.2.1 b.lits with
    | .ok i => (semOf i).map fun m => { slot := x.1, sem := m }
    | .bad _ => none

/-- The ports of a bundle (spec/04 R117). -/
def BundleBits.ports (b : BundleBits) : Ports :=
  { slots := (headerOf b.header).present, swrites := (b.ops.map sWrites).sum, cross := b.ops.flatMap crossReads }

/-- ILLBUNDLE for the conditions a bundle meets (spec/03 R92). -/
def illBundle (l : List (Nat × Nat)) : Trap := { cause := causeILLBUNDLE, slots := (badInfo l).2, info := (badInfo l).1 }

/-- A bundle issues: as the primary stream, as a secondary with MERGEOK that fits beside it, or in a service context. -/
def issueBundle (b : BundleBits) (c : Cur) (s : State) : State :=
  let c := { c with header := b.header, next := afterHeader c.pc b.header.toNat }
  let h := headerOf b.header
  let e := s.env c
  let bad := bundleBad c.pc e.w.rows b
  if s.stream c.party == IssueStream.secondary && !h.mergeok then s
  else if bad.isEmpty then runBundle (b.slotOps e.w.rows) b.ports c s
  else if s.misfit c.party b.ports then s.noMerge c.party
  else s.trapItem c (if h.kind = 0 then presentSlots h.present else []) (illBundle bad)

/-- BUNDLE_ISSUE (spec/03 R92): the bundle of a VLIW thread or of a service context that is being issued. -/
def execBundleIssue (header : Word64) (slots : List Word64) (pool : List Word32) (s : State) : Host.Outcome State Fault Refusal :=
  match s.cur with
  | none => .next s
  | some c => match c.party with
    | .thread _ _ => .next (issueBundle ⟨header, slots, pool⟩ c s)
    | .service _ => .next (issueBundle ⟨header, slots, pool⟩ c s)
    | _ => .next s

/-- EMPTY_RUN (spec/03 R83): one empty bundle of a run issues. -/
def execEmptyRun (header : Word64) (s : State) : Host.Outcome State Fault Refusal :=
  match s.cur with
  | none => .next s
  | some c =>
    if (headerOf header).kind != 1 then .next s
    else match c.party with
      | .thread _ _ => .next (runEmpty header c s)
      | .service _ => .next (runEmpty header c s)
      | _ => .next s

end Sys2Proof.Machine
end

