-- ==== Sys2Proof/Machine/Launch.lean ====
section
/-!
DEFINITION. The launch scheduler: the launch record and the membership table, admission, the placement of blocks, aging, and completion
(spec/01 R22, R23; spec/08 R217; spec/09 R250 to R257, R268 to R274, R481; spec/10 R276; spec/18 R407 to R410; spec/21 R456 to R458).
-/
namespace Sys2Proof.Machine

open Sys2Proof

/-! ### The launch record (spec/09 R250) -/

/-- The reserved fields: first bit and width. -/
def recReserved : List (Nat × Nat) :=
  [(768, 255), (736, 16), (684, 19), (620, 19), (556, 19), (505, 7), (377, 7), (313, 7), (249, 7), (121, 7), (0, 21)]

def recGrid (r : BitVec 1024) : Nat := recBits r 160 32
def recCsize (r : BitVec 1024) : Nat := recBits r 51 2 + 1
def recRows (r : BitVec 1024) : Nat := 8 * (recBits r 53 3 + 1)
def recLmode (r : BitVec 1024) : Nat := recBits r 62 2
def recPrio (r : BitVec 1024) : Nat := recBits r 58 3
def recEnergy (r : BitVec 1024) : Nat := recBits r 56 2
def recScratch (r : BitVec 1024) : Nat := recBits r 21 19
def recMstream (r : BitVec 1024) : Nat := recBits r 192 57
def recMemb (r : BitVec 1024) : Nat := recBits r 320 57
def recComp (r : BitVec 1024) : Nat := recBits r 448 57
def recCode (r : BitVec 1024) : Nat := recBits r 64 57
def recJobTag (r : BitVec 1024) : Nat := recBits r 752 16
def recJobN (r : BitVec 1024) : Nat := recBits r 704 32
def recRes (r : BitVec 1024) : Bool := r.getLsbD 61

/-- The role runs: role code and warps. -/
def recRuns (r : BitVec 1024) : List (Nat × Nat) := (List.range 4).map fun j => (recBits r (134 + 8 * j) 2, recBits r (128 + 8 * j) 6 + 1)

/-- The runs in use: those before the first one with role 3. -/
def recUsed (r : BitVec 1024) : List (Nat × Nat) := (recRuns r).takeWhile fun x => x.1 != 3

/-- The role of a warp. -/
def roleIn : List (Nat × Nat) → Nat → Role
  | [], _ => .general
  | (c, n) :: r, w => if w < n then (if c = 1 then .copy else if c = 2 then .vector else .general) else roleIn r (w - n)

/-- The threads of a warp as a mask. -/
def warpMask (r : BitVec 1024) (w : Nat) : Word32 :=
  let n := recBits r 40 11 + 1 - 32 * w
  if 32 ≤ n then 0xFFFFFFFF else BitVec.ofNat 32 (2 ^ n - 1)

/-- Warps of a block on a lane group of its core (spec/09 R254). -/
def warpsOn (r : BitVec 1024) (lg : Nat) : Nat := (recWarps r + 1 - lg) / 2

/-- Checks 1 to 5: the first that fails, with its status (spec/09 R253). A run with role 3 is followed by runs with role 3 alone. -/
def recCheck (r : BitVec 1024) : Option (Nat × Nat) :=
  if (recReserved.any fun x => recBits r x.1 x.2 != 0) || recLmode r == 3 || recComp r % 64 != 0 || recMemb r % 64 != 0 || recBits r 256 57 % 64 != 0 ||
     recMstream r % 8 != 0 || recCode r % 8 != 0 then some (1, 1)
  else if recGrid r = 0 || Config.scratchBytes < recScratch r || (recJobTag r != 0 && recJobN r == 0) then some (1, 2)
  else if !((recRuns r).drop (recUsed r).length).all (fun x => x.1 == 3) || ((recUsed r).map (·.2)).sum != recWarps r then some (1, 3)
  else if recLmode r = 1 && ((recBits r 40 11 + 1) % 32 != 0 || 8 < recWarps r) then some (1, 4)
  else if 512 < (recWarps r + 1) / 2 * recRows r then some (1, 5)
  else none

/-! ### The membership table (spec/09 R251) -/

/-- A barrier entry's fields: VALID, SEQ, MASK. -/
def membBar (m : BitVec 4608) (e : Nat) : Bool × Bool × Nat := (m.getLsbD (128 * e + 65), m.getLsbD (128 * e + 64), vbits m (128 * e) 64)

/-- A ring entry. -/
structure MembRing where
  valid : Bool
  base : Nat
  depth : Nat
  seqp : Bool
  seqc : Bool
  prod : Nat
  cons : Nat

/-- Ring `r` of a table. -/
def membRing (m : BitVec 4608) (r : Nat) : MembRing :=
  let o := 3584 + 256 * r
  { valid := m.getLsbD (o + 130), base := vbits m (o + 134) 4, depth := vbits m (o + 131) 3 + 1, seqp := m.getLsbD (o + 128), seqc := m.getLsbD (o + 129),
    prod := vbits m o 64, cons := vbits m (o + 64) 64 }

/-- The block barriers that a valid ring uses. -/
def MembRing.bars (x : MembRing) : List Nat := if x.valid then range x.base (x.base + 2 * x.depth) else []

/-- Checks 6 to 9 of a table: the first that fails. -/
def membCheck (r : BitVec 1024) (m : BitVec 4608) : Option Nat :=
  let w := recWarps r
  let bars := (List.range 28).map (membBar m)
  let rings := (List.range 4).map (membRing m)
  let seq := bars.any (fun b => b.2.1) || rings.any fun x => x.seqp || x.seqc
  let used := rings.flatMap (·.bars)
  if ((List.range 28).any fun e => vbits m (128 * e + 66) 62 != 0) || ((List.range 4).any fun j => vbits m (3584 + 256 * j + 138) 118 != 0) ||
     ((bars.drop 16).any fun b => b.2.1) || (bars.any fun b => decide (2 ^ w ≤ b.2.2)) || (rings.any fun x => decide (2 ^ w ≤ x.prod) || decide (2 ^ w ≤ x.cons)) then
    some 6
  else if (rings.any fun x => x.valid && decide (16 < x.base + 2 * x.depth)) || used.eraseDups.length != used.length ||
     (used.any fun i => (membBar m i).1) then some 7
  else if recMstream r = 0 && seq then some 8
  else if !recRes r && (bars.drop 24).any (·.1) then some 9
  else none

/-! ### The scheduler's own accesses to memory (spec/09 R269, R481) -/

/-- Pages for a list of addresses by walks alone: the scheduler keeps no TLB. -/
def walkUnits (s : State) (part : Nat) (acc : Acc) : List Nat → Pages
  | [] => .ok []
  | va :: r =>
    match walk s part va acc, walkUnits s part acc r with
    | .trap t, _ => .trap t
    | _, .trap t => .trap t
    | .fault k l, _ => .fault k l va
    | _, .fault k l v => .fault k l v
    | .hit e, .ok l => .ok (e :: l)

/-- What the scheduler finds at a virtual range of a partition. -/
inductive SchedPlace where
  | at (pas : List Nat)
  | fault (kind level va : Nat)
  /-- An uncorrectable error at a physical address, of a class. -/
  | ue (pa cls : Nat)
  /-- A read that meets a bank in its refresh window. -/
  | wait
  | none
deriving DecidableEq, Repr

/-- The place of a walk that traps: an uncorrectable error in a table, or nothing. -/
def walkPlace (s : State) (part : Nat) (t : Trap) : SchedPlace :=
  if t.cause = causeUE then .ue ((tableUeAt s t.addr 3 (s.part part).ptRoot).getD 0) (t.info % 16) else .none

/-- Looks at a range for a read or a write. What a write itself meets, `State.putUnit` tests as it is performed. -/
def schedPlace (s : State) (part : Nat) (write : Bool) (va n : Nat) : SchedPlace :=
  if (s.part part).state = .none then .none
  else match walkUnits s part (if write then .write else .read) (unitsOf va n) with
    | .trap t => walkPlace s part t
    | .fault k l v => .fault k l v
    | .ok pages =>
      let pas := (List.range n).map fun i => paVia pages ((va + i) % 2 ^ 57)
      if (rangeTrap s (if write then .st else .read) pages va n).isSome || pas.any (homeOf s · == .debug) then .none
      else if write then .at pas
      else if pas.any (inRefresh s) then .wait
      else match pas.find? fun pa => (ueAt s pa).isSome with
        | some pa => .ue pa ((ueAt s pa).getD 0)
        | none => .at pas

/-- The scheduler meets what it found: an uncorrectable error is counted and recorded, and its reads, those of the walks among them, correct what can be
(spec/22 R462, R465, R466). -/
def State.schedMeets (s : State) (part : Nat) (write : Bool) (va n : Nat) : SchedPlace → State
  | .ue pa cls => s.memoryUe pa cls 2
  | .at pas =>
    let s := (unitsOf va n).foldl (fun s a => s.correctWalk part a) s
    if write then s else ((pas.map (· / 64)).eraseDups).foldl State.correct s
  | _ => s

/-- CORE of a fault record of the scheduler. -/
def schedCore : Nat := 0x1FF

/-! ### Capacity (spec/09 R253, R254) -/

/-- The cores of a set of quarters. -/
def setCores (set : Nat) : List Nat := (List.range Config.cores).filter fun c => set.testBit (c / 18)

/-- The core clusters that lie wholly in a set. -/
def setClusters (set : Nat) : List Nat := (List.range (Config.cores / 4)).filter fun k => (range (4 * k) (4 * k + 4)).all fun c => set.testBit (c / 18)

/-- Scratchpad bytes that a block reserves, and the units of 768 bytes its region takes (spec/10 R276). -/
def regionBytes (r : BitVec 1024) : Nat := roundUp (recScratch r) 256
def regionUnits (r : BitVec 1024) : Nat := ceilDiv (recScratch r) 768

/-- Blocks of a launch that a core with nothing on it could hold. -/
def coreCapacity (r : BitVec 1024) : Nat :=
  let caps := ([0, 1].flatMap fun lg =>
      let n := warpsOn r lg
      if n = 0 then [] else [32 / n, 512 / (n * recRows r)] ++ (if recLmode r = 1 then [4 / n] else [])) ++
    (if regionUnits r = 0 then [] else [512 / regionUnits r]) ++ (if recMstream r = 0 then [] else [1])
  caps.foldl min 32

/-- Check 10: whether a partition with no other work could hold a cluster of the launch, or all of a resident grid. -/
def couldHold (r : BitVec 1024) (set : Nat) : Bool :=
  let n := coreCapacity r
  let k := recCsize r
  let grid := recGrid r
  if n = 0 then false
  else if k = 1 then decide ((if recRes r then grid else 1) ≤ n * (setCores set).length)
  else
    let m := (setClusters set).length
    let t := 4 * n / k
    if !recRes r then 0 < m
    else
      let whole := grid / k
      let rest := grid % k
      decide (whole < m * t) || (decide (whole = m * t) && (rest == 0 || (0 < m && decide (rest ≤ 4 * n - k * t))))

/-! ### What a core has left (spec/09 R254) -/

/-- The warps of a lane group. -/
def State.warpsOf (s : State) (g : Nat) : List (Nat × Warp) :=
  s.warps.filter fun kv => kv.1 < Config.groups * Config.warpSlots && kv.1 / Config.warpSlots == g

/-- Free warp slots of a lane group. -/
def State.freeSlots (s : State) (g : Nat) : List Nat :=
  (List.range Config.warpSlots).filter fun sl => (s.warps.get? (warpKey g sl)).isNone

/-- The mode that LMODE gives a lane group. -/
def lmodeOf (r : BitVec 1024) : GroupMode := match recLmode r with | 0 => .simt | 1 => .vliw | _ => .dual

/-- Whether a lane group has room for the warps of a block. -/
def groupFits (s : State) (r : BitVec 1024) (g : Nat) : Bool :=
  let n := warpsOn r (g % 2)
  let mode := (s.group g).mode
  n == 0 ||
  ((mode == .empty || mode == lmodeOf r) && decide (n ≤ (s.freeSlots g).length) &&
   decide (((s.warpsOf g).map fun kv => kv.2.rows).sum + n * recRows r ≤ 512) &&
   (recLmode r != 1 || decide ((s.contexts g).length + n ≤ Config.contexts)))

/-- The blocks of a core. -/
def State.blocksOn (s : State) (core : Nat) : List (Nat × Block) := s.sched.blocks.filter fun kv => kv.2.core == core

/-- Where a region fits in a core's store: the lowest multiple of 768. -/
def State.freeRegion (s : State) (core size : Nat) : Option Nat :=
  if size = 0 then some 0
  else
    let l := (s.blocksOn core).map fun kv => (kv.2.base, roundUp kv.2.size 256)
    ((List.range 512).map (768 * ·)).find? fun b =>
      decide (b + size ≤ Config.scratchBytes) && l.all fun x => decide (b + size ≤ x.1) || decide (x.1 + x.2 ≤ b)

/-- The launch slots of a core in use (spec/09 R268). -/
def State.slotsUsed (s : State) (core : Nat) : List Nat :=
  (((s.blocksOn core).map fun kv => kv.2.launch) ++ ((s.core core).launches.filter fun kv => kv.2 != 0).map (·.1)).eraseDups

/-- The record of a placed block's launch. -/
def State.recordOf (s : State) (launch : Nat) : BitVec 1024 := match s.launch? launch with | some l => l.record | none => 0

/-- A host queue. -/
def State.queue (s : State) (q : Nat) : HostQueue := s.host.queues.getD q State.queue0

/-- The command code of an entry. -/
def cmdOf (e : BitVec 2048) : Nat := vbits e 0 8
/-- Operand word `k` of an entry. -/
def opWord (e : BitVec 2048) (k : Nat) : Nat := vbits e (64 * k) 64

/-- The command that a queue performs, when it has a code. -/
def State.performing (s : State) (q cmd : Nat) : Option (BitVec 2048) :=
  match (s.queue q).current with
  | some e => if cmdOf e = cmd then some e else none
  | none => none

/-- The queues that perform a WSMODE of a die (spec/21 R456). -/
def State.wsQueues (s : State) (die : Nat) : List Nat :=
  (s.host.queues.map (·.1)).filter fun q => (s.performing q 6).any fun e => opWord e 2 == die

/-- Whether a die takes no block for a WSMODE: from the moment one is consumed until its state has changed (spec/21 R456). -/
def State.wsHolds (s : State) (die : Nat) : Bool := !(s.die die).wsReq.isEmpty || !(s.wsQueues die).isEmpty

/-- Whether a core can take a block of a launch now. -/
def coreFits (s : State) (launch : Nat) (r : BitVec 1024) (core : Nat) : Bool :=
  groupFits s r (2 * core) && groupFits s r (2 * core + 1) && (s.freeRegion core (regionBytes r)).isSome &&
  (recMstream r == 0 || (s.blocksOn core).all fun kv => recMstream (s.recordOf kv.2.launch) == 0) &&
  ((s.slotsUsed core).contains launch || decide ((s.slotsUsed core).length < Config.launchSlots)) &&
  !s.wsHolds (dieOf core) && (s.die (dieOf core)).thermal != 3

/-! ### Energy (spec/21 R457, R458) -/

/-- The blocks of a core that have not retired (spec/09 R268). -/
def State.liveOn (s : State) (core : Nat) : List (Nat × Block) := (s.blocksOn core).filter fun kv => !kv.2.live.isEmpty

/-- The highest energy class of the blocks of a core; none when it has none. -/
def State.coreClass (s : State) (core : Nat) : Option Nat :=
  match (s.liveOn core).map fun kv => recEnergy (s.recordOf kv.2.launch) with
  | [] => none
  | c :: l => some (l.foldl max c)

/-- RATE of a class, in 0.25 W. -/
def State.rate (s : State) (cls : Nat) : Nat := (s.boot.rates[cls]?).getD 0

/-- CHARGE of a core in units of 1/16 W. -/
def State.coreCharge (s : State) (core : Nat) : Nat :=
  match s.coreClass core with
  | none => 0
  | some c => s.rate c * (4 - (s.core core).clock)

/-- The cores of a die. -/
def dieCores (die : Nat) : List Nat := range (Config.coresPerDie * die) (Config.coresPerDie * (die + 1))

/-- CHARGE of a die in units of 1/16 W. -/
def State.dieCharge (s : State) (die : Nat) : Nat := ((dieCores die).map s.coreCharge).sum

/-- BUDEFF of a die in units of 1/80 W: the scales of the thermal states are 80, 68, 48 and 0 eightieths. -/
def State.budEff (s : State) (die : Nat) : Nat := s.boot.bud * (([80, 68, 48, 0] : List Nat)[(s.die die).thermal]?).getD 0

/-- Whether a die is within its budget. -/
def State.within (s : State) (die : Nat) : Bool := decide (5 * s.dieCharge die ≤ s.budEff die)

/-! ### Placing a block (spec/01 R23; spec/08 R217; spec/09 R254, R257; spec/10 R276) -/

/-- The warp numbers of a mask, as keys of members. -/
def maskKeys (bid mask : Nat) : List Nat := ((List.range 64).filter (mask.testBit ·)).map fun w => memberKey (bid, w)

/-- A block's barriers at its placement: its declared ones, and those of its rings. -/
def blockBarriers (m : BitVec 4608) (bid : Nat) : Tbl Barrier :=
  let decl := (List.range 16).filterMap fun e =>
    let b := membBar m e
    if b.1 then some (e, ({ declared := true, members := maskKeys bid b.2.2 ++ (if b.2.1 then [memberKey (bid, 64)] else []), arrived := [], phase := 0 } : Barrier))
    else none
  let ring := (List.range 4).flatMap fun r =>
    let x := membRing m r
    if !x.valid then []
    else (List.range x.depth).flatMap fun i =>
      [(x.base + 2 * i, ({ declared := true, members := maskKeys bid x.prod ++ (if x.seqp then [memberKey (bid, 64)] else []), arrived := [], phase := 0 } : Barrier)),
       (x.base + 2 * i + 1, ({ declared := true, members := maskKeys bid x.cons ++ (if x.seqc then [memberKey (bid, 64)] else []), arrived := [], phase := 0 } : Barrier))]
  (decl ++ ring).foldl (fun (t : Tbl Barrier) x => t.set x.1 x.2) []

/-- The warp numbers of a ring role, the sequencer as 64. -/
def roleWids (mask : Nat) (seq : Bool) : List Nat := (List.range 64).filter (mask.testBit ·) ++ (if seq then [64] else [])

/-- A block's rings. -/
def blockRings (m : BitVec 4608) : Tbl Ring :=
  (List.range 4).filterMap fun r =>
    let x := membRing m r
    if x.valid then some (r, { base := x.base, depth := x.depth, producers := roleWids x.prod x.seqp, consumers := roleWids x.cons x.seqc }) else none

/-- A barrier of a cluster or of a grid: the warps of its mask in each of its blocks. -/
def wideBarrier (m : BitVec 4608) (e : Nat) (bids : List Nat) : Option Barrier :=
  let b := membBar m e
  if b.1 then some { declared := true, members := bids.flatMap fun bid => maskKeys bid b.2.2, arrived := [], phase := 0 } else none

/-- The barriers of a cluster whose blocks are `bids`. -/
def clusterBarriers (m : BitVec 4608) (cluster : Nat) (bids : List Nat) (t : Tbl Barrier) : Tbl Barrier :=
  (List.range 8).foldl (fun t j => match wideBarrier m (16 + j) bids with | some b => t.set (8 * cluster + j) b | none => t) t

/-- The barriers of a grid. -/
def gridBarriers (m : BitVec 4608) (grid : Nat) : Tbl Barrier :=
  (List.range 4).filterMap fun j => (wideBarrier m (24 + j) (List.range grid)).map fun b => (j, b)

/-- Warps of a lane group's active set. -/
def State.activeCount (s : State) (g : Nat) : Nat := ((s.warpsOf g).filter fun kv => kv.2.active).length

/-- Creates warp `wid` of a block on its lane group (spec/01 R23): it acquires from the launch (spec/11 R304, R316). -/
def State.createWarp (s : State) (launch : Nat) (r : BitVec 1024) (bid core wid : Nat) : State :=
  let g := 2 * core + wid % 2
  let sl := ((s.freeSlots g).head?).getD 0
  let x := s.group g
  let direct := recLmode r == 1
  let w : Warp :=
    { State.warp0 with
        launch := launch, bid := bid, wid := wid, age := x.created, role := roleIn (recUsed r) wid, rows := recRows r,
        paths := if direct then [] else [(0, { State.path0 with pc := recCode r, mask := warpMask r wid })],
        vliw := if direct then some { State.vliw0 with ctx := s.freeContext g, pc := recCode r } else none,
        active := !direct && decide (s.activeCount g < 8), acquired := s.serial, joined := s.serial }
  ((s.setWarp (warpKey g sl) w).setGroup g { x with created := x.created + 1, mode := lmodeOf r }).outstanding core launch true

/-- Clears a region of a core's store (spec/10 R276). -/
def Core.clearRegion (c : Core) (base size : Nat) : Core :=
  { c with scratch := c.scratch.filter fun kv => decide (kv.1 < base / 16) || decide ((base + size) / 16 ≤ kv.1),
           full := c.full.filter fun kv => decide (kv.1 < base / 16) || decide ((base + size) / 16 ≤ kv.1) }

/-- A sequencer at the start of its stream (spec/08 R217), which has acquired what precedes serial number `serial` (spec/11 R304, R316). -/
def seqStart (block bid core pc serial : Nat) : Sequencer :=
  { block := block, s := [(1, BitVec.ofNat 64 bid), (2, BitVec.ofNat 64 core)], pc := pc, wait := .none, synced := none,
    rings := [⟨0, 0⟩, ⟨0, 0⟩, ⟨0, 0⟩, ⟨0, 0⟩], keys := ⟨0, 0, 0, 0⟩, committed := 0, acquired := serial, joined := serial, logged := 0, tried := 0 }

/-- Places the next block of a launch on a core, with all its resources; the core runs at step 0. -/
def State.placeBlock (s : State) (launch core : Nat) : State :=
  match s.launch? launch with
  | none => s
  | some l =>
    let r := l.record
    let bid := l.nextBid
    let n := s.sched.nextBlock
    let size := regionBytes r
    let base := (s.freeRegion core size).getD 0
    let seq := recMstream r != 0
    let b : Block :=
      { launch := launch, bid := bid, core := core, base := base, size := recScratch r, barriers := blockBarriers l.membership bid, rings := blockRings l.membership,
        table := 0, generation := 0, loaded := false, live := List.range (recWarps r) ++ (if seq then [64] else []), acquired := s.serial }
    let s := { s with sched := { s.sched with blocks := s.sched.blocks.set n b, nextBlock := n + 1, launches := s.sched.launches.set launch { l with nextBid := bid + 1 } } }
    let s := (s.openSft core).modCore core fun c => { c.clearRegion base size with clock := 0, tiles := [] }
    let s := (List.range (recWarps r)).foldl (fun s w => s.createWarp launch r bid core w) s
    let s := if seq then
        (s.modCore core fun c => { c with engine := State.engine0, seq := some (seqStart n bid core (recMstream r) s.serial) }).outstanding core launch true
      else s
    s.rouse core 9

/-! ### Clusters and grids (spec/09 R254, R255) -/

/-- Blocks of the next cluster of a launch. -/
def Launch.clusterSize (l : Launch) : Nat := min (recGrid l.record - l.nextBid) l.csize

/-- Whether cores may hold one cluster: distinct cores of the partition, and of one core cluster that lies in it when clusters have several blocks. -/
def clusterOk (set csize : Nat) (cores : List Nat) : Bool :=
  cores.eraseDups.length == cores.length && cores.all (fun c => decide (c < Config.cores) && set.testBit (c / 18)) &&
  (csize == 1 || (setClusters set).any fun k => cores.all fun c => clusterOf c == k)

/-- Places the next cluster of a launch on cores, if each of them can take its block. -/
def State.placeCluster (s : State) (launch : Nat) (cores : List Nat) : Option State :=
  match s.launch? launch with
  | none => none
  | some l =>
    let k := l.clusterSize
    if cores.length = k && k != 0 && clusterOk (s.part l.partition).set l.csize cores && cores.all (coreFits s launch l.record) then
      let first := l.nextBid
      let s := cores.foldl (fun s c => s.placeBlock launch c) s
      some (s.modLaunch launch fun x => { x with cbarriers := clusterBarriers x.membership (first / x.csize) (range first (first + k)) x.cbarriers })
    else none

/-- Whether the state after a placement is within the budget of every die that took a block. -/
def energyOk (before after : State) : Bool :=
  (List.range Config.dies).all fun d => ((dieCores d).map fun c => (before.blocksOn c).length) == ((dieCores d).map fun c => (after.blocksOn c).length) || after.within d

/-- What a block of a launch adds to the charge of a core, in units of 1/16 W: the core then runs at step 0, at the higher of its class and the block's. -/
def State.addedCharge (s : State) (r : BitVec 1024) (core : Nat) : Int :=
  let c := match s.coreClass core with | some c => max c (recEnergy r) | none => recEnergy r
  (4 * s.rate c : Nat) - (s.coreCharge core : Nat)

/-- The cores for the next cluster of a launch that the scheduler takes when nothing else chooses: the first ones with room; in a core cluster those with
the fewest blocks, else those that add the least charge, so that a cluster which fits some die's budget is placed (spec/09 R273; spec/21 R458). -/
def chooseCluster (s : State) (launch : Nat) (aged : Bool) : Option (List Nat) :=
  match s.launch? launch with
  | none => none
  | some l =>
    let set := (s.part l.partition).set
    let units := if l.csize = 1 then (setCores set).map fun c => [c] else (setClusters set).map fun k => range (4 * k) (4 * k + 4)
    units.findSome? fun u =>
      let fit := u.filter (coreFits s launch l.record)
      let few := fit.mergeSort fun a b => decide ((s.blocksOn a).length ≤ (s.blocksOn b).length)
      let cheap := fit.mergeSort fun a b => decide (s.addedCharge l.record a ≤ s.addedCharge l.record b)
      if fit.length < l.clusterSize then none
      else [few.take l.clusterSize, cheap.take l.clusterSize].find? fun cores => match s.placeCluster launch cores with
        | some t => aged || energyOk s t
        | none => false

/-! ### Resident grids (spec/09 R255, R273, R274; spec/21 R458) -/

/-- Blocks of a launch that a core takes now, at most `fuel`. -/
def coreRoom (launch core : Nat) (r : BitVec 1024) : Nat → State → Nat
  | 0, _ => 0
  | fuel + 1, s => if coreFits s launch r core then 1 + coreRoom launch core r fuel (s.placeBlock launch core) else 0

/-- Numbers of blocks for some cores, of which each takes at least and at most what it names: their least, and more of a total on the first that may. -/
def spreadBlocks : Nat → List (Nat × Nat × Nat) → List (Nat × Nat)
  | _, [] => []
  | n, x :: r =>
    let more := min n (x.2.2 - x.2.1)
    (x.1, x.2.1 + more) :: spreadBlocks (n - more) r

/-- Some clusters of `k` blocks on distinct cores, each on the cores with the most blocks left to take. -/
def fillClusters (k : Nat) : Nat → List (Nat × Nat) → List (List Nat)
  | 0, _ => []
  | t + 1, l =>
    let m := l.mergeSort fun a b => decide (b.2 ≤ a.2)
    (m.take k).map (·.1) :: fillClusters k t ((m.take k).map (fun x => (x.1, x.2 - 1)) ++ m.drop k)

/-- A way to place part of a grid: its full clusters, the cores of the shorter last cluster if it is among them, and the charge it adds. -/
structure Way where
  clusters : List (List Nat)
  last : Option (List Nat)
  charge : Int

/-- Two ways together. -/
def Way.both (x y : Way) : Way := { clusters := x.clusters ++ y.clusters, last := x.last.or y.last, charge := x.charge + y.charge }

/-- Of ways with as many clusters, and the last one or not, the one that adds the least charge. -/
def cheapest (l : List Way) : List Way :=
  let t := l.foldl (fun (t : Tbl Way) w =>
    let k := 2 * w.clusters.length + b2n w.last.isSome
    match t.get? k with
    | some v => if w.charge < v.charge then t.set k w else t
    | none => t.set k w) []
  t.map (·.2)

/-- The way in which all of some cores take blocks of `t` clusters of `k`, and of a last one of `last` blocks, on those with the most room; none when there is
none. Blocks of one cluster lie on distinct cores exactly when no core takes more than `t` of them. -/
def unitWay (k t last : Nat) (charge : Int) (cores : List (Nat × Nat)) : Option Way :=
  let m := cores.mergeSort fun a b => decide (b.2 ≤ a.2)
  let l := m.zipIdx.map fun x => let v := b2n (decide (x.2 < last)); (x.1.1, 1 - v, min (x.1.2 - v) t)
  let least := (l.map (·.2.1)).sum
  if cores.length < last || (l.any fun x => decide (x.2.2 < x.2.1)) || t * k < least || (l.map (·.2.2)).sum < t * k then none
  else some { clusters := fillClusters k t (spreadBlocks (t * k - least) l), last := if last = 0 then none else some ((m.take last).map (·.1)), charge := charge }

/-- The ways that some cores offer: by each choice among them and each number of clusters, with a last one of `rest` blocks or without. -/
def unitWays (s : State) (r : BitVec 1024) (k rest whole : Nat) (rooms : List (Nat × Nat)) : List Way :=
  (range 1 (2 ^ rooms.length)).flatMap fun m =>
    let c := (rooms.zipIdx.filter fun x => m.testBit x.2).map (·.1)
    let charge := (c.map fun x => s.addedCharge r x.1).foldl (· + ·) 0
    (List.range (min whole (c.map (·.2)).sum + 1)).flatMap fun t =>
      ((if rest = 0 then [0] else [0, rest]).filterMap fun last => unitWay k t last charge c)

/-- The ways of a die within its budget. -/
def dieWays (s : State) (launch : Nat) (l : Launch) (aged : Bool) (die : Nat) : List Way :=
  let set := (s.part l.partition).set
  let k := l.csize
  let none' : Way := { clusters := [], last := none, charge := 0 }
  let units := if k = 1 then ((setCores set).filter fun c => dieOf c == die).map fun c => [c]
    else ((setClusters set).filter fun u => dieOf (4 * u) == die).map fun u => range (4 * u) (4 * u + 4)
  let all := units.foldl (fun acc u =>
    let rooms := (u.map fun c => (c, coreRoom launch c l.record 64 s)).filter fun x => x.2 != 0
    let w := unitWays s l.record k (recGrid l.record % k) (recGrid l.record / k) rooms
    cheapest ((acc.flatMap fun x => (w.filter fun y => !(x.last.isSome && y.last.isSome)).map x.both) ++ acc)) [none']
  none' :: all.filter fun w => aged || decide (5 * ((s.dieCharge die : Nat) + w.charge) ≤ (s.budEff die : Nat))

/-- The cores of every block of a resident grid, in ascending bid, if the grid can be placed now. -/
def residentPlan (s : State) (launch : Nat) (aged : Bool) : Option (List Nat) :=
  match s.launch? launch with
  | none => none
  | some l =>
    let k := l.csize
    let whole := recGrid l.record / k
    let rest := recGrid l.record % k
    let all := (List.range Config.dies).foldl (fun acc d =>
      cheapest ((acc.flatMap fun x => ((dieWays s launch l aged d).filter fun y => !(x.last.isSome && y.last.isSome)).map x.both)))
      [{ clusters := [], last := none, charge := 0 }]
    (all.find? fun w => decide (w.clusters.length = whole) && (rest == 0 || w.last.isSome)).map fun w =>
      w.clusters.flatten ++ (if rest = 0 then [] else w.last.getD [])

/-- Places clusters until the grid is complete, each on the next cores of a list. -/
def placeAll (launch : Nat) : Nat → List Nat → State → Option State
  | 0, _, _ => none
  | n + 1, cores, s =>
    match s.launch? launch with
    | none => none
    | some l =>
      if l.clusterSize = 0 then some s
      else
        match s.placeCluster launch (cores.take l.clusterSize) with
        | none => none
        | some s => placeAll launch n (cores.drop l.clusterSize) s

/-- Places the next cluster of a queued grid, or the whole of a resident grid, on given cores or where the scheduler chooses. -/
def State.place (s : State) (launch : Nat) (aged : Bool) (cores : List Nat) : Option State :=
  match s.launch? launch with
  | none => none
  | some l =>
    if recRes l.record then
      (placeAll launch (Config.cores * 32 + 1) (if cores.isEmpty then (residentPlan s launch aged).getD [] else cores) s).map fun s =>
        s.modLaunch launch fun x => { x with gbarriers := gridBarriers x.membership (recGrid x.record) }
    else s.placeCluster launch (if cores.isEmpty then (chooseCluster s launch aged).getD [] else cores)

/-! ### Eligibility and choice (spec/09 R271 to R274; spec/21 R456 to R459) -/

/-- The head of each queue. -/
def State.heads (s : State) : List (Nat × Pending) := s.sched.queues.filterMap fun kv => kv.2.head?.map fun p => (kv.1, p)

/-- Whether aged records hold a head back: an earlier aged one of its partition, and for one that is not aged any of higher priority, or of equal
priority and earlier arrival. -/
def agedBlocks (s : State) (k : Nat) (p : Pending) : Bool :=
  s.heads.any fun x =>
    x.1 != k && x.2.partition == p.partition &&
    match x.2.aged, p.aged with
    | none, _ => false
    | some a, some b => decide (a < b) || (a == b && decide (x.1 < k))
    | some _, none => decide (recPrio p.record < recPrio x.2.record) || (recPrio p.record == recPrio x.2.record && decide (x.2.arrived < p.arrived))

/-- What the placement of a queue's head on given cores would give, if the head is eligible. -/
def placement (s : State) (k : Nat) (p : Pending) (cores : List Nat) : Option State :=
  match p.launch with
  | none => none
  | some l =>
    let part := s.part p.partition
    if part.state != .active || part.halting || part.discarding.isSome || !waitsMet s p.record || agedBlocks s k p then none
    else match s.place l p.aged.isSome cores with
      | none => none
      | some s' => if p.aged.isSome || energyOk s s' then some s' else none

/-- Whether queue `a` goes before queue `b` of the same priority, after queue `last` was served. -/
def turnBefore (last : Option Nat) (a b : Nat) : Bool :=
  match last with
  | none => decide (a < b)
  | some n => if n < a then decide (b ≤ n) || decide (a < b) else decide (b ≤ n) && decide (a < b)

/-- Whether queue `k` is the one to serve: no queue with an eligible head has a higher priority, or the same and an earlier turn. -/
def servedNext (s : State) (k : Nat) (p : Pending) : Bool :=
  s.heads.all fun x =>
    x.1 == k || !(decide (recPrio p.record < recPrio x.2.record) ||
      (recPrio p.record == recPrio x.2.record && turnBefore (s.sched.served.get? (recPrio p.record)) x.1 k)) ||
    (placement s x.1 x.2 []).isNone

/-- A host queue after a change. -/
def State.modQueue (s : State) (q : Nat) (f : HostQueue → HostQueue) : State :=
  { s with host := { s.host with queues := s.host.queues.set q (f (s.host.queues.getD q State.queue0)) } }

/-- The head record of a queue has been performed: it leaves, and the command that brought it holds its host queue no longer (spec/18 R407). -/
def State.popRecord (s : State) (k : Nat) : State :=
  let s := { s with sched := { s.sched with queues := s.sched.queues.modify k (·.drop 1) } }
  if k < Config.hostQueues then s.modQueue k fun q => { q with current := none } else s

/-- BLOCK_PLACE (spec/09 R254, R255, R271): the scheduler places the next cluster, or the resident grid, of the head it serves. -/
def execBlockPlace (launch : Nat) (cores : List Nat) (s : State) : Host.Outcome State Fault Refusal :=
  match s.heads.find? fun x => x.2.launch == some launch with
  | none => .next s
  | some (k, p) =>
    match placement s k p cores with
    | none => .next s
    | some s' =>
      if !servedNext s k p then .next s
      else
        let s' := { s' with sched := { s'.sched with served := s'.sched.served.set (recPrio p.record) k } }
        match s'.launch? launch with
        | some l => .next (if recGrid l.record ≤ l.nextBid then s'.popRecord k else s')
        | none => .next s'

/-- Whether a head record ages now (spec/09 R274). -/
def ages (s : State) (p : Pending) : Bool :=
  match p.metAt with
  | none => false
  | some m => p.aged.isNone && (s.part p.partition).state != .saved && decide (max p.arrived m + p.idle + s.boot.ageLimit ≤ s.ccnt)

/-- RECORD_AGING (spec/09 R274): a head record whose AGELIMIT has passed is aged from then on. -/
def execRecordAging (queue : LaunchQueue) (s : State) : Host.Outcome State Fault Refusal :=
  match s.sched.queues.get? (queueKey queue) with
  | some (p :: r) =>
    if ages s p then .next { s with sched := { s.sched with queues := s.sched.queues.set (queueKey queue) ({ p with aged := some s.ccnt } :: r) } } else .next s
  | _ => .next s

/-! ### Completion (spec/09 R269, R270; spec/18 R408 to R410) -/

/-- A completion: the queue, its sequence number or entry index, status, detail, blocks, trap. -/
structure Completion where
  queue : Nat
  qseq : Nat
  status : Nat
  detail : Nat
  blocks : Nat
  trap : BitVec 256
  jobDone : Bool
deriving DecidableEq, Repr

/-- The 512 bits of a completion record. -/
def completionRecord (c : Completion) (ccnt cseq : Nat) : Nat :=
  c.trap.toNat * 2 ^ 256 + ccnt % 2 ^ 64 * 2 ^ 192 + c.blocks % 2 ^ 32 * 2 ^ 128 + c.qseq % 2 ^ 32 * 2 ^ 64 + c.status % 256 * 2 ^ 56 + c.detail % 256 * 2 ^ 48 +
  b2n c.jobDone * 2 ^ 32 + cseq % 2 ^ 32

/-- The entry of the completion mirror. -/
def mirrorEntry (c : Completion) (ccnt cseq : Nat) : BitVec 128 :=
  BitVec.ofNat 128 (ccnt % 2 ^ 40 * 2 ^ 88 + c.detail % 256 * 2 ^ 80 + c.status % 256 * 2 ^ 72 + c.queue % 128 * 2 ^ 64 + c.qseq % 2 ^ 32 * 2 ^ 32 + cseq % 2 ^ 32)

/-- The code of a host port in ordering records (spec/22 R476). -/
def hostCode (port : Nat) : Nat := 2 ^ 30 + port % 2

/-- Lanes of at most 64 bytes that carry bytes to peers. -/
def peerLanes (l : List (Nat × Byte)) : List LaneAcc :=
  l.map fun x => { lane := 0, addr := x.1, size := 1, data := x.2.toNat, data2 := 0, off := 0 }

/-- A translation of physical addresses to themselves, for accesses that carry physical addresses. -/
def identityPage : TlbEntry :=
  { partition := Config.partitions, va := 0, size := 2 ^ 48, pa := 0, r := true, w := true, x := false, cow := false, cache := 0 }

/-- The access that carries bytes of the host side or of the scheduler to a peer. -/
def hcopyAccess (s : State) (l : List (Nat × Byte)) : Access :=
  { id := s.serial, core := 0, party := none, launch := noLaunch, partition := Config.partitions, pc := 0, kind := .store, ord := 0, scratch := false, lanes := peerLanes l,
    spans := some (l.map fun x => (x.1, 1)), dest := .none, pend := [], ready := true, pages := [identityPage], recs := none, key := none, counted := false,
    sent := some s.ccnt, reserved := 0, reserved1 := false, code := hostCode s.host.owner, agent := none, joined := 0, after := 0, fence := none, piped := true,
    quiet := false, watched := false, done := [] }

/-- Bytes whose peer window takes a store: mapped, and outside the peer's counter page (spec/18 R413, R414). -/
def windowTakes (s : State) (pa : Nat) : Bool := isPeer pa && (routeOf s pa).getLsbD 63 && !counterPage pa

/-- Bytes leave for a peer, when some are for one: the state, and the access that carries them. -/
def State.sendBytes (s : State) (l : List (Nat × Byte)) : State × Option Nat :=
  match l.filter fun x => windowTakes s x.1 with
  | [] => (s, none)
  | away => ({ s with serial := s.serial + 1, accs := s.accs ++ [hcopyAccess s away] }, some s.serial)

/-- A number at consecutive addresses with its bytes. -/
def bytesAt (pa n v : Nat) : List (Nat × Byte) := ((List.range n).map (pa + ·)).zip (natLe n v)

/-- Takes the next completion sequence number, writes the record where there is a place for it, 64 aligned bytes, and the mirror entry: the state, and the
access that carries a record to a peer. -/
def State.writeCompletion (s : State) (c : Completion) (place : Option Nat) : State × Option Nat :=
  let n := (s.host.cseqLast + 1) % 2 ^ 32
  let v := completionRecord c s.ccnt n
  let r : State × Option Nat := match place with
    | some pa => if isPeer pa then s.sendBytes (bytesAt pa 64 v) else (s.unitWrite pa 64 v, none)
    | none => (s, none)
  ({ r.1 with host := { r.1.host with cseqLast := n, mirror := r.1.host.mirror.set (n % 256) (mirrorEntry c s.ccnt n) } }, r.2)

/-- COMPLETED advances over every run of completed sequence numbers (spec/18 R408). -/
def advanceDone : Nat → HostQueue → HostQueue
  | 0, q => q
  | n + 1, q =>
    let x := (q.completed + 1) % 2 ^ 32
    if q.done.contains x then advanceDone n { q with completed := x, done := q.done.filter (· != x) } else q

/-- A command of a host queue has completed, with its vector (spec/18 R408, R412). -/
def State.commandDone (s : State) (q seq : Nat) (irq : Bool) : State :=
  let s := s.modQueue q fun x => let y := { x with done := x.done ++ [seq] }; advanceDone (y.done.length + 1) y
  if irq then s.sendVector q else s

/-- Counts a completion against its job: the jobs, and whether it was the job's last (spec/09 R269). A job is the launches of one partition with one tag
(DESIGN CHOICE, log entry 67). -/
def countJob (jobs : List Job) (part tag n : Nat) : List Job × Bool :=
  if tag = 0 then (jobs, false)
  else
    let c := (match jobs.find? fun j => j.partition == part && j.tag == tag with | some j => j.count | none => 0) + 1
    let rest := jobs.filter fun j => !(j.partition == part && j.tag == tag)
    if c = n then (rest, true) else ({ partition := part, tag := tag, count := c } :: rest, false)

/-- The completion of a launch. -/
def Launch.completion (l : Launch) (jobDone : Bool) : Completion :=
  { queue := queueKey l.queue, qseq := l.qseq, status := (match l.ended with | some e => e.status | none => 0),
    detail := (match l.ended with | some e => e.detail | none => 0), blocks := l.retired, trap := (match l.ended with | some e => e.trap | none => 0),
    jobDone := jobDone }

/-- Whether a launch has nothing left to do (spec/09 R269). -/
def launchOver (s : State) (n : Nat) (l : Launch) : Bool :=
  l.ended.isSome || (decide (l.nextBid = recGrid l.record) && decide (l.retired = recGrid l.record) && 
    (s.cores.all fun kv => kv.2.launches.getD n 0 == 0) &&
    match (s.part l.partition).shadow with
    | some x => x.cores.all fun kv => kv.2.launches.getD n 0 == 0
    | none => true)

/-- Whether what waits for a change of REV may go on. -/
def revChanged (s : State) (part : Nat) : Option Nat → Bool
  | none => true
  | some v => s.counter (s.part part).rev != v

/-- Whether an access that used a translation of a partition whose TEV is a counter is not yet performed (spec/19 R426); `before` leaves out later ones. -/
def tevBusy (s : State) (c : Nat) (before : Option Nat) : Bool :=
  let ps := tevParts s c
  !ps.isEmpty &&
  ((s.accs.any fun a => a.ready && !a.scratch && ps.contains a.partition && (match before with | some n => decide (a.id < n) | none => true)) ||
   s.cores.any fun kv =>
     (kv.2.copies.any fun x => (!x.pages.isEmpty || !x.wpages.isEmpty) && ps.contains (s.launchPart x.launch)) ||
     ([0, 1, 2].any fun i => match kv.2.engine.run i with | some r => !r.pages.isEmpty && ps.contains (s.partyPart (.seq kv.1)) | none => false))

/-- Whether what follows a write or an addition may be done: no write of the units waits for a refresh window, nor one carried to a peer. -/
def Closing.open (s : State) (x : Closing) : Bool :=
  s.late.isEmpty && (match x.access with | some i => (s.acc? i).isNone | none => true) &&
  match x.signal with | some (c, _) => !tevBusy s c (some x.before) | none => true

/-- Does it. -/
def State.close (s : State) (x : Closing) : State :=
  let s := match x.signal with | some (c, n) => s.addCounter c n | none => s
  match x.command with | some (q, seq, irq) => s.commandDone q seq irq | none => s

/-- Does it at once if it may be done, else once it may. An addition to a TEV invalidates translations first (spec/19 R426). -/
def State.closeSoon (s : State) (x : Closing) : State :=
  if x.open s then s.close x
  else
    let s := match x.signal with | some (c, _) => (tevParts s c).foldl State.forget s | none => s
    { s with host := { s.host with closing := s.host.closing ++ [x] } }

/-- Does all that may be done by now. -/
def State.closeAll (s : State) : State :=
  if s.host.closing.isEmpty then s
  else
    let l := s.host.closing.filter (·.open s)
    l.foldl State.close { s with host := { s.host with closing := s.host.closing.filter fun x => !x.open s } }

/-- Completes a launch: its record, its SIG, its job, its place in the queue (spec/09 R269). A record that faults waits for REV. -/
def State.completeLaunch (s : State) (n : Nat) : State :=
  match s.launch? n with
  | none => s
  | some l =>
    let r := l.record
    let place := if recComp r = 0 then .none else schedPlace s l.partition true (recComp r) 64
    match place with
    | .fault k lv va =>
      (s.postFault l.partition schedCore va 1 k lv).modLaunch n fun x => { x with blocked := some (s.counter (s.part l.partition).rev) }
    | _ =>
      let job := countJob s.sched.jobs l.partition (recJobTag r) (recJobN r)
      let w := (s.schedMeets l.partition true (recComp r) 64 place).writeCompletion (l.completion job.2) (match place with | .at pas => pas.head? | _ => none)
      let s := w.1
      let s := { s with sched := { s.sched with jobs := job.1, launches := s.sched.launches.erase n },
                        cores := s.cores.mapVals fun _ c => { c with launches := c.launches.erase n } }
      s.closeSoon {
        access := w.2, before := s.serial, signal := if r.getLsbD 703 then some (recBits r 672 12, recBits r 640 32) else none
        command := match l.queue with | .host q => some (q, l.qseq, l.irq) | .device _ => none }

/-- LAUNCH_COMPLETE (spec/09 R269). -/
def execLaunchComplete (launch : Nat) (s : State) : Host.Outcome State Fault Refusal :=
  match s.launch? launch with
  | none => .next s
  | some l =>
    if launchOver s launch l && revChanged s l.partition l.blocked then .next (s.completeLaunch launch) else .next s

/-! ### Admission (spec/09 R253, R481) -/

/-- A launch as it enters the scheduler's tables. -/
def newLaunch (s : State) (p : Pending) (q : LaunchQueue) (memb : BitVec 4608) (ended : Option LaunchEnd) : Launch :=
  { record := p.record, partition := p.partition, queue := q, qseq := p.qseq, arrived := p.arrived, number := (s.part p.partition).admitted, membership := memb,
    nextBid := 0, retired := 0, cbarriers := [], gbarriers := [], ended := ended, irq := p.irq, blocked := none }

/-- Enters a launch. -/
def State.addLaunch (s : State) (l : Launch) : State :=
  { s with sched := { s.sched with launches := s.sched.launches.set s.sched.nextLaunch l, nextLaunch := s.sched.nextLaunch + 1 } }

/-- A head record is refused: it leaves its queue and completes with the status and detail. -/
def State.refuse (s : State) (q : LaunchQueue) (p : Pending) (status detail : Nat) : State :=
  let n := s.sched.nextLaunch
  ((s.addLaunch (newLaunch s p q 0 (some { status := status, detail := detail, trap := 0 }))).popRecord (queueKey q)).completeLaunch n

/-- A head record is admitted. -/
def State.takeIn (s : State) (q : LaunchQueue) (p : Pending) (memb : BitVec 4608) : State :=
  let n := s.sched.nextLaunch
  let s := (s.addLaunch (newLaunch s p q memb none)).modPart p.partition fun x => { x with admitted := x.admitted + 1 }
  { s with sched := { s.sched with queues := s.sched.queues.modify (queueKey q) fun l => match l with
    | x :: r => { x with launch := some n, blocked := none } :: r
    | [] => [] } }

/-- Checks 6 to 10 of a record whose table has been read. -/
def State.admitWith (s : State) (q : LaunchQueue) (p : Pending) (memb : BitVec 4608) : State :=
  match membCheck p.record memb with
  | some d => s.refuse q p 3 d
  | none => if couldHold p.record (s.part p.partition).set then s.takeIn q p memb else s.refuse q p 2 10

/-- The admission of a head record. -/
def State.admission (s : State) (q : LaunchQueue) (p : Pending) : State :=
  match recCheck p.record with
  | some (st, d) => s.refuse q p st d
  | none =>
    if recMemb p.record = 0 then s.admitWith q p 0
    else match schedPlace s p.partition false (recMemb p.record) 576 with
      | .at pas => (s.schedMeets p.partition false (recMemb p.record) 576 (.at pas)).admitWith q p (BitVec.ofNat 4608 (leNat (pas.map (memGet s.mem))))
      | .none => s.refuse q p 3 6
      | .ue pa cls => (s.memoryUe pa cls 2).refuse q p 3 6
      | .wait => s
      | .fault k lv va =>
        let rev := s.counter (s.part p.partition).rev
        let s := s.postFault p.partition schedCore va 0 k lv
        { s with sched := { s.sched with queues := s.sched.queues.modify (queueKey q) fun l => match l with
          | x :: r => { x with blocked := some rev } :: r
          | [] => [] } }

/-- Whether the read of a record's membership table waits for the end of a refresh window (spec/10 R285). -/
def membWaits (s : State) (p : Pending) : Bool :=
  (recCheck p.record).isNone && recMemb p.record != 0 && schedPlace s p.partition false (recMemb p.record) 576 == .wait

/-- Whether a head record awaits its admission. -/
def admits (s : State) (p : Pending) : Bool := p.launch.isNone && revChanged s p.partition p.blocked && !membWaits s p

/-- LAUNCH_ADMISSION (spec/09 R253). -/
def execLaunchAdmission (queue : LaunchQueue) (s : State) : Host.Outcome State Fault Refusal :=
  match (s.sched.queues.getD (queueKey queue) []).head? with
  | some p => if admits s p then .next (s.admission queue p) else .next s
  | none => .next s

end Sys2Proof.Machine
end

