-- ==== Sys2Proof/Machine/Host.lean ====
section
/-!
DEFINITION. The host side: queues and their commands, the lease, BAR2, host atomics, and operations that arrive from peers
(spec/10 R283, R284; spec/11 R316 to R319; spec/18 R396 to R415; spec/21 R456; spec/22 R463, R473, R476, R479).
-/
namespace Sys2Proof.Machine

open Sys2Proof

/-! ### Memory as the host side reaches it -/

/-- Whether module reset has finished and the BARs serve (spec/21 R452). -/
def State.ready (s : State) : Bool := s.boot.code == 1

/-- Whether a physical address is served to the host side: memory of the module, or of the host. -/
def hostServed (s : State) (pa : Nat) : Bool :=
  match homeOf s pa with
  | .near _ => true | .far => true | .weights _ => true | .pantry _ => true | .host => true
  | _ => false

/-- The first address of each 4 KiB unit that a byte range touches, and its last byte: homes are made of such units. -/
def unitStarts (pa n : Nat) : List Nat :=
  if n = 0 then [] else (pa + n - 1) :: (range (pa / 4096) ((pa + n - 1) / 4096 + 1)).map fun u => max pa (4096 * u)

/-- Whether every byte of a range lies in a range of spec/10 R281. -/
def rangeInside (s : State) (pa n : Nat) : Bool := (unitStarts pa n).all fun a => homeOf s a != .outside

/-- The dies in READ state whose weight store a range touches. -/
def readDies (s : State) (pa n : Nat) : List Nat :=
  ((unitStarts pa n).filterMap fun a => match homeOf s a with
    | .weights d => if (s.die d).wsWrite then none else some d
    | _ => none).eraseDups

/-- The code of a peer. -/
def peerCode (peer : Nat) : Nat := 2 ^ 31 + peer % 2 ^ 16

/-- Writes bytes at one line: a partial write of a poisoned line is an uncorrectable error and writes nothing (spec/22 R463). -/
def State.storeLine (s : State) (code access : Nat) (line : Nat) (l : List (Nat × Byte)) : State :=
  let mine := l.filter fun x => x.1 / 64 == line
  let pas := mine.map (·.1)
  match writeUe s pas with
  | some c => s.memoryUe (64 * line) c 2
  | none => ((s.storeBytes none pas (mine.map (·.2))).unpoisonAll pas).order line code none true access

/-- Writes bytes at physical addresses, line by line; bytes that no memory holds are dropped. -/
def State.hostStore (s : State) (code access : Nat) (l : List (Nat × Byte)) : State :=
  let l := l.filter fun x => hostServed s x.1
  (((l.map fun x => x.1 / 64).eraseDups).foldl (fun s line => s.storeLine code access line l) s).noteCode none none (l.map (·.1))

/-- The lines of a write. -/
def writtenLines (pas : List Nat) : List (Nat × Bool) := ((pas.map (· / 64)).eraseDups).map fun line => (line, true)

/-- Whether host or peer writes must wait at a slice for room in an ordering buffer. -/
def hostBlocked (s : State) (code : Nat) (pas : List Nat) : Bool := slicesBlocked s (writtenLines pas) code none

/-- Such writes ask the device to reread RP. -/
def State.hostAsks (s : State) (code : Nat) (pas : List Nat) : State := s.askRoom (writtenLines pas) code none

/-- Lines read by a host: uncorrectable errors are counted, a line each, and correctable ones corrected (spec/22 R462, R463). -/
def State.countReads (s : State) (lines : List Nat) : State :=
  lines.foldl (fun s line => match ueAt s (64 * line) with
    | some c => s.memoryUe (64 * line) c 2
    | none => s.correct line) s

/-- Lines read by a host are performed at their slices. -/
def State.orderReads (s : State) (code : Nat) (lines : List Nat) : State := lines.foldl (fun s line => s.order line code none false 6) s

/-! ### Completion of a host command (spec/18 R408) -/

/-- The place of a command's completion record. The record is dropped where no write of a unit is taken, and where an uncorrectable error is met, which is
counted (`State.putUnit`), or a peer window takes none (`State.sendBytes`). -/
def commandPlace (entry : BitVec 2048) : Option Nat :=
  let comp := vbits entry 70 58 * 64
  if comp = 0 then none else some comp

/-- Completes the command a queue performs: record, sequence numbers, vector; the queue goes on. -/
def State.completeCommand (s : State) (q status detail : Nat) : State :=
  match (s.queue q).current with
  | none => s
  | some e =>
    let seq := vbits e 32 32
    let w := s.writeCompletion { queue := q, qseq := seq, status := status, detail := detail, blocks := 0, trap := 0, jobDone := false } (commandPlace e)
    let s := w.1.modQueue q fun x => { x with current := none, mark := none, copying := false, moved := false, remote := [], ahead := [] }
    s.closeSoon { access := w.2, before := s.serial, signal := none, command := some (q, seq, e.getLsbD 16) }

/-! ### Consuming entries (spec/18 R403 to R406) -/

/-- Bytes of an entry or of a ring of entries lie in a range of spec/10 R281. -/
def paOk (s : State) (pa n : Nat) : Bool := rangeInside s pa n

/-- Whether operand words from `k` to 7 are 0. -/
def opsZero (e : BitVec 2048) (k : Nat) : Bool := (range k 8).all fun j => opWord e j == 0

/-- Whether HCOPY's operands are within their limits. -/
def hcopyOk (s : State) (e : BitVec 2048) : Bool :=
  let n := opWord e 4
  let ok (pa : Nat) : Bool := (unitStarts pa n).all fun a => homeOf s a != .outside && homeOf s a != .debug
  decide (1 ≤ n) && decide (n ≤ 2 ^ 32) && ok (opWord e 2) && ok (opWord e 3) && opsZero e 5

/-- Whether the operands of a command are within their limits (spec/18 R405, R406). -/
def operandsOk (s : State) (part : Nat) (e : BitVec 2048) : Bool :=
  match cmdOf e with
  | 1 => opsZero e 2
  | 2 => hcopyOk s e
  | 3 => decide (opWord e 2 < 4096) && decide (opWord e 3 < 2 ^ 32) && opsZero e 4
  | 4 => decide (opWord e 2 < 4096) && decide (opWord e 3 < 2 ^ 32) && opsZero e 4
  | 5 => decide (opWord e 2 = part) && decide (4 ≤ opWord e 4) && decide (opWord e 4 ≤ 12) && paOk s (opWord e 3) (128 * 2 ^ opWord e 4) && opsZero e 5
  | 6 => decide (opWord e 2 < 4) && decide (opWord e 3 < 2) && opsZero e 4
  | 7 => decide (opWord e 2 = part) && decide (opWord e 3 < 3) && decide (opWord e 5 % 4096 = 0) && (opWord e 5 == 0 || paOk s (opWord e 4) (opWord e 5)) &&
         opsZero e 6
  | 8 =>
    let op := opWord e 3
    decide (opWord e 2 = part) && decide (op ≤ 4) && decide (opWord e 4 < 2 ^ 16) && decide (opWord e 5 < 4) && opsZero e 6 &&
    (if op = 1 ∨ op = 2 then opWord e 4 == 0 else opWord e 4 != 0)
  | _ => false

/-- Whether a consumed command is malformed. The record area plays no part in a command other than LAUNCH, nor COMP in LAUNCH. -/
def malformed (s : State) (part : Nat) (e : BitVec 2048) : Bool :=
  vbits e 8 8 != 0 || vbits e 17 15 != 0 || vbits e 64 6 != 0 || vbits e 512 512 != 0 || (cmdOf e != 1 && vbits e 112 16 != 0) || !operandsOk s part e

/-- A queue stops (spec/18 R404, R405). -/
def State.stopQueue (s : State) (q code : Nat) : State := (s.modQueue q fun x => { x with en := false, err := true, errcode := code }).sendVector 64

/-- The entry at the head of a queue in host memory. -/
def entryAt (s : State) (q : HostQueue) : BitVec 2048 :=
  BitVec.ofNat 2048 (memNat s (2 ^ 44 + (q.base * 2 ^ 8 + 256 * (q.head % 2 ^ q.dlog)) % 2 ^ 44) 256)

/-- Whether the tail of a queue lies beyond its depth: the queue then stops, whatever it performs (spec/18 R404). -/
def HostQueue.beyond (x : HostQueue) : Bool := decide (2 ^ x.dlog < (x.tail + 2 ^ 32 - x.head) % 2 ^ 32)

/-- Whether a queue consumes or stops: enabled, with entries before its tail, and no command being performed unless its tail lies beyond its depth. -/
def consumes (s : State) (q : Nat) : Bool :=
  let x := s.queue q
  s.ready && decide (q < Config.hostQueues) && x.en && x.head != x.tail && (x.current.isNone || x.beyond)

/-- HOST_QUEUE_CONSUME (spec/18 R404, R405). -/
def execHostQueueConsume (q : Nat) (s : State) : Host.Outcome State Fault Refusal :=
  if !consumes s q then .next s
  else
    let x := s.queue q
    if x.beyond then .next (s.stopQueue q 2)
    else
      let e := entryAt s x
      if vbits e 32 32 != (x.consumed + 1) % 2 ^ 32 then .next (s.stopQueue q 1)
      else
        let s := s.modQueue q fun y =>
          { y with consumed := vbits e 32 32, head := (y.head + 1) % 2 ^ 32, current := some e, serves := y.part, arrived := s.ccnt, mark := none, copying := false, moved := false,
                   remote := [], ahead := [] }
        .next (if malformed s x.part e then s.completeCommand q 6 1 else s)

/-- QTAIL (spec/18 R404; spec/11 R316): the doorbell keeps the greatest tail; a write from a port without the lease is dropped. -/
def execQtail (port q : Nat) (value : Word64) (s : State) : Host.Outcome State Fault Refusal :=
  let v := value.toNat % 2 ^ 32
  if s.ready && port = s.host.owner && q < Config.hostQueues && (v + 2 ^ 32 - (s.queue q).tail) % 2 ^ 32 < 2 ^ 31 then
    .next (s.modQueue q fun x => { x with tail := v })
  else .next s

/-! ### Commands (spec/18 R406) -/

/-- LAUNCH as a host command: its record becomes the head of the queue at the scheduler, for the partition and with the arrival of its consumption. -/
def execLaunchCommand (q : Nat) (s : State) : Host.Outcome State Fault Refusal :=
  match s.performing q 1 with
  | some e =>
    if (s.sched.queues.getD q []).isEmpty then
      let p := pendingOf (BitVec.ofNat 1024 (vbits e 1024 1024)) (s.queue q).serves (vbits e 32 32) (s.queue q).arrived
      .next (s.enqueue q ({ p with irq := e.getLsbD 16 }.mark s))
    else .next s
  | none => .next s

/-- HCOPY: the transfer starts. -/
def execHcopy (q : Nat) (s : State) : Host.Outcome State Fault Refusal :=
  match s.performing q 2 with
  | some _ => .next (s.modQueue q fun x => { x with copying := true })
  | none => .next s

/-- A byte as HCOPY reads it. A peer gives no value that the spec states, nor does a line with an uncorrectable error. -/
def hcopyByte (s : State) (pa : Nat) : Byte :=
  if isPeer pa || (ueAt s pa).isSome then (Config.freeValue (2 ^ 64 * s.ccnt + pa)).setWidth 8 else memGet s.mem pa

/-- The lines that HCOPY reads and writes. -/
def hcopyLines (src dst n : Nat) : List (Nat × Bool) := (linesOf src n).map (·, false) ++ (linesOf dst n).map (·, true)

/-- The bytes that HCOPY writes: those read before any is written, those that have moved ahead as they stand (spec/11 R299; spec/18 R406). -/
def hcopyBytes (s : State) (ahead : List Nat) (src dst n : Nat) : List (Nat × Byte) :=
  (List.range n).map fun i => (dst + i, if ahead.contains i then memGet s.mem (dst + i) else hcopyByte s (src + i))

/-- HCOPY's bytes move: those for a peer leave for it, and those that the Pantry atomic unit alone writes are dropped (spec/14 R356, R357; log entry 68). -/
def State.moveHcopy (s : State) (q src dst n : Nat) : State :=
  let l := (hcopyBytes s (s.queue q).ahead src dst n).filter fun x => !unitOnly s x.1
  let code := hostCode s.host.owner
  let s := ((s.countReads (linesOf src n)).orderReads code (linesOf src n)).hostStore code 6 l
  let r := s.sendBytes l
  r.1.modQueue q fun x => { x with moved := true, remote := r.2.toList }

/-- Whether HCOPY is refused: its destination touches a weight store in READ state, and none of its bytes has moved (spec/10 R284). -/
def hcopyRefused (s : State) (x : HostQueue) (dst n : Nat) : Bool := x.ahead.isEmpty && !(readDies s dst n).isEmpty

/-- HCOPY_DONE (spec/18 R406; spec/10 R284, R285): every byte is written and the command completes, once no bank it reaches is in its refresh window and the
ordering buffers have room; a destination in a weight store in READ state is refused. -/
def execHcopyDone (q : Nat) (s : State) : Host.Outcome State Fault Refusal :=
  match s.performing q 2 with
  | none => .next s
  | some e =>
    let x := s.queue q
    let src := opWord e 2
    let dst := opWord e 3
    let n := opWord e 4
    let code := hostCode s.host.owner
    if !x.copying then .next s
    else if x.moved then .next (if x.remote.all fun i => (s.acc? i).isNone then s.completeCommand q 0 0 else s)
    else if hcopyRefused s x dst n then .next (s.completeCommand q 6 3)
    else if rangeRefresh s src n || rangeRefresh s dst n then .next s
    else if slicesBlocked s (hcopyLines src dst n) code none then .next (s.askRoom (hcopyLines src dst n) code none)
    else
      let s := s.moveHcopy q src dst n
      .next (if (s.queue q).remote.isEmpty then s.completeCommand q 0 0 else s)

/-- HCOPY moves one byte before the rest (spec/11 R299). -/
def State.hcopyPart (s : State) (q i : Nat) : State :=
  match s.performing q 2 with
  | none => s
  | some e =>
    let x := s.queue q
    let src := opWord e 2 + i
    let dst := opWord e 3 + i
    let code := hostCode s.host.owner
    if !x.copying || x.moved || opWord e 4 ≤ i || x.ahead.contains i || hcopyRefused s x (opWord e 3) (opWord e 4) then s
    else if isPeer src || !hostServed s dst || unitOnly s dst || (ueAt s src).isSome || (writeUe s [dst]).isSome || inRefresh s src || inRefresh s dst then s
    else if slicesBlocked s (hcopyLines src dst 1) code none then s
    else (((s.countReads [src / 64]).orderReads code [src / 64]).hostStore code 6 [(dst, hcopyByte s src)]).modQueue q fun x => { x with ahead := i :: x.ahead }

/-- SIGNAL. On a counter that is some partition's TEV, translations are invalidated first, and the addition waits until every access that used one has been
performed (spec/19 R426). -/
def execSignal (q : Nat) (s : State) : Host.Outcome State Fault Refusal :=
  match s.performing q 3 with
  | some e =>
    let c := opWord e 2
    if (tevParts s c).isEmpty then .next ((s.addCounter c (opWord e 3)).completeCommand q 0 0)
    else match (s.queue q).mark with
      | none => .next (((tevParts s c).foldl State.forget s).modQueue q fun x => { x with mark := some s.serial })
      | some n => if tevBusy s c (some n) then .next s else .next ((s.addCounter c (opWord e 3)).completeCommand q 0 0)
  | none => .next s

/-- WAIT. -/
def execWait (q : Nat) (s : State) : Host.Outcome State Fault Refusal :=
  match s.performing q 4 with
  | some e => if counterMet s (opWord e 2) (opWord e 3) then .next (s.completeCommand q 0 0) else .next s
  | none => .next s

/-- Whether a block of a partition is placed: it has not retired, or is saved (spec/09 R268; spec/19 R433). -/
def partPlaced (s : State) (part : Nat) : Bool :=
  let mine (kv : Nat × Block) : Bool := !kv.2.live.isEmpty && s.launchPart kv.2.launch == part
  s.sched.blocks.any mine || match (s.part part).shadow with | some x => x.blocks.any mine | none => false

/-- Whether BIND is refused: no partition, a launch with a block placed, or a LAUNCH of the partition that waits (spec/18 R406). -/
def bindRefused (s : State) (part : Nat) : Bool :=
  (s.part part).state == .none || partPlaced s part || s.waiters.any fun x => x.2 == .launchQueue && s.partyPart x.1 == part

/-- BIND: the partition's device-side queue is set, and records of the old one of which no block has been placed are dropped. -/
def State.bind (s : State) (part pa dlog : Nat) : State :=
  let old := s.sched.queues.getD (64 + part) []
  let keep := old.filter fun x => match x.launch.bind s.launch? with | some l => decide (0 < l.nextBid) | none => false
  let gone := (old.filter fun x => !keep.contains x).filterMap (·.launch)
  let s := { s with sched := { s.sched with queues := if keep.isEmpty then s.sched.queues.erase (64 + part) else s.sched.queues.set (64 + part) keep,
                                            launches := s.sched.launches.filter fun kv => !gone.contains kv.1 } }
  s.modPart part fun p => { p with device := some { addr := pa, dlog := dlog, rsv := 0, head := 0, tmax := 0, notes := [] } }

/-- BIND issues. -/
def execBind (q : Nat) (s : State) : Host.Outcome State Fault Refusal :=
  match s.performing q 5 with
  | some e =>
    if bindRefused s (opWord e 2) then .next (s.completeCommand q 6 2)
    else .next ((s.bind (opWord e 2) (opWord e 3) (opWord e 4)).completeCommand q 0 0)
  | none => .next s

/-- Whether a queue has asked a die for a change of its weight store's state. -/
def State.wsAsked (s : State) (q : Nat) : Bool := (List.range Config.dies).any fun d => (s.die d).wsReq.any fun x => x.1 == q

/-- Whether another queue's WSMODE for a die was consumed earlier and has not asked yet. -/
def State.wsBehind (s : State) (q die : Nat) : Bool :=
  (s.wsQueues die).any fun r => !s.wsAsked r && decide ((s.queue r).arrived < (s.queue q).arrived)

/-- WSMODE (spec/10 R283; spec/21 R456): a request for the state the die holds is performed at once; another waits, and holds placement on the die. Requests
stand in the order in which they were consumed. -/
def execWsmode (q : Nat) (s : State) : Host.Outcome State Fault Refusal :=
  match s.performing q 6 with
  | some e =>
    let d := opWord e 2
    let w := opWord e 3 == 1
    if s.wsAsked q || s.wsBehind q d then .next s
    else if (s.die d).wsReq.isEmpty && (s.die d).wsWrite == w then .next (s.completeCommand q 0 0)
    else .next (s.modDie d fun x => { x with wsReq := x.wsReq ++ [(q, w)] })
  | none => .next s

/-- Whether a die holds no block, and its copy engines no command (spec/10 R283). -/
def dieClear (s : State) (die : Nat) : Bool :=
  (dieCores die).all fun c => (s.core c).copies.isEmpty && (s.liveOn c).isEmpty

/-- WSMODE_APPLY (spec/10 R283; spec/21 R456): the oldest request of a die is performed. -/
def execWsmodeApply (die : Nat) (s : State) : Host.Outcome State Fault Refusal :=
  match (s.die die).wsReq with
  | [] => .next s
  | (q, w) :: r =>
    if (s.die die).wsWrite == w || dieClear s die then .next ((s.modDie die fun x => { x with wsWrite := w, wsReq := r }).completeCommand q 0 0) else .next s

/-- LOGCTL (spec/22 R473): sets a log buffer of the partition, or turns its kind off. -/
def execLogctl (q : Nat) (s : State) : Host.Outcome State Fault Refusal :=
  match s.performing q 7 with
  | some e =>
    let kind := opWord e 3
    let s := s.modPart (opWord e 2) fun p =>
      { p with logs := if opWord e 5 = 0 then p.logs.erase kind
                       else p.logs.set kind { pa := opWord e 4, bytes := opWord e 5, wp := 0, reserved := 0, wanted := 0 } }
    .next (s.completeCommand q 0 0)
  | none => .next s

/-! ### The lease (spec/18 R400 to R402, R412; spec/22 R479) -/

/-- LEASE.LIVE. -/
def State.live (s : State) : Bool := decide (s.ccnt < s.host.expiry)

/-- The lease heartbeat: a service request of kind 3 on the first lane group of every ACTIVE partition. -/
def State.heartbeat (s : State) : State :=
  (s.parts.filter fun kv => kv.2.state == .active).foldl (fun s kv => match (setCores kv.2.set).head? with
    | some c => s.request (2 * c) 3
    | none => s) s

/-- CLAIM (spec/18 R402): with the key, a lapsed lease passes to the port that writes, and the host range with it; every queue is disabled, and vector 65 goes
to both ports. -/
def execClaim (port : Nat) (value : Word64) (s : State) : Host.Outcome State Fault Refusal :=
  if s.ready && port < 2 && value.toNat % 2 ^ 16 = 0xC1A1 && !s.live then
    .next ({ s with mem := if port = s.host.owner then s.mem else swapHosts s.mem
                    host := { s.host with owner := port, expiry := s.ccnt + 300000000, leased := true, warned := false,
                                          queues := s.host.queues.mapVals fun _ x => { x with en := false } } }.sendBoth 65).heartbeat
  else .next s

/-- A write to LEASE (spec/18 R401): the owner renews while the lease is live. -/
def execLeaseWrite (port : Nat) (value : Word64) (s : State) : Host.Outcome State Fault Refusal :=
  if s.ready && port = s.host.owner && s.live then
    .next { s with host := { s.host with expiry := min (value.toNat % 2 ^ 62) (s.ccnt + 30000000000), warned := false } }
  else .next s

/-- Whether the lease warning is due: it is sent once after each renewal. -/
def leaseWarns (s : State) : Bool := s.live && !s.host.warned && decide (s.host.expiry - s.ccnt < 3000000)

/-- LEASE_WARNING (spec/18 R412): vector 65 to the owner. -/
def execLeaseWarning (s : State) : Host.Outcome State Fault Refusal :=
  if leaseWarns s then .next ({ s with host := { s.host with warned := true } }.sendVector 65).heartbeat else .next s

/-- LEASE_EXPIRY (spec/18 R401): ccnt has reached EXPIRY and the lease has lapsed. -/
def execLeaseExpiry (s : State) : Host.Outcome State Fault Refusal :=
  if s.host.leased && !s.live then .next { s with host := { s.host with leased := false } } else .next s

/-! ### BAR2 and host atomics (spec/10 R284; spec/11 R318; spec/18 R397, R398) -/

/-- The physical address of a BAR2 offset: bits of the base below BAR2's size are taken as 0. -/
def bar2Pa (s : State) (offset : Nat) : Nat := roundDown (s.host.winbase * 2 ^ 34) s.host.bar2Bytes + offset

/-- HOST_BAR2_WRITE, through either port (spec/18 R398): performed at its home slice, or carried to a peer; one that touches a weight store in READ state is
dropped whole. -/
def execHostBar2Write (port offset : Nat) (bytes : List Byte) (s : State) : Host.Outcome State Fault Refusal :=
  if !s.ready || s.host.bar2Bytes < offset + bytes.length then .next s
  else
    let pa := bar2Pa s offset
    let dies := readDies s pa bytes.length
    let l := ((List.range bytes.length).map (pa + ·)).zip bytes
    if !dies.isEmpty then .next { s with host := { s.host with wsdrop := dies.foldl (fun w d => w ||| 2 ^ d) s.host.wsdrop } }
    else if hostBlocked s (hostCode port) ((l.map (·.1)).filter (hostServed s)) then
      .next (s.hostAsks (hostCode port) ((l.map (·.1)).filter (hostServed s)))
    else if l.any fun x => inRefresh s x.1 then .next s
    else .next ((s.hostStore (hostCode port) 6 l).sendBytes l).1

/-- A byte that a host reads: memory, or what a peer gives; addresses outside every range and in the debug window, which LD and ST alone reach
(spec/20 R443), read as 0. -/
def hostByte (s : State) (pa : Nat) : Byte := if isPeer pa then hcopyByte s pa else if hostServed s pa then memGet s.mem pa else 0

/-- A host reads bytes at a BAR2 offset, through either port, once the module serves it (spec/18 R398; spec/21 R452): it waits for the end of a refresh
window and for room in the ordering buffers; an uncorrectable error is counted, and gives no bytes (spec/22 R463, R476). -/
def State.bar2Read (s : State) (port offset n : Nat) : State :=
  let pa := bar2Pa s offset
  let lines := linesOf pa n
  if !s.ready || s.host.bar2Bytes < offset + n then s
  else if slicesBlocked s (lines.map (·, false)) (hostCode port) none then s.askRoom (lines.map (·, false)) (hostCode port) none
  else if rangeRefresh s pa n then s
  else
    let pas := (List.range n).map (pa + ·)
    let l := if (readUe s pas).isSome then none else some (pas.map (hostByte s))
    let s := (s.countReads lines).orderReads (hostCode port) lines
    { s with host := { s.host with read := l } }

/-- Whether a home has an atomic unit for the host. -/
def atomicHome (s : State) (pa : Nat) : Bool :=
  match homeOf s pa with
  | .near _ => true | .far => true | .pantry _ => true
  | _ => false

/-- A read-modify-write at a line's atomic unit. -/
def State.hostAct (s : State) (code access pa n : Nat) (f : Nat → Nat) : State :=
  let pas := (List.range n).map (pa + ·)
  match readUe s pas with
  | some c => s.memoryUe pa c 2
  | none => (((s.correct (pa / 64)).storeBytes none pas (natLe n (f (memNat s pa n)))).noteCode none none pas).order (pa / 64) code none true access

/-- HOST_ATOMIC: FetchAdd, Swap and CAS of 32 and 64 bits on aligned device memory. -/
def execHostAtomic (port offset : Nat) (op : HostAtomicOp) (wide : Bool) (operand : Word64) (s : State) : Host.Outcome State Fault Refusal :=
  let n := if wide then 8 else 4
  let pa := bar2Pa s offset
  let v := operand.toNat % 2 ^ (8 * n)
  if !s.ready || pa % n != 0 || s.host.bar2Bytes < offset + n || !atomicHome s pa then .next s
  else if hostBlocked s (hostCode port) [pa] then .next (s.hostAsks (hostCode port) [pa])
  else .next (s.hostAct (hostCode port) 6 pa n fun old => match op with
    | .fetchAdd => (old + v) % 2 ^ (8 * n)
    | .swap => v
    | .cas c => if old = c.toNat % 2 ^ (8 * n) then v else old)

/-! ### Operations from peers (spec/18 R413 to R415) -/

/-- Whether the route table lets operations of a module in. -/
def inbound (s : State) (peer : Nat) : Bool := s.host.routes.any fun kv => kv.2.getLsbD 62 && vbits kv.2 0 16 == peer

/-- Bytes of near memory that a window reaches; its last 16 KiB name event counters. -/
def windowBytes : Nat := 2 ^ 38 - 16384

/-- The address and bytes an operation from a peer touches in near memory. -/
def remoteSpan : RemoteOp → Nat × Nat
  | .store a l => (a, l.length)
  | .bits a _ _ => (a, 1)
  | .atomic a _ wide _ => (a, if wide then 8 else 4)
  | .cas a wide _ _ => (a, if wide then 8 else 4)
  | .addOn a df _ _ => (a, (drainOut df).width / 8)
  | .signal _ _ => (0, 0)

/-- An operation from a peer has its effect. -/
def State.remoteOp (s : State) (peer : Nat) (op : RemoteOp) : State :=
  let code := peerCode peer
  match op with
  | .store a l => s.hostStore code 7 (((List.range l.length).map (a + ·)).zip l)
  | .bits a mask v => s.hostStore code 7 [(a, mixByte (memGet s.mem a) mask.toNat v.toNat)]
  | .atomic a k wide v =>
    let n := if wide then 8 else 4
    if 11 < k then s else s.hostAct code 7 a n fun old => (atomNew k wide old (v.toNat % 2 ^ (8 * n))).1
  | .cas a wide c v =>
    let n := if wide then 8 else 4
    s.hostAct code 7 a n fun old => if old = c.toNat % 2 ^ (8 * n) then v.toNat % 2 ^ (8 * n) else old
  | .addOn a df kind v =>
    let n := (drainOut df).width / 8
    s.hostAct code 7 a n fun old => (drainVal df kind v.toNat (some old)).1
  | .signal c amount => if c < 4096 then s.addCounter c (amount % 2 ^ 32) else s

/-- REMOTE_OP_ARRIVE: an operation of a module whose route entry lacks INBOUND is dropped; the rest are performed at their home slice or event counter. -/
def execRemoteOpArrive (_port peer : Nat) (op : RemoteOp) (s : State) : Host.Outcome State Fault Refusal :=
  let x := remoteSpan op
  let aligned := match op with | .store _ _ => true | .signal _ _ => true | _ => x.1 % x.2 == 0
  if !s.ready || !inbound s peer || windowBytes < x.1 + x.2 || !aligned then .next s
  else if hostBlocked s (peerCode peer) ((List.range x.2).map (x.1 + ·)) then .next (s.hostAsks (peerCode peer) ((List.range x.2).map (x.1 + ·)))
  else if (match op with | .signal c _ => tevBusy s c none | _ => false) then .next s
  else .next (s.remoteOp peer op)

end Sys2Proof.Machine
end

