-- ==== Sys2Proof/Machine/Power.lean ====
section
/-!
DEFINITION. Module reset and the configuration image, and the energy windows with their throttle (spec/21 R452 to R459).
-/
namespace Sys2Proof.Machine

open Sys2Proof

/-! ### The configuration image (spec/21 R453, R454) -/

/-- A 32-bit word of an image. -/
def word32 (l : List Byte) (o : Nat) : Nat := leNat ((l.drop o).take 4)

/-- The sections of an image: type and payload; none when one does not fit. -/
def imageSections : Nat → List Byte → Option (List (Nat × List Byte))
  | 0, _ => some []
  | n + 1, l =>
    let len := word32 l 4
    let size := 8 + roundUp len 8
    if l.length < size then none
    else match imageSections n (l.drop size) with
      | some r => some ((word32 l 0, (l.drop 8).take len) :: r)
      | none => none

/-- Words of 32 bits of a payload. -/
def words32 (l : List Byte) : List Nat := (List.range (l.length / 4)).map fun i => word32 l (4 * i)

/-- Whether bytes map the logical cores of a die onto distinct working physical cores. -/
def spareMapOk (failed : List Nat) (l : List Nat) : Bool :=
  l.eraseDups.length == l.length && l.all fun c => decide (c < 76) && !failed.contains c

/-- The spare map of a die in section 3: one byte for each logical core. -/
def dieMap (l : List Byte) (d : Nat) : List Nat := ((l.drop (Config.coresPerDie * d)).take Config.coresPerDie).map (·.toNat)

/-- Whether a section is within its limits. -/
def sectionOk (s : State) (t : Nat) (l : List Byte) : Bool :=
  let w := words32 l
  match t with
  | 1 => l.length == 12 && leNat (l.take 8) % 4096 == 0 && decide (leNat (l.take 8) < 2 ^ 36) && decide (300000 ≤ word32 l 8) && decide (word32 l 8 ≤ 30000000)
  | 2 => l.length == 16 && w.all fun x => decide (x ≤ 32)
  | 3 => l.length == Config.cores && (List.range Config.dies).all fun d => spareMapOk (s.die d).failed (dieMap l d)
  | 4 => l.length == 20 && decide (100 ≤ word32 l 0) && decide (word32 l 0 ≤ 1000)
  | 5 => l.length == 12 && decide (word32 l 0 < word32 l 4) && decide (word32 l 4 < word32 l 8)
  | 6 => true
  | _ => false

/-- The sections of an image that is well formed. -/
def imageParts (s : State) : Option (List (Nat × List Byte)) :=
  let l := s.boot.flash
  let n := word32 l 16
  let len := word32 l 12
  if word32 l 0 != 0x4E56524F || n = 0 || 16 < n || leNat ((l.drop 20).take 44) != 0 || len < 64 || l.length < len + 96 then none
  else match imageSections n ((l.drop 64).take (len - 64)) with
    | none => none
    | some r =>
      if (r.map (·.1)).eraseDups.length = r.length && r.any (fun x => x.1 == 1) && r.all fun x => sectionOk s x.1 x.2 then some r else none

/-- Whether the signature after the sections verifies over the header and the sections, under the key whose hash is fused into die 0 (spec/21 R453). -/
def imageSigned (s : State) : Bool :=
  let len := word32 s.boot.flash 12
  Config.signatureOk s.boot.keyHash (s.boot.flash.take len) ((s.boot.flash.drop len).take 96)

/-- BOOTSTAT.CODE for the image in flash, which may be unreadable (spec/21 R453, R455). -/
def imageCode (s : State) (readable : Bool) : Nat :=
  if !readable || s.boot.flash.isEmpty then 5
  else if !imageSigned s then 2
  else if word32 s.boot.flash 8 < s.boot.fuse then 3
  else if (imageParts s).isNone then 4
  else 1

/-- A section's payload. -/
def sectionOf (l : List (Nat × List Byte)) (t : Nat) : Option (List Byte) := (l.find? fun x => x.1 == t).map (·.2)

/-- The configuration that an image gives (spec/21 R454). -/
def bootOf (s : State) (l : List (Nat × List Byte)) : Boot :=
  let d := (sectionOf l 1).getD []
  { State.reset.boot with
      flash := s.boot.flash, fuse := s.boot.fuse, keyHash := s.boot.keyHash, code := 1, version := word32 s.boot.flash 4, descBase := leNat (d.take 8), ageLimit := word32 d 8,
      bud := match sectionOf l 4 with | some x => word32 x 0 | none => 600
      rates := match sectionOf l 4 with | some x => (words32 x).drop 1 | none => [8, 16, 24, 32]
      thresholds := match sectionOf l 5 with | some x => words32 x | none => [340, 380, 420] }

/-- A die after reset, with its Pantry size and its spare map; what the die itself has lost stays lost. -/
def bootDie (s : State) (l : List (Nat × List Byte)) (d : Nat) : Die :=
  { State.die0 with
      failed := (s.die d).failed, banks := (s.die d).banks, worn := (s.die d).worn, bankMoved := (s.die d).bankMoved, rows := (s.die d).rows,
      pantryMiB := match sectionOf l 2 with | some x => word32 x (4 * d) | none => 0
      spares := match sectionOf l 3 with
        | some x => ((dieMap x d).zipIdx.filter fun y => y.1 != y.2).map fun y => (y.2, y.1)
        | none => [] }

/-- Memory after reset: the weight stores and the Pantry are 0 (spec/21 R452). -/
def bootMem (m : List Host.Cell) : List Host.Cell := m.filter fun c => decide (c.1 < 2 ^ 42) || decide (2 ^ 43 + 2 ^ 27 ≤ c.1)

/-- Whether a line lies in a weight store or a Pantry, which reset writes. -/
def bootLine (line : Nat) : Bool := decide (2 ^ 36 ≤ line) && decide (line < 2 ^ 37 + 2 ^ 21)

/-- The module as reset leaves it before an image is applied: what is in memory modules, in flash, fused or broken stays. -/
def State.cleared (s : State) : State :=
  { State.reset with
      boot := { State.reset.boot with flash := s.boot.flash, fuse := s.boot.fuse, keyHash := s.boot.keyHash }
      mem := if s.host.owner = 0 then s.mem else swapHosts s.mem
      dies := (List.range Config.dies).map fun d => (d, { State.die0 with
        failed := (s.die d).failed, banks := (s.die d).banks, worn := (s.die d).worn, bankMoved := (s.die d).bankMoved, rows := (s.die d).rows })
      host := { State.host0 with bar2Bytes := s.host.bar2Bytes, lanes := s.host.lanes }
      ras := { State.reset.ras with poison := s.ras.poison, upsets := s.ras.upsets, rowUes := s.ras.rowUes, farAbsent := s.ras.farAbsent }
      agenda := s.agenda }

/-- MODULE_RESET (spec/21 R452 to R455): the image is checked and applied, the arrays are cleared, ccnt is released. A rejected image leaves the module
serving BOOTSTAT alone. Whether the flash can be read comes from outside. -/
def execModuleReset (readable : Bool) (s : State) : Host.Outcome State Fault Refusal :=
  let code := imageCode s readable
  let c := s.cleared
  match imageParts s with
  | some l =>
    if code = 1 then
      .next { c with
        boot := bootOf s l
        mem := bootMem c.mem
        dies := (List.range Config.dies).map fun d => (d, bootDie s l d)
        ras := { c.ras with poison := c.ras.poison.filter (!bootLine ·), upsets := c.ras.upsets.filter fun x => !bootLine x.1 } }
    else .next { c with boot := { c.boot with code := code } }
  | none => .next { c with boot := { c.boot with code := code } }

/-! ### Windows (spec/21 R459) -/

/-- Thresholds below a temperature. -/
def thermalCount (s : State) (temperature : Nat) : Nat := (s.boot.thresholds.filter (decide <| · < temperature)).length

/-- The thermal state after a window, from the temperature: a state falls only at 5 degrees below the threshold that leads into it. -/
def thermalNext (s : State) (state temperature : Nat) : Nat :=
  let k := thermalCount s temperature
  if state ≤ k then k
  else if temperature + 20 ≤ (s.boot.thresholds[state - 1]?).getD 0 then k
  else state

/-- Whether a window's measured energy, in microjoules, exceeds BUDEFF for 1 ms. -/
def overBudget (s : State) (die energy : Nat) : Bool := decide (s.budEff die * 1000 < 80 * energy)

/-- The priority of the highest-priority block of a core. -/
def State.corePrio (s : State) (core : Nat) : Nat := ((s.liveOn core).map fun kv => recPrio (s.recordOf kv.2.launch)).foldl max 0

/-- The rank of a core for the throttle: lower goes first. A core without a block is never throttled, and is released last. -/
def throttleRank (s : State) (core : Nat) : List Nat :=
  match s.coreClass core with
  | none => [0, 0, 0, 0]
  | some c => [s.corePrio core + 1, (s.core core).clock, 3 - c, Config.cores - core]

/-- The core of lowest rank. -/
def leastRank (s : State) : List Nat → Option Nat
  | [] => none
  | c :: r => match leastRank s r with
    | none => some c
    | some d => if keyLt (throttleRank s d) (throttleRank s c) then some d else some c

/-- The core of highest rank. -/
def greatestRank (s : State) : List Nat → Option Nat
  | [] => none
  | c :: r => match greatestRank s r with
    | none => some c
    | some d => if keyLt (throttleRank s c) (throttleRank s d) then some d else some c

/-- A core at another clock step. -/
def State.setClock (s : State) (core step : Nat) : State := s.modCore core fun c => { c with clock := step }

/-- Steps cores down until the die is within its budget or none is left. -/
def throttle (die : Nat) : Nat → State → State
  | 0, s => s
  | n + 1, s =>
    if s.within die then s
    else match leastRank s ((dieCores die).filter fun c => (s.coreClass c).isSome && decide ((s.core c).clock < 3)) with
      | none => s
      | some c => throttle die n (s.setClock c ((s.core c).clock + 1))

/-- Steps one core up, if the die stays within its budget. -/
def release (die : Nat) (s : State) : State :=
  if !s.within die then s
  else match greatestRank s ((dieCores die).filter fun c => decide (0 < (s.core c).clock)) with
    | none => s
    | some c =>
      let s' := s.setClock c ((s.core c).clock - 1)
      if s'.within die then s' else s

/-- The thermal state that a window leaves a die in, and its count of windows over budget. -/
def windowState (s : State) (die temperature energy : Nat) : Nat × Nat :=
  let x := s.die die
  let t := thermalNext s x.thermal temperature
  let high := if overBudget s die energy then x.overWindows + 1 else 0
  if 2 ≤ high then (min 3 (t + 1), 0) else (t, high)

/-- Whether a window boundary of a die has not been processed. -/
def windowDue (s : State) (die : Nat) : Bool := s.ready && decide (die < Config.dies) && decide ((s.die die).window < s.ccnt / 3000000)

/-- WINDOW_BOUNDARY (spec/21 R459): `temperature` is in 0.25 degrees, `energy` in microjoules. -/
def execWindowBoundary (die temperature energy : Nat) (s : State) : Host.Outcome State Fault Refusal :=
  if !windowDue s die then .next s
  else
    let t := windowState s die temperature energy
    let enters := t.1 == 3 && (s.die die).thermal != 3
    let s := s.modDie die fun x => { x with thermal := t.1, overWindows := t.2, temperature := temperature, energy := energy, window := x.window + 1 }
    let s := if enters then s.rasAdd 0 die 0 9 0 die else s
    if t.1 = 3 then .next ((dieCores die).foldl (fun s c => s.setClock c 3) s)
    else .next (release die (throttle die (3 * Config.coresPerDie + 1) s))

end Sys2Proof.Machine
end

