-- ==== Sys2Proof/Machine/Upkeep.lean ====
section
/-!
DEFINITION. Refresh windows, scrubbing, repair, far memory, the top-down counters, evictions, and the device registers of BAR0
(spec/10 R284, R285, R294; spec/18 R399, R410, R413; spec/21 R455, R460; spec/22 R462 to R472, R476).
-/
namespace Sys2Proof.Machine

open Sys2Proof

/-! ### Scrubbing (spec/10 R285; spec/22 R462 to R464) -/

/-- A scrub reads a line: a correctable error is corrected, an uncorrectable one poisons the line. -/
def State.scrub (s : State) (line : Nat) : State :=
  let pa := 64 * line
  if farGone s pa then s
  else if s.ras.upsets.contains (line, true) then
    ({ s with ras := { s.ras with upsets := s.ras.upsets.filter (· != (line, true)),
                                  poison := if s.ras.poison.contains line then s.ras.poison else line :: s.ras.poison } }).memoryUe
      pa (classOf (homeOf s pa)) 3
  else s.correct line

/-- Line `n` of a bank of a die's weight store (spec/10 R282). -/
def bankLine (die bank n : Nat) : Nat := (2 ^ 42 + die * 2 ^ 31 + n / 64 * 2 ^ 18 + bank * 4096) / 64 + n % 64

/-- The bank that is in its refresh window. -/
def refreshBank (s : State) : Option Nat := if s.ccnt % 16384 < 512 then some (s.ccnt % 2 ^ 20 / 16384) else none

/-- REFRESH_WINDOW_OPEN (spec/10 R285; spec/22 R464): a bank enters its window and scrubs 32 lines; a pass takes 2^14 windows of the bank. -/
def execRefreshWindowOpen (die : Nat) (s : State) : Host.Outcome State Fault Refusal :=
  match refreshBank s with
  | some b =>
    if s.ready && die < Config.dies && (s.die die).refreshing != some b then
      let k := s.ccnt / 2 ^ 20 % 2 ^ 14
      .next ((List.range 32).foldl (fun s i => s.scrub (bankLine die b (32 * k + i))) (s.modDie die fun x => { x with refreshing := some b }))
    else .next s
  | none => .next s

/-- REFRESH_WINDOW_END (spec/10 R285): the units' writes that waited for it are performed. -/
def execRefreshWindowEnd (die : Nat) (s : State) : Host.Outcome State Fault Refusal :=
  if die < Config.dies && (s.die die).refreshing.isSome && (s.die die).refreshing != refreshBank s then
    .next ((State.flushLate s.late.length s).modDie die fun x => { x with refreshing := none })
  else .next s

/-- The moment of a pass at which the patrol reads a line: near memory, then far memory, 7 ccnt a line, so that each line is read once in 2^38 ccnt (log
entry 68). -/
def patrolPhase (line : Nat) : Nat := 7 * (if line < 2 ^ 34 then line else 2 ^ 32 + (line - 2 ^ 34))

/-- The line that the patrol reads now, if an error stands in it: a scrub changes no other (spec/22 R464). -/
def patrolLine (s : State) : Option Nat :=
  (s.ras.upsets.find? fun x =>
    s.ccnt % 2 ^ 38 == patrolPhase x.1 && !farGone s (64 * x.1) && match homeOf s (64 * x.1) with | .near _ => true | .far => true | _ => false).map (·.1)

/-- PATROL_SCRUB (spec/22 R464). -/
def execPatrolScrub (line : Nat) (s : State) : Host.Outcome State Fault Refusal :=
  match homeOf s (64 * line) with
  | .near _ => .next (s.scrub line)
  | .far => .next (s.scrub line)
  | _ => .next s

/-! ### Repair (spec/22 R467, R468) -/

/-- DETAIL of a repair that found no spare. -/
def noSpare : Nat := 2 ^ 64 - 1

/-- Whether two lines lie in one row. -/
def sameRow (a b : Nat) : Bool := a == b || Config.rowOf a == Config.rowOf b

/-- Whether the row of a line is due for repair: an uncorrectable error in it, or 8 correctable ones within the present pass of the patrol. -/
def rowDue (s : State) (line : Nat) : Bool :=
  s.ras.rowUes.any (sameRow line) || (s.ras.rowPass == s.ccnt / 2 ^ 38 && decide (8 ≤ (s.ras.rowCes.filter (sameRow line)).length))

/-- A row's repair is answered: what made it due is forgotten. -/
def State.rowDone (s : State) (line : Nat) : State :=
  { s with ras := { s.ras with rowUes := s.ras.rowUes.filter (!sameRow line ·), rowCes := s.ras.rowCes.filter (!sameRow line ·) } }

/-- DRAM_ROW_REPAIR: a row that is due is copied to a spare row with its data corrected; a poisoned line stays poisoned. Where the bank of a weight store has no
spare row, the bank comes due. -/
def execDramRowRepair (line : Nat) (spare : Option Nat) (s : State) : Host.Outcome State Fault Refusal :=
  let pa := 64 * line
  let go (cls : Nat) : State :=
    let die := errDie s pa
    match spare with
    | none =>
      let s := (s.rowDone line).rasAdd pa (unitOf s pa) noSpare 5 cls die
      if cls = 4 then s.modDie die fun x => { x with worn := (unitOf s pa :: x.worn).eraseDups } else s
    | some r =>
      if (s.die die).rows.contains r then s
      else
        let s := ((s.ras.upsets.map (·.1)).filter (sameRow line)).foldl State.scrub s
        ((s.rowDone line).modDie die fun x => { x with rows := r :: x.rows }).rasAdd pa (unitOf s pa) r 5 cls die
  if !rowDue s line then .next s
  else match homeOf s pa with
    | .near _ => .next (go 5)
    | .far => .next (go 6)
    | .weights _ => .next (go 4)
    | _ => .next s

/-- 4 KiB units of a bank of a weight store (spec/10 R282). -/
def bankUnits : Nat := 8192

/-- WEIGHT_STORE_BANK_REPAIR: of a bank in which a row repair found no spare row, one unit moves to one of the die's two spare banks; after the last the spare
takes the bank's number. A unit moves in one step, so a write comes before or after it. -/
def execWeightStoreBankRepair (die bank : Nat) (s : State) : Host.Outcome State Fault Refusal :=
  let x := s.die die
  if Config.dies ≤ die || !x.worn.contains bank then .next s
  else
    let n := x.banks.length
    let moved := x.bankMoved.getD bank 0 + 1
    let done (x : Die) : Die := { x with worn := x.worn.filter (· != bank), bankMoved := x.bankMoved.erase bank }
    if 2 ≤ n then .next ((s.modDie die done).rasAdd 0 bank noSpare 6 4 die)
    else if moved < bankUnits then .next (s.modDie die fun x => { x with bankMoved := x.bankMoved.set bank moved })
    else .next ((s.modDie die fun x => { done x with banks := bank :: x.banks }).rasAdd 0 bank n 6 4 die)

/-- Runner ports and the lanes of each. -/
def runnerPorts : Nat := 18

/-- RUNNER_LANE_SPARE: the spare takes the place of a failing lane; a second failure finds none and halves the port. -/
def execRunnerLaneSpare (port lane : Nat) (s : State) : Host.Outcome State Fault Refusal :=
  if runnerPorts ≤ port || 9 ≤ lane then .next s
  else
    let n := s.host.lanes.getD port 0
    let s := { s with host := { s.host with lanes := s.host.lanes.set port (min 2 (n + 1)) } }
    let s := if n = 0 then s.modDie (port % 4) fun x => { x with ue := bump x.ue 7 } else s
    .next (s.rasAdd 0 port (if n = 0 then lane else noSpare) 7 7 (port % 4))

/-- FLIT_REPLAY (spec/18 R414; spec/22 R465): the class-7 count of replayed flits rises. -/
def execFlitReplay (port : Nat) (s : State) : Host.Outcome State Fault Refusal :=
  if runnerPorts ≤ port then .next s else .next (s.countCe (port % 4) 7 0 port)

/-- Whether a GO of CORESPARE is applied (spec/22 R468). -/
def spareOk (s : State) (die logical phys : Nat) : Bool :=
  let x := s.die die
  decide (logical < Config.coresPerDie) && decide (phys < 76) && !x.failed.contains phys &&
  !(s.parts.any fun kv => kv.2.state == .active && kv.2.set.testBit (4 * die + logical / 18)) &&
  (List.range Config.coresPerDie).all fun l => l == logical || x.phys l != phys

/-- CORESPARE_GO (spec/22 R468). -/
def execCorespareGo (port die : Nat) (value : Word64) (s : State) : Host.Outcome State Fault Refusal :=
  if !s.ready || port != s.host.owner || Config.dies ≤ die || !value.getLsbD 63 then .next s
  else
    let logical := vbits value 48 7
    let phys := vbits value 32 7
    let s := s.modDie die fun x => { x with spareLogical := logical, sparePhys := phys }
    if spareOk s die logical phys then
      .next ((s.modDie die fun x => { x with spareErr := false, spares := x.spares.set logical phys }).rasAdd 0 phys logical 4 0 die)
    else .next (s.modDie die fun x => { x with spareErr := true })

/-! ### Far memory (spec/22 R469) -/

/-- Pairs of channels. -/
def farPairs : Nat := 24

/-- 4 KiB units of a pair's share: the units of 2 TiB go round the 48 channels. -/
def pairUnits (pair : Nat) : Nat := 2 * (2 ^ 29 / 48) + (if 2 * pair < 2 ^ 29 % 48 then 1 else 0) + (if 2 * pair + 1 < 2 ^ 29 % 48 then 1 else 0)

/-- STATE of a pair. -/
def State.far (s : State) (pair : Nat) : Nat := s.ras.farState.getD pair 0

/-- A pair's state changes, with its record. -/
def State.setFar (s : State) (pair state moved : Nat) : State :=
  ({ s with ras := { s.ras with farState := s.ras.farState.set pair state, farMoved := s.ras.farMoved.set pair moved } }).rasAdd 0 (2 * pair) state 8 6 (pair / 6)

/-- Whether no other pair is being moved or is out. -/
def farAlone (s : State) (pair : Nat) : Bool := (List.range farPairs).all fun p => p == pair || s.far p == 0

/-- FMCTL.CMD drain. -/
def execFmctlDrain (port pair : Nat) (s : State) : Host.Outcome State Fault Refusal :=
  if s.ready && port == s.host.owner && decide (pair < farPairs) && s.far pair == 0 && farAlone s pair then .next (s.setFar pair 1 0) else .next s

/-- FMCTL.CMD restore. -/
def execFmctlRestore (port pair : Nat) (s : State) : Host.Outcome State Fault Refusal :=
  if s.ready && port == s.host.owner && decide (pair < farPairs) && s.far pair == 2 && !s.ras.farAbsent.getD pair false && farAlone s pair then
    .next (s.setFar pair 3 0)
  else .next s

/-- FAR_MEMORY_UNIT_MOVE: one unit moves; the last move ends the operation. Addresses and values stay as they were. -/
def execFarMemoryUnitMove (pair : Nat) (s : State) : Host.Outcome State Fault Refusal :=
  let n := s.ras.farMoved.getD pair 0 + 1
  if s.far pair = 1 ∨ s.far pair = 3 then
    if pairUnits pair ≤ n then .next (s.setFar pair (if s.far pair = 1 then 2 else 0) n)
    else .next { s with ras := { s.ras with farMoved := s.ras.farMoved.set pair n } }
  else .next s

/-- FAR_MEMORY_MODULE_REMOVED: outside DRAINED, every later access to its channels meets an uncorrectable error. -/
def execFarMemoryModuleRemoved (pair : Nat) (s : State) : Host.Outcome State Fault Refusal :=
  if farPairs ≤ pair then .next s
  else
    .next { s with ras := { s.ras with farAbsent := s.ras.farAbsent.set pair true,
                                       farLost := if s.far pair = 2 then s.ras.farLost else s.ras.farLost.set pair true } }

/-- FAR_MEMORY_MODULE_SEATED. -/
def execFarMemoryModuleSeated (pair : Nat) (s : State) : Host.Outcome State Fault Refusal :=
  if farPairs ≤ pair then .next s else .next { s with ras := { s.ras with farAbsent := s.ras.farAbsent.set pair false } }

/-! ### Top-down counters (spec/22 R470 to R472) -/

/-- CYCLES of the counting interval. -/
def State.tdNow (s : State) : Nat := s.ccnt - s.ras.tdStart

/-- A running counter of a lane group: IDLE is what the other leaves leave of 11 units a tick. -/
def leafNow (s : State) (group leaf : Nat) : Nat :=
  let t := (s.group group).leaves
  if leaf = 13 then 11 * s.tdNow - ((List.range 16).map fun j => if j = 13 then 0 else t.getD j 0).sum else t.getD leaf 0

/-- TDCTL.SNAP. -/
def execTdctlSnap (port : Nat) (s : State) : Host.Outcome State Fault Refusal :=
  if s.ready && port == s.host.owner then
    .next { s with ras := { s.ras with snap := true, tdCycles := s.tdNow,
                                       snapshot := (List.range Config.groups).map fun g => (g, (List.range 16).map fun j => (j, leafNow s g j)) } }
  else .next s

/-- TDCTL.LIVE: it reads as 1 from then on (spec/00 R9; log entry 64). -/
def execTdctlLive (port : Nat) (s : State) : Host.Outcome State Fault Refusal :=
  if s.ready && port == s.host.owner then .next { s with ras := { s.ras with snap := false, live := true } } else .next s

/-- TDCTL.CLEAR. -/
def execTdctlClear (port : Nat) (s : State) : Host.Outcome State Fault Refusal :=
  if s.ready && port == s.host.owner then
    .next { s with groups := s.groups.mapVals fun _ x => { x with leaves := [] }, ras := { s.ras with tdStart := s.ccnt } }
  else .next s

/-! ### Evictions and log room (spec/10 R294; spec/22 R476) -/

/-- EVICTION. -/
def execEviction (what : Evicted) (s : State) : Host.Outcome State Fault Refusal :=
  match what with
  | .tile core i => .next (s.modCore core fun c => { c with tiles := c.tiles.eraseIdx i })
  | .l1 core line => .next (s.modCore core fun c => c.dropLine line)
  | .l2 line => .next { s with ras := { s.ras with lastParty := s.ras.lastParty.modify line fun y => y / 2 ^ 32 * 2 ^ 32 + 0xFFFFFFFF } }

/-- Whether a buffer has the room for which something waits: for as many records as it holds, where more are wanted (log entry 68). -/
def roomFound (s : State) (partition kind : Nat) : Bool :=
  match (s.part partition).logs.get? kind with
  | some b => b.wanted != 0 && roomFor s partition kind b.wanted
  | none => false

/-- LOG_BUFFER_ROOM: the device rereads RP, and what waits at a slice for room goes on. -/
def execLogBufferRoom (partition kind : Nat) (s : State) : Host.Outcome State Fault Refusal :=
  if roomFound s partition kind then .next (s.modPart partition fun p => { p with logs := p.logs.modify kind fun b => { b with wanted := 0 } }) else .next s

/-! ### Device registers (spec/00 R9; spec/18 R399, R413; spec/22 R466, R468) -/

/-- DLOG as it is held: values that name no depth read as 4. -/
def dlogOf (v : Nat) : Nat := if 4 ≤ v ∧ v ≤ 12 then v else 4

/-- A queue after a write to QCTL: PART and DLOG are held while EN is 1. -/
def qctlWrite (x : HostQueue) (v : Nat) : HostQueue :=
  let y := if x.en then x else { x with part := bits v 4 4, dlog := dlogOf (v % 16) }
  { y with en := bit v 63, err := x.err && !bit v 62 }

/-- The fields of a route entry. -/
def routeMask : Nat := 2 ^ 63 + 2 ^ 62 + (2 ^ 18 - 1) * 2 ^ 40 + (2 ^ 16 - 1)

/-- A route entry is written: accesses issued before that have yet to be translated keep the old one (spec/18 R413). -/
def State.setRoute (s : State) (n : Nat) (v : Word64) : State :=
  let waits := s.accs.filter fun a => !a.scratch && !a.ready
  let old := (s.host.oldRoutes ++ [(s.serial, n, s.host.routes.getD n 0)]).filter fun x => waits.any fun a => decide (a.id < x.1)
  { s with host := { s.host with routes := s.host.routes.set n v, oldRoutes := old } }

/-- A write to a register that has no event of its own; other offsets take none. -/
def State.regWrite (s : State) (offset v : Nat) : State :=
  if offset = 0x28 then { s with host := { s.host with winbase := bits v 34 14 } }
  else if offset = 0x38 then { s with host := { s.host with wsdrop := s.host.wsdrop &&& (15 ^^^ v % 16) } }
  else if 0x1000 ≤ offset ∧ offset < 0x2000 then
    let q := (offset - 0x1000) / 64
    match offset % 64 with
    | 0 => s.modQueue q fun x => if x.en then x else { x with base := bits v 8 36 }
    | 8 => s.modQueue q fun x => qctlWrite x v
    | _ => s
  else if 0x3000 ≤ offset ∧ offset < 0x3400 ∧ offset % 8 = 0 then s.setRoute ((offset - 0x3000) / 8) (BitVec.ofNat 64 (v &&& routeMask))
  else if offset = 0x4100 then { s with ras := { s.ras with ceShift := v % 32 } }
  else if 0x4200 ≤ offset ∧ offset < 0x4220 ∧ offset % 8 = 0 ∧ !bit v 63 then
    s.modDie ((offset - 0x4200) / 8) fun x => { x with spareErr := x.spareErr && !bit v 62, spareLogical := bits v 48 7, sparePhys := bits v 32 7 }
  else s

/-- REGISTER_WRITE: a write from a port without the lease is dropped. -/
def execRegisterWrite (port offset : Nat) (value : Word64) (s : State) : Host.Outcome State Fault Refusal :=
  if s.ready && port == s.host.owner then .next (s.regWrite offset value.toNat) else .next s

/-- Registers of a queue. -/
def queueReg (x : HostQueue) (o : Nat) : Nat :=
  match o with
  | 0 => x.base * 2 ^ 8
  | 8 => b2n x.en * 2 ^ 63 + b2n x.err * 2 ^ 62 + x.part * 2 ^ 4 + x.dlog
  | 24 => x.completed * 2 ^ 32 + x.consumed
  | 32 => x.errcode * 2 ^ 32 + x.head
  | _ => 0

/-- POWSTAT of a die (spec/21 R460). -/
def powstat (s : State) (die word : Nat) : Nat :=
  let x := s.die die
  if word = 0 then
    x.thermal * 2 ^ 62 + ((dieCores die).filter fun c => decide (0 < (s.core c).clock)).length * 2 ^ 55 + s.budEff die / 20 % 2 ^ 16 * 2 ^ 32 +
    s.dieCharge die / 4 % 2 ^ 16 * 2 ^ 16 + x.temperature % 2 ^ 16
  else x.energy % 2 ^ 64

/-- CORESPARE of a die. -/
def corespare (s : State) (die : Nat) : Nat :=
  let x := s.die die
  b2n x.spareErr * 2 ^ 62 + x.spareLogical * 2 ^ 48 + x.sparePhys * 2 ^ 32 +
  ((List.range 4).map fun i => if (List.range Config.coresPerDie).any fun l => x.phys l == 72 + i then 0 else 2 ^ i).sum

/-- FMCTL of a pair. -/
def fmctl (s : State) (pair : Nat) : Nat :=
  s.far pair * 2 ^ 62 + b2n (!s.ras.farAbsent.getD pair false) * 2 ^ 61 + s.ras.farMoved.getD pair 0 % 2 ^ 30 * 2 ^ 2

/-- A counter as TDCTL lets it be read. -/
def leafReg (s : State) (group j : Nat) : Nat :=
  if j = 16 then (if s.ras.snap then s.ras.tdCycles else s.tdNow)
  else if 16 < j then 0
  else if s.ras.snap then (s.ras.snapshot.getD group []).getD j 0
  else leafNow s group j

/-- A 64-bit word of BAR0 as a port reads it; offsets that hold no register read as 0, and before the module is ready only BOOTSTAT is served. -/
def regRead (s : State) (port offset : Nat) : Nat :=
  if offset = 0x30 then s.boot.version % 2 ^ 32 * 2 ^ 32 + s.boot.code % 256
  else if !s.ready then 0
  else if offset = 0 then 0x00010A10 * 2 ^ 32 + port % 2
  else if offset = 8 then s.host.owner * 2 ^ 63 + b2n s.live * 2 ^ 62 + s.host.expiry % 2 ^ 62
  else if offset = 0x18 then s.ccnt % 2 ^ 64
  else if offset = 0x20 then s.host.cseqLast
  else if offset = 0x28 then s.host.winbase * 2 ^ 34
  else if offset = 0x38 then s.host.wsdrop
  else if 0x1000 ≤ offset ∧ offset < 0x2000 then queueReg (s.queue ((offset - 0x1000) / 64)) (offset % 64)
  else if 0x2000 ≤ offset ∧ offset < 0x3000 then bits (s.host.mirror.getD ((offset - 0x2000) / 16) 0).toNat (offset % 16 * 8) 64
  else if 0x3000 ≤ offset ∧ offset < 0x3400 then (s.host.routes.getD ((offset - 0x3000) / 8) 0).toNat
  else if 0x3400 ≤ offset ∧ offset < 0x3440 then powstat s ((offset - 0x3400) / 16) (offset % 16 / 8)
  else if 0x4000 ≤ offset ∧ offset < 0x4100 then
    let x := s.die ((offset - 0x4000) / 64)
    let c := offset % 64 / 8
    x.ue.getD c 0 * 2 ^ 32 + x.ce.getD c 0
  else if offset = 0x4100 then s.ras.ceShift
  else if offset = 0x4108 then s.ras.last % 2 ^ 64
  else if 0x4200 ≤ offset ∧ offset < 0x4220 then corespare s ((offset - 0x4200) / 8)
  else if 0x4300 ≤ offset ∧ offset < 0x43C0 then fmctl s ((offset - 0x4300) / 8)
  else if 0x5000 ≤ offset ∧ offset < 0x7000 then bits (s.ras.ring.getD ((offset - 0x5000) / 32) 0).toNat (offset % 32 * 8) 64
  else if offset = 0x0FFF00 then b2n s.ras.snap * 2 ^ 63 + b2n s.ras.live * 2 ^ 62
  else if 0x100000 ≤ offset ∧ offset < 0x100000 + 256 * Config.groups then leafReg s ((offset - 0x100000) / 256) (offset % 256 / 8)
  else 0

end Sys2Proof.Machine
end

