-- ==== Sys2Proof/Machine/Partition.lean ====
section
/-!
DEFINITION. Partitions: create, destroy, save and resume; the discard; the retries of the replay buffer; yield points, service runs and DEADLINE; the wake
of a gated core (spec/19 R416 to R421, R427 to R440; spec/20 R449).
-/
namespace Sys2Proof.Machine

open Sys2Proof

/-! ### Descriptors (spec/19 R416) -/

/-- The descriptor of a partition in memory. -/
def descOf (s : State) (p : Nat) : BitVec 512 := BitVec.ofNat 512 (memNat s (s.boot.descBase + 64 * p) 64)

/-- Whether a descriptor is malformed. -/
def descBad (s : State) (d : BitVec 512) : Bool :=
  let p : Partition := { State.part0 with desc := d }
  ([(332, 180), (164, 28), (234, 6), (112, 16), (69, 7), (48, 16), (0, 21)] : List (Nat × Nat)).any (fun x => vbits d x.1 x.2 != 0) ||
  decide (p.flog < 6) || decide (16 < p.flog) || p.lockLen % 8 != 0 || decide (p.lockLen < 256) || decide (16384 < p.lockLen) ||
  p.fev == p.rev || p.fev == p.tev || p.rev == p.tev ||
  (List.range Config.dies).any fun die => decide (pantryBytes s die < (p.share die).1 + (p.share die).2)

/-- Whether the Pantry share of a descriptor overlaps that of another partition that is ACTIVE or SAVED. -/
def shareTaken (s : State) (p : Nat) (d : BitVec 512) : Bool :=
  let x : Partition := { State.part0 with desc := d }
  s.parts.any fun kv => kv.1 != p && kv.2.state != .none && (List.range Config.dies).any fun die =>
    let a := x.share die
    let b := kv.2.share die
    decide (0 < a.2) && decide (0 < b.2) && decide (a.1 < b.1 + b.2) && decide (b.1 < a.1 + a.2)

/-- Whether no other ACTIVE partition holds a quarter of a set, or is to resume on it. -/
def setFree (s : State) (p set : Nat) : Bool :=
  !(s.parts.any fun kv => kv.1 != p && kv.2.state == .active && ((kv.2.set ||| kv.2.target.getD 0) &&& set) != 0)

/-- The locked image of a descriptor: bytes beyond LOCKLEN read as 0 (spec/19 R418). -/
def lockedImage (s : State) (d : BitVec 512) : BitVec 131072 :=
  let p : Partition := { State.part0 with desc := d }
  BitVec.ofNat 131072 (memNat s p.lockImage p.lockLen)

/-- The quarters of a set, rising. -/
def quarters (set : Nat) : List Nat := (List.range 16).filter (set.testBit ·)

/-! ### Create and destroy (spec/19 R430) -/

/-- The PARTITION command that a queue performs, when its op is the one given. -/
def State.partOp (s : State) (q op : Nat) : Option (BitVec 2048) :=
  match s.performing q 8 with
  | some e => if opWord e 3 = op then some e else none
  | none => none

/-- A core for a partition: its locked store is loaded and its activation tables are zero (spec/06 R180; spec/19 R418). -/
def Core.forPartition (c : Core) (locked : BitVec 131072) : Core := { c with locked := locked, bank0 := 0, bank1 := 0 }

/-- PARTITION_CREATE. -/
def execPartitionCreate (q : Nat) (s : State) : Host.Outcome State Fault Refusal :=
  match s.partOp q 0 with
  | none => .next s
  | some e =>
    let p := opWord e 2
    let set := opWord e 4
    let d := descOf s p
    if (s.part p).state != .none || !setFree s p set then .next (s.completeCommand q 6 2)
    else if descBad s d then .next (s.completeCommand q 6 1)
    else if shareTaken s p d then .next (s.completeCommand q 6 2)
    else
      let locked := lockedImage s d
      let x : Partition := { State.part0 with state := .active, set := set, desc := d, detmode := bit (opWord e 5) 0, cgate := bit (opWord e 5) 1 }
      let s : State := { s with parts := Tbl.set s.parts p x }
      let s := (setCores set).foldl (fun s c => s.modCore c (·.forPartition locked)) s
      .next (s.completeCommand q 0 0)

/-- Whether a launch of a partition is placed, or queued for it. -/
def partBusy (s : State) (p : Nat) : Bool :=
  (s.sched.launches.any fun kv => kv.2.partition == p) || s.sched.queues.any fun kv => kv.2.any fun x => x.partition == p

/-- Ends launches of a partition that have placed blocks and are not over; a queue whose head is one of them goes on. -/
def State.endLaunches (s : State) (p : Nat) (f : Nat → LaunchEnd) : State :=
  let l := s.sched.launches.filter fun kv => kv.2.partition == p && decide (0 < kv.2.nextBid) && !launchOver s kv.1 kv.2
  l.foldl (fun s kv =>
    let s := s.modLaunch kv.1 fun x => { x with ended := some (f kv.1) }
    match s.heads.find? fun h => h.2.launch == some kv.1 with
    | some h => s.popRecord h.1
    | none => s) s

/-- Ends launches of a partition that have nothing left to do: they complete as they would have (spec/09 R269). -/
def State.endOver (s : State) (p : Nat) : State :=
  { s with sched := { s.sched with launches := s.sched.launches.mapVals fun n l =>
      if l.partition = p ∧ l.ended.isNone = true ∧ launchOver s n l = true then { l with ended := some { status := 0, detail := 0, trap := 0 } } else l } }

/-- Completes every launch of a partition that has ended. -/
def State.completeEnded (s : State) (p : Nat) : State :=
  ((s.sched.launches.filter fun kv => kv.2.partition == p && kv.2.ended.isSome).map (·.1)).foldl State.completeLaunch s

/-- A partition ceases to exist: its translations and its device-side queue go, and records admitted for it are admitted anew, when they are refused. -/
def State.removePart (s : State) (p : Nat) : State :=
  let s := (s.forget p).modPart p fun _ => State.part0
  { s with sched := { s.sched with
      queues := (s.sched.queues.erase (64 + p)).mapVals fun _ l => l.map fun x => if x.partition = p then { x with launch := none, blocked := none } else x,
      launches := s.sched.launches.filter fun kv => !(kv.2.partition == p && kv.2.ended.isNone) } }

/-- PARTITION_DESTROY. -/
def execPartitionDestroy (q : Nat) (s : State) : Host.Outcome State Fault Refusal :=
  match s.partOp q 1 with
  | none => .next s
  | some e =>
    let p := opWord e 2
    match (s.part p).state with
    | .none => .next (s.completeCommand q 6 2)
    | .active => if partBusy s p || (s.part p).halting then .next (s.completeCommand q 6 2) else .next ((s.removePart p).completeCommand q 0 0)
    | .saved =>
      let s := ((s.endLaunches p fun _ => { status := 5, detail := 0, trap := 0 }).endOver p).completeEnded p
      .next ((s.removePart p).completeCommand q 0 0)

/-! ### Saving (spec/19 R430 to R434) -/

/-- Quarters of a die in a set. -/
def dieQuarters (set die : Nat) : Nat := ((quarters set).filter fun x => x / 4 == die).length

/-- Whether shadow storage has room for a set on every die: 8 saved quarter-dies each, those of partitions that halt for a save among them. -/
def shadowRoom (s : State) (set : Nat) : Bool :=
  (List.range Config.dies).all fun d =>
    decide (((s.parts.map fun kv => if kv.2.state = .saved ∨ kv.2.halting = true then dieQuarters kv.2.set d else 0).sum) + dieQuarters set d ≤ 8)

/-- The quarter that a quarter of a saved set goes to on a new set. -/
def quarterTo (old new q : Nat) : Nat := ((quarters new)[(quarters old).idxOf q]?).getD q

/-- Whether every core cluster inside the saved set maps onto a core cluster (spec/19 R436). Core clusters are cores 4c to 4c + 3, so a quarter, of 18 cores,
keeps its parity; and two quarters that share a core cluster stay such a pair. -/
def mapsClusters (old new : Nat) : Bool :=
  ((quarters old).all fun q => quarterTo old new q % 2 == q % 2) &&
  (List.range 8).all fun h => !(old.testBit (2 * h) && old.testBit (2 * h + 1)) || quarterTo old new (2 * h + 1) == quarterTo old new (2 * h) + 1

/-- Whether a saved set may resume on a new one, but for what holds the new set. -/
def setFits (old new : Nat) : Bool := (quarters old).length == (quarters new).length && mapsClusters old new

/-- A pre-emption request reaches every lane group of a partition, and wakes gated cores (spec/19 R432, R439). -/
def State.preempt (s : State) (p : Nat) : State :=
  let x := s.part p
  (setCores x.set).foldl (fun s c =>
    let s := s.rouse c 9
    [2 * c, 2 * c + 1].foldl (fun s g => s.modGroup g fun y => { y with deadline := match y.deadline with | some d => some d | none => some x.reload }) s) s

/-- A save begins: the partition halts. -/
def State.startHalt (s : State) (p q : Nat) (target : Option Nat) : State :=
  (s.modPart p fun x => { x with halting := true, byQueue := q, target := target }).preempt p

/-- PARTITION_SAVE: the partition halts; the command completes once it is saved. -/
def execPartitionSave (q : Nat) (s : State) : Host.Outcome State Fault Refusal :=
  match s.partOp q 2 with
  | none => .next s
  | some e =>
    let p := opWord e 2
    let x := s.part p
    if x.halting && x.byQueue == q then .next s
    else if x.state != .active || x.halting || !shadowRoom s x.set then .next (s.completeCommand q 6 2)
    else .next (s.startHalt p q none)

/-- PARTITION_SAVE_RESUME. -/
def execPartitionSaveResume (q : Nat) (s : State) : Host.Outcome State Fault Refusal :=
  match s.partOp q 4 with
  | none => .next s
  | some e =>
    let p := opWord e 2
    let new := opWord e 4
    let x := s.part p
    if x.halting && x.byQueue == q then .next s
    else if x.state != .active || x.halting || !shadowRoom s x.set || (x.set &&& new) != 0 || !setFree s p new || !setFits x.set new then
      .next (s.completeCommand q 6 2)
    else if descBad s (descOf s p) then .next (s.completeCommand q 6 1)
    else if shareTaken s p (descOf s p) then .next (s.completeCommand q 6 2)
    else .next (s.startHalt p q (some new))

/-! ### Yield points (spec/19 R438, R439) -/

/-- The running context of a lane group. -/
def State.runningOf (s : State) (g : Nat) : Option (Nat × Vliw) :=
  match (s.group g).running with
  | none => none
  | some sl => (s.warp (warpKey g sl)).vliw.map fun x => (sl, x)

/-- Whether a lane group stands at a yield point: no context runs, or the running one has issued a YIELD bundle with its STALL slots, or is forced there. -/
def atYield (s : State) (g : Nat) : Bool :=
  match s.runningOf g with
  | none => true
  | some (_, x) => x.stall == 0 && x.run == 0 && (x.yielded || (s.group g).forced)

/-- The FYIELD of a yield that meets results in flight (spec/19 R438, R439). -/
def fyield (w : Warp) (forced : Bool) : Trap :=
  if forced then
    { cause := causeFYIELD, info := 1 + (match w.inflight with | f :: _ => f.spec.toNat | [] => 0) * 2 ^ 4 + w.inflight.length % 32 * 2 ^ 16 }
  else { cause := causeFYIELD }

/-- A yield is taken: the running context traps when it has results in flight, once those due have landed. -/
def State.takeYield (s : State) (g : Nat) : State :=
  match s.runningOf g with
  | none => s
  | some (sl, x) =>
    let s := s.landNow g (warpKey g sl)
    let w := s.warp (warpKey g sl)
    if w.inflight.isEmpty then s
    else s.raise (.thread g sl) x.pc x.locked (fyield w (s.group g).forced)

/-- The running context leaves the primary stream at a yield point. -/
def State.stopRunning (s : State) (g : Nat) : State := (s.takeYield g).modGroup g fun x => { x with running := none, forced := false }

/-! ### The halt (spec/19 R432) -/

/-- The lane groups of a partition. -/
def partGroups (x : Partition) : List Nat := (setCores x.set).flatMap fun c => [2 * c, 2 * c + 1]

/-- Whether a warp stands as a save needs it: no delay or fixed-latency result of a SIMT warp is left, nor a conflict cycle of a context. -/
def Warp.settled (w : Warp) (acyc : Nat) : Bool :=
  match w.vliw with
  | some x => x.hold == 0
  | none => w.inflight.isEmpty && w.paths.all fun kv => decide (kv.2.ready ≤ acyc)

/-- Whether everything of a halting partition has stopped and every access that can be performed has been. -/
def halted (s : State) (p : Nat) : Bool :=
  let x := s.part p
  (partGroups x).all (fun g => (s.group g).service.isNone && (s.group g).running.isNone && (s.warpsOf g).all fun kv => kv.2.settled (s.acyc (g / 2))) &&
  (setCores x.set).all (fun c =>
    let y := s.core c
    !(y.copies.any fun k => k.moving && !k.held) && ([0, 1, 2].all fun i => (y.engine.run i).isNone) && !(y.sft.any (sftReady s c)) &&
    !(y.gated && !y.woken.isEmpty)) &&
  !(s.accs.any fun a => a.partition == p && (a.sent.isSome || a.performable s || a.refreshing s))

/-- A core left free by a save. -/
def Core.freed (c : Core) : Core :=
  { State.core0 with lost := c.lost, lostGated := c.lostGated, clock := c.clock, wakeStamp := c.wakeStamp, wakeCause := c.wakeCause, wakeAt := c.wakeAt,
                     dbg := c.dbg }

/-- A lane group left free by a save. -/
def Group.freed (x : Group) : Group :=
  { x with mode := .empty, running := none, requests := [], service := none, predicate := none, deadline := none, forced := false, hits := [] }

/-- The cores, warps, blocks and accesses of a partition. -/
def takeShadow (s : State) (p : Nat) : Shadow :=
  let set := (s.part p).set
  let mine (c : Nat) : Bool := set.testBit (c / 18)
  { warps := s.warps.filter fun kv => kv.1 < Config.groups * Config.warpSlots && mine (kv.1 / Config.warpSlots / 2)
    cores := s.cores.filter fun kv => mine kv.1
    groups := s.groups.filter fun kv => mine (kv.1 / 2)
    accs := s.accs.filter fun a => a.partition == p
    blocks := s.sched.blocks.filter fun kv => mine kv.2.core }

/-- The machine without what a shadow holds. -/
def State.without (s : State) (p : Nat) : State :=
  let set := (s.part p).set
  let mine (c : Nat) : Bool := set.testBit (c / 18)
  { s with
      warps := s.warps.filter fun kv => !(kv.1 < Config.groups * Config.warpSlots && mine (kv.1 / Config.warpSlots / 2))
      cores := s.cores.mapVals fun c x => if mine c then x.freed else x
      groups := s.groups.mapVals fun g x => if mine (g / 2) then x.freed else x
      accs := s.accs.filter fun a => a.partition != p
      sched := { s.sched with blocks := s.sched.blocks.filter fun kv => !mine kv.2.core } }

/-- A partition's work is lost to an uncorrectable error in shadow storage, which is recorded (spec/19 R434; spec/22 R466; log entry 65): its launches with
placed blocks, an access of which may be all that is left, complete with STATUS 0x05. The counters of its launches still stand. -/
def State.loseWork (s : State) (p : Nat) : State :=
  (s.endLaunches p fun _ => { status := 5, detail := 0, trap := 0 }).rasAdd 0 0 0 2 0 ((quarters (s.part p).set).headD 0 / 4)

/-- The write of a halted partition to shadow storage. When it is lost, the partition stays ACTIVE with no work, and its cores keep their locked store
(spec/19 R418, R434). -/
def State.save (s : State) (p : Nat) (lost : Bool) : State :=
  let sh := takeShadow s p
  let s := ((if lost then s.loseWork p else s).without p).forget p
  if lost then
    let s := sh.cores.foldl (fun (s : State) kv => s.modCore kv.1 fun c => { c with locked := kv.2.locked }) s
    (s.modPart p fun x => { x with halting := false, target := none })
  else s.modPart p fun x => { x with state := .saved, halting := false, target := none, shadow := some sh, savedAt := s.ccnt }

/-! ### Resuming (spec/19 R433 to R436) -/

/-- Where the cores of a saved set go. -/
def coreTo (old new c : Nat) : Nat := 18 * quarterTo old new (c / 18) + c % 18
/-- Where its lane groups go. -/
def groupTo (old new g : Nat) : Nat := 2 * coreTo old new (g / 2) + g % 2
/-- Where its warp slots go. -/
def keyTo (old new k : Nat) : Nat := warpKey (groupTo old new (k / Config.warpSlots)) (k % Config.warpSlots)
/-- Where its parties go. -/
def partyTo (old new : Nat) : Party → Party
  | .path g sl i => .path (groupTo old new g) sl i
  | .thread g sl => .thread (groupTo old new g) sl
  | .service g => .service (groupTo old new g)
  | .seq c => .seq (coreTo old new c)
/-- The codes of its parties in ordering records. -/
def codeTo (old new c : Nat) : Nat := coreTo old new (c / 256) * 256 + c % 256

/-- A replay item on its new core. -/
def itemTo (old new : Nat) : ReplayItem → ReplayItem
  | .fetch p va code => .fetch (partyTo old new p) va code
  | x => x

/-- A saved core on its new core, whose caches hold nothing of it; clocks and debug registers are the new core's. -/
def Core.resumed (saved dest : Core) (old new : Nat) (locked : BitVec 131072) : Core :=
  { saved with
      locked := locked, l1 := [], tiles := [], icache := [], code := [], tlb := [], lost := dest.lost, lostGated := dest.lostGated, clock := dest.clock,
      wakeStamp := dest.wakeStamp, wakeCause := dest.wakeCause, gated := false, woken := [], wakeAt := 0, dbg := dest.dbg, copyStart := 0,
      copies := saved.copies.map fun c => { c with group := groupTo old new c.group, code := codeTo old new c.code },
      copyWait := saved.copyWait.map fun c => { c with group := groupTo old new c.group },
      sft := saved.sft.map fun x => { x with party := partyTo old new x.party },
      replay := saved.replay.map fun x => { x with item := itemTo old new x.item },
      replayWait := saved.replayWait.map fun x => { x with item := itemTo old new x.item } }

/-- A saved lane group on its new one, whose counters and records go on. -/
def Group.resumed (saved dest : Group) (old new reload : Nat) : Group :=
  { dest with
      mode := saved.mode, created := max saved.created dest.created, running := none, requests := saved.requests, service := none, predicate := none,
      deadline := if saved.requests.isEmpty then none else some reload, forced := false, bankUntil := 0,
      hits := saved.hits.map fun h => { h with party := partyTo old new h.party } }

/-- A saved warp: the delays of its paths have elapsed. -/
def Warp.resumed (w : Warp) : Warp :=
  { w with paths := w.paths.mapVals fun _ x => { x with ready := 0, tried := 0 }, vliw := w.vliw.map fun x => { x with tried := 0 } }

/-- Adds entries to a table. -/
def addAll {α : Type} (t l : Tbl α) : Tbl α := l.foldl (fun (t : Tbl α) kv => Tbl.set t kv.1 kv.2) t

/-- Time saved does not count towards aging (spec/09 R274). -/
def Pending.slept (x : Pending) (p since now : Nat) : Pending :=
  if x.partition = p then
    match x.metAt with
    | some m => { x with idle := x.idle + (now - max since (max x.arrived m)) }
    | none => x
  else x

/-- A saved partition goes back to work on a set, with a descriptor just read. -/
def State.resume (s : State) (p new : Nat) (lost : Bool) : State :=
  let x := s.part p
  let old := x.set
  let d := descOf s p
  let locked := lockedImage s d
  let s := if lost then s.loseWork p else s
  let s := s.modPart p fun y => { y with state := .active, set := new, desc := d, shadow := none }
  let s := { s with sched := { s.sched with queues := s.sched.queues.mapVals fun _ l => l.map fun (y : Pending) => y.slept p x.savedAt s.ccnt } }
  match x.shadow, lost with
  | some sh, false =>
    let cores := (setCores old).map fun c => (coreTo old new c, ((sh.cores.getD c State.core0).resumed (s.core (coreTo old new c)) old new locked))
    let reload := (s.part p).reload
    let groups := sh.groups.map fun (kv : Nat × Group) => (groupTo old new kv.1, kv.2.resumed (s.group (groupTo old new kv.1)) old new reload)
    let warps := sh.warps.map fun (kv : Nat × Warp) => (keyTo old new kv.1, kv.2.resumed)
    let accs := sh.accs.map fun (a : Access) =>
      ({ a with core := coreTo old new a.core, party := a.party.map (partyTo old new), code := codeTo old new a.code } : Access)
    let blocks := sh.blocks.mapVals fun _ (b : Block) => ({ b with core := coreTo old new b.core } : Block)
    let s : State := { s with warps := addAll s.warps warps, cores := addAll s.cores cores, groups := addAll s.groups groups, accs := s.accs ++ accs }
    { s with sched := { s.sched with blocks := addAll s.sched.blocks blocks } }
  | _, _ => (setCores new).foldl (fun s c => s.modCore c (·.forPartition locked)) s

/-- What stands against a resume of a partition that is saved, or is about to be: the detail. -/
def resumeRefused (s : State) (p new : Nat) : Option Nat :=
  if !setFree s p new || !setFits (s.part p).set new then some 2
  else if descBad s (descOf s p) then some 1
  else if shareTaken s p (descOf s p) then some 2
  else none

/-- What stands against a PARTITION_RESUME. -/
def resumeCheck (s : State) (p new : Nat) : Option Nat := if (s.part p).state != .saved then some 2 else resumeRefused s p new

/-- A save that is called off: the partition goes on as it was. -/
def State.goOn (s : State) (p : Nat) : State :=
  let x := s.part p
  let s := s.modPart p fun x => { x with halting := false, target := none }
  (partGroups x).foldl (fun s g => s.modGroup g fun y => if y.requests.isEmpty then { y with deadline := none, forced := false } else y) s

/-- PARTITION_RESUME. `lost` tells of an uncorrectable error in shadow storage. -/
def execPartitionResume (q : Nat) (lost : Bool) (s : State) : Host.Outcome State Fault Refusal :=
  match s.partOp q 3 with
  | none => .next s
  | some e =>
    match resumeCheck s (opWord e 2) (opWord e 4) with
    | some d => .next (s.completeCommand q 6 d)
    | none => .next ((s.resume (opWord e 2) (opWord e 4) lost).completeCommand q 0 0)

/-- The running contexts of a halting partition that stand at yield points. -/
def haltingYields (s : State) (p : Nat) : List Nat :=
  (partGroups (s.part p)).filter fun g => (s.group g).running.isSome && (s.group g).service.isNone && (s.group g).requests.isEmpty && atYield s g

/-- PARTITION_HALT_COMPLETE (spec/19 R432): running contexts stop at their yield points; once everything has stopped, the partition is saved, and resumed
where its command asks for it. A resume that its descriptor, read then, does not allow is refused and leaves the partition at work (R416, R430). `loss` tells of
an uncorrectable error in shadow storage as the save writes it, or as the resume reads it (R434). -/
def execPartitionHaltComplete (partition : Nat) (loss : ShadowLoss) (s : State) : Host.Outcome State Fault Refusal :=
  let x := s.part partition
  if !x.halting || x.discarding.isSome then .next s
  else
    let s := (haltingYields s partition).foldl State.stopRunning s
    if !halted s partition || (s.part partition).discarding.isSome then .next s
    else
      match x.target.bind (resumeRefused s partition) with
      | some d => .next ((s.goOn partition).completeCommand x.byQueue 6 d)
      | none =>
        let s := s.save partition (loss == .saving)
        match x.target, loss == .saving with
        | some new, false => .next ((s.resume partition new (loss == .resuming)).completeCommand x.byQueue 0 0)
        | _, _ => .next (s.completeCommand x.byQueue 0 0)

/-! ### The discard (spec/19 R420, R421) -/

/-- A core without the work of a partition's launches. -/
def Core.discarded (c : Core) (launches : List Nat) : Core :=
  { c with engine := State.engine0, seq := none, copies := [], copyWait := [], sft := [], replay := [], replayWait := [],
           launches := c.launches.filter fun kv => !launches.contains kv.1 }

/-- A lane group without them: a predicate's run ends with its warp. -/
def Group.discarded (x : Group) (halting : Bool) (reload : Nat) : Group :=
  let run2 := x.service.isSome && x.requests.head? == some 2
  let l := x.requests.filter (· != 2)
  { x with mode := .empty, running := none, service := if run2 then none else x.service, predicate := none, requests := l, hits := [], forced := false,
           deadline := if l.isEmpty && !halting then none else some (x.deadline.getD reload) }

/-- DISCARD: the in-flight work of a partition ends, and its launches are to complete with STATUS 0x04; the first trap's launch carries its record. -/
def execDiscard (partition : Nat) (s : State) : Host.Outcome State Fault Refusal :=
  match (s.part partition).discarding with
  | none => .next s
  | some (first, record) =>
    let x := s.part partition
    let mine (c : Nat) : Bool := x.set.testBit (c / 18)
    let s := s.endLaunches partition fun n => { status := 4, detail := if n = first then 0 else 1, trap := if n = first then record else 0 }
    let launches := (s.sched.launches.filter fun kv => kv.2.partition == partition && kv.2.ended.isSome).map (·.1)
    let s : State := { s with
      warps := s.warps.filter fun kv => !(kv.1 < Config.groups * Config.warpSlots && mine (kv.1 / Config.warpSlots / 2))
      cores := s.cores.mapVals fun c y => if mine c then y.discarded launches else y
      groups := s.groups.mapVals fun g y => if mine (g / 2) then y.discarded x.halting x.reload else y
      accs := s.accs.filter fun a => a.partition != partition
      sched := { s.sched with blocks := s.sched.blocks.filter fun kv => !mine kv.2.core } }
    .next (s.modPart partition fun y => { y with discarding := none, logs := y.logs.mapVals fun _ b => { b with reserved := 0 } })

/-! ### Retries (spec/19 R427, R429; spec/22 R475) -/

/-- What a retry of an item finds: it may go on, it faults again, or it traps. -/
inductive Retry where
  | done (s : State)
  | again (s : State) (kind level va acc : Nat)
deriving DecidableEq, Repr

/-- Walks again for an access. -/
def retryAccess (s : State) (id : Nat) : Retry :=
  match s.acc? id with
  | none => .done s
  | some a =>
    match resolve s a with
    | .ok s' b =>
      let t : State := { s'.learn b.core b.pages with accs := s'.accs.map fun y => if y.id = id then b else y }
      .done ((if a.spans.isNone then t.watchLate b else t).readRecords b)
    | .fault k lv va => .again s k lv va a.gkind.faultAcc
    | .trap t => .done (s.accessTrap a t)

/-- Walks again for a fetch, or a read before an issue. -/
def retryFetch (s : State) (p : Party) (va : Nat) (code : Bool) : Retry :=
  match translate s (partyCore p) (s.partyPart p) (if code then .fetch else .read) [(va, 1)] with
  | .ok pages =>
    let s := s.learn (partyCore p) pages
    .done (if s.waitOf p = .fetch then (s.setWait p .none).rouse (partyCore p) 6 else s)
  | .fault k lv v => .again s k lv v (if code then 3 else 0)
  | .trap t => .done (s.raise p (s.pcOf p) false t)

/-- The party of an item, for its records: its lane group and warp number. -/
def itemParty (s : State) (core : Nat) : ReplayItem → Nat × Nat
  | .access id => match s.acc? id with
    | some a => match a.party with
      | some p => (partyGroup p, (s.bidWid p).2)
      | none => (2 * core, 0)
    | none => (2 * core, 0)
  | .fetch p _ _ => (partyGroup p, (s.bidWid p).2)
  | .copy i => match (s.core core).copy? i with
    | some c => (c.group, (s.warp (warpKey c.group c.slot)).wid)
    | none => (2 * core, 0)
  | .engine _ => (2 * core, 64)

/-- Whether room is reserved for the record of an entry's retry: by its item, or for a fetch by the entry itself. -/
def itemReserved (s : State) (core : Nat) (e : ReplayEntry) : Bool :=
  match e.item with
  | .access id => match s.acc? id with | some a => a.reserved1 | none => false
  | .copy i => match (s.core core).copy? i with | some c => c.reserved1 | none => false
  | .engine id => (s.core core).engine.queue.any fun e => e.id == id && e.reserved1
  | .fetch _ _ _ => e.room

/-- Its reservation is spent. -/
def State.itemSpend (s : State) (core : Nat) : ReplayItem → State
  | .access id => { s with accs := s.accs.map fun a => if a.id = id then { a with reserved1 := false } else a }
  | .copy i => s.modCopy core i fun c => { c with reserved1 := false }
  | .engine id => s.modEngine core fun g => { g with queue := g.queue.map fun e => if e.id = id then { e with reserved1 := false } else e }
  | .fetch _ _ _ => s

/-- The virtual address of an item. -/
def itemVa (s : State) (core : Nat) : ReplayItem → Nat
  | .access id => match s.acc? id with
    | some a => match a.spans with | some ((v, _) :: _) => v | _ => 0
    | none => 0
  | .fetch _ va _ => va
  | .copy i => match (s.core core).copy? i with
    | some c => match c.ranges.1 ++ c.ranges.2 with | (v, _) :: _ => v | [] => 0
    | none => 0
  | .engine id => match (s.core core).engine.queue.find? fun e => e.id == id with
    | some e => match e.op.mem with | some m => (m.ranges.headD (0, 0)).1 | none => 0
    | none => 0

/-- The record of a retry (spec/22 R475, 0x14): none for an issuer that ran its handler. -/
def State.retryRecord (s : State) (core i : Nat) (e : ReplayEntry) : State :=
  let p := itemParty s core e.item
  let s := if itemReserved s core e then (s.releaseLog e.partition 1 1).itemSpend core e.item else s
  if e.quiet then s else s.decision e.partition core p.1 p.2 0x14 (i % 64 + s.counter (s.part e.partition).rev % 2 ^ 32 * 2 ^ 32) (itemVa s core e.item % 2 ^ 57)

/-- Moves the entry that an item has taken at the end of the buffer to the place it held. -/
def backTo (i : Nat) (item : ReplayItem) (l : List ReplayEntry) : List ReplayEntry :=
  match l.getLast? with
  | some e => if e.item = item ∧ i < l.length then l.dropLast.insertIdx i e else l
  | none => l

/-- Walks again for an item that has left its place `i`: it goes on, or takes its place again. -/
def State.retryItem (s : State) (core i : Nat) (e : ReplayEntry) : State :=
  let put (s : State) : State := s.modCore core fun c => { c with replay := backTo i e.item c.replay }
  let settle (r : Retry) : State := match r with
    | .done s => s
    | .again s k lv va acc => put (s.enterReplay core e.partition e.item e.quiet e.room (some (va, acc, k, lv)))
  match e.item with
  | .access id => settle (retryAccess s id)
  | .fetch p va code => match retryFetch s p va code with
    | .done s => if e.room then s.releaseLog e.partition 1 1 else s
    | r => settle r
  | .copy j => put ((s.modCopy core j fun c => { c with held := false }).prepareCopy core j)
  | .engine id =>
    match (s.core core).engine.queue.find? fun x => x.id == id with
    | none => s
    | some x => match engReach s core e.partition x.op with
      | .ok pages => s.learn core pages
      | .fault k lv va => put (s.enterReplay core e.partition e.item e.quiet false (some (va, x.op.gkind.faultAcc, k, lv)))
      | .full => put (s.enterReplay core e.partition e.item e.quiet false none)
      | .trap t => s.engTrap core x.pc t

/-- Items that wait to enter the buffer enter while it has room. -/
def State.fillReplay : Nat → Nat → State → State
  | 0, _, s => s
  | n + 1, core, s =>
    match (s.core core).replayWait with
    | [] => s
    | e :: r =>
      if Config.replayEntries ≤ (s.core core).replay.length then s
      else State.fillReplay n core ((s.modCore core fun c => { c with replayWait := r }).retryItem core (s.core core).replay.length e)

/-- Whether the record of an entry's retry has room: one whose first retry has used the room of its issue waits for more (DESIGN CHOICE, log entry 68). -/
def retryRoom (s : State) (core : Nat) (e : ReplayEntry) : Bool :=
  e.quiet || !logOn s e.partition 1 || itemReserved s core e || logFits s e.partition 1 1

/-- The first entry of a core's buffer whose REV differs from that of its last walk, while its partition runs. -/
def retryDue (s : State) (core : Nat) : Option (Nat × ReplayEntry) :=
  ((s.core core).replay.zipIdx.find? fun x => s.counter (s.part x.1.partition).rev != x.1.rev && (s.part x.1.partition).state == .active &&
    !s.stopped x.1.partition && retryRoom s core x.1).map fun x => (x.2, x.1)

/-- REPLAY_RETRY (spec/19 R429, R437): entry `i` walks again. -/
def execReplayRetry (core i : Nat) (s : State) : Host.Outcome State Fault Refusal :=
  match retryDue s core with
  | none => .next s
  | some (j, e) =>
    if i != j then .next s
    else
      let s := (s.request (itemParty s core e.item).1 0).retryRecord core i e
      let s := s.modCore core fun c => { c with replay := c.replay.eraseIdx i }
      let s := s.retryItem core i { e with room := false }
      .next (State.fillReplay (s.core core).replayWait.length core s)

/-! ### Service runs (spec/19 R437; spec/20 R449) -/

/-- The oldest watchpoint hit whose access has been performed. -/
def readyHit (s : State) (g : Nat) : Option WatchHit := (s.group g).hits.find? fun h => h.value.isSome

/-- The request that a lane group would serve, at a yield point. -/
def serviceDue (s : State) (g : Nat) : Option Nat :=
  match (s.group g).requests, (s.group g).service with
  | k :: _, none =>
    if atYield s g && !(s.core (g / 2)).gated && (k != 2 || (readyHit s g).isSome) && (s.part (s.corePartition (g / 2))).discarding.isNone then some k else none
  | _, _ => none

/-- The registers a run starts with. -/
def Warp.forService (w : Warp) (hit : Option WatchHit) : Warp :=
  match hit with
  | none => w
  | some h =>
    let path := match h.party with | .path _ _ i => i | _ => 0
    { w with s := setS (setS (setS (setS w.s 1 (BitVec.ofNat 64 h.n)) 2 (BitVec.ofNat 64 h.addr)) 3 (BitVec.ofNat 64 (h.value.getD 0))) 4 (BitVec.ofNat 64 path) }

/-- SERVICE_RUN_START: a false yield of the running context traps first; then the service context starts at the entry of the oldest request. -/
def execServiceRunStart (group : Nat) (s : State) : Host.Outcome State Fault Refusal :=
  match serviceDue s group with
  | none => .next s
  | some k =>
    let s := s.takeYield group
    if (s.part (s.corePartition (group / 2))).discarding.isSome then .next s
    else
      let voff := bits (lockedNat (s.core (group / 2)) (0xC0 + 8 * k) 8) 32 14
      let key := serviceKey group
      let w := s.warps.getD key { State.warp0 with rows := 8 }
      let w := (w.landAll).forService (if k = 2 then readyHit s group else none)
      let s := s.setWarp key { w with vliw := some { State.vliw0 with pc := voff, locked := true } }
      .next (s.modGroup group fun x => { x with service := some 0, predicate := none })

/-- SERVICE_RUN_LIMIT: a run of 4,096 issue slots ends, and the partition is discarded with UE. -/
def execServiceRunLimit (group : Nat) (s : State) : Host.Outcome State Fault Refusal :=
  match (s.group group).service with
  | some n =>
    if n < 4096 then .next s
    else
      let pc := s.pcOf (.service group)
      let t : Trap := { cause := causeUE, info := 2 ^ 11, addr := 0 }
      let part := s.corePartition (group / 2)
      .next (((s.endRun group).meetUe (group / 2) part 0 t).startDiscard part noLaunch (recordOf t 0 true pc s.ccnt))
  | none => .next s

/-- DEADLINE_EXPIRY (spec/19 R439): COUNT has reached 0, and the running context is to yield before its next header. -/
def execDeadlineExpiry (group : Nat) (s : State) : Host.Outcome State Fault Refusal :=
  let x := s.group group
  if x.deadline == some 0 && x.running.isSome && !x.forced then .next (s.modGroup group fun y => { y with forced := true }) else .next s

/-- CORE_WAKE (spec/19 R431): an event that has reached a gated core and made a waiter ready wakes it; its first issue follows 40 arithmetic cycles later. The
part names the cause in the step after the event (`wakeDue`, which tests that a waiter is ready); with cause 0 events that made none ready are passed over. -/
def execCoreWake (core cause : Nat) (s : State) : Host.Outcome State Fault Refusal :=
  let c := s.core core
  if c.gated && c.woken.contains cause then
    .next (s.modCore core fun x => { x with gated := false, woken := [], wakeAt := s.acyc core + 40, wakeStamp := s.ccnt, wakeCause := cause })
  else if c.gated && cause = 0 then .next (s.modCore core fun x => { x with woken := [] })
  else .next s

end Sys2Proof.Machine
end

