-- ==== Sys2Proof/Machine/Debug.lean ====
section
/-!
DEFINITION. Stores into the debug window, the debugger's commands, sample records, and the landing of fixed-latency results
(spec/03 R88; spec/04 R113; spec/20 R441 to R451).
-/
namespace Sys2Proof.Machine

open Sys2Proof

/-! ### The window's registers (spec/20 R441 to R443, R445, R448, R450) -/

/-- The bytes of a store that fall in the aligned 8 bytes `u`, over an old value. -/
def overWord (old u : Nat) (l : List (Nat × Byte)) : Nat :=
  l.foldl (fun v x => if x.1 / 8 = u then putBits v (8 * (x.1 % 8)) 8 x.2.toNat else v) old

/-- Whether every path of a warp is held, or its context. -/
def Warp.allHeld (w : Warp) : Bool :=
  match w.vliw with
  | some x => x.held
  | none => !w.paths.isEmpty && w.paths.all fun kv => kv.2.held

/-- The value over which a narrower store to a control and status register writes: fields cleared by ones read as 0. -/
def csrUnder (s : State) (core group : Nat) (w : Warp) (n : Nat) : Nat :=
  let v := csrRead s core group (s.corePartition core) w n
  if n = 0 then v / 16 * 16 else v

/-- A write of aligned 8 bytes at an offset of a warp slot, once its paths are held. -/
def Warp.windowPut (s : State) (core group : Nat) (w : Warp) (o u : Nat) (l : List (Nat × Byte)) : Warp :=
  if o < 0x8000 then
    let r := (w.v.getD (o / 512) 0).toNat
    { w with v := w.v.set (o / 512) (BitVec.ofNat 4096 (putBits r (8 * (o % 512)) 64 (overWord (bits r (8 * (o % 512)) 64) u l))) }
  else if o < 0x8200 then
    let n := (o - 0x8000) / 8
    { w with s := setS w.s n (BitVec.ofNat 64 (overWord (w.sreg n).toNat u l)) }
  else if o < 0x8A00 then
    let n := (o - 0x8200) / 128
    let b := 8 * ((o - 0x8200) % 128)
    let r := (w.m.getD n 0).toNat
    { w with m := w.m.set n (BitVec.ofNat 1024 (putBits r b 64 (overWord (bits r b 64) u l))) }
  else if o < 0x8D70 then
    let n := (o - 0x8D00) / 8
    { w with csr := csrWrite w.csr (logOn s (s.corePartition core) 0) n (BitVec.ofNat 64 (overWord (csrUnder s core group w n) u l)) }
  else { w with srseq := BitVec.ofNat 64 (overWord w.srseq.toNat u l) }

/-- What an offset of a warp slot is to a store (spec/20 R442, R443). -/
inductive WindowPlace where
  | held | dstat | command | readOnly
deriving DecidableEq, Repr

/-- The place of an offset. Entries of the path storage and the VLIW PC are not among the registers a store may change. -/
def windowPlace (o : Nat) : WindowPlace :=
  if o < 0x8A00 then .held
  else if o < 0x8D00 then .readOnly
  else if o < 0x8D70 then .held
  else if o < 0x8D80 then .readOnly
  else if o < 0x8D88 then .dstat
  else if o < 0x8D90 then .held
  else if o < 0x8D98 then .readOnly
  else if o < 0x8DA0 then .command
  else .readOnly

/-! ### Holding (spec/20 R444) -/

/-- What a held path waits for: the wait of a JOIN or a WARPSYNC is given up, and the form issues again at release. -/
def Wait.whenHeld : Wait → Wait
  | .join _ _ => .none
  | .warpsync _ => .none
  | w => w

/-- HALT of a path. -/
def Path.halt (p : Path) : Path := { p with held := true, steps := 0, wait := p.wait.whenHeld }
/-- RELEASE of a path. -/
def Path.free (p : Path) : Path := if p.held then { p with held := false, steps := 0 } else p
/-- STEP1 of a path. -/
def Path.step (p : Path) : Path := if p.held then { p with held := false, steps := 1 } else p

/-- Applies a command to the paths of a warp that a mask names. -/
def Warp.eachPath (w : Warp) (mask : Nat) (f : Path → Path) : Warp := { w with paths := w.paths.mapVals fun i p => if mask.testBit i then f p else p }

/-- Applies a command to the context of a warp. -/
def Warp.ofContext (w : Warp) (f : Vliw → Vliw) : Warp := { w with vliw := w.vliw.map f }

/-- HALT of a context: where it stands when it is at a yield point, else at its next one (spec/19 R438). -/
def State.haltContext (s : State) (g sl : Nat) : State :=
  let key := warpKey g sl
  if (s.group g).running = some sl then
    if atYield s g then (s.stopRunning g).modWarp key fun w => w.ofContext fun x => { x with held := true, steps := 0, halting := .none }
    else s.modWarp key fun w => w.ofContext fun x => { x with halting := .halt, steps := 0 }
  else s.modWarp key fun w => w.ofContext fun x => { x with held := true, steps := 0, halting := .none }

/-- DCMD with its OP and MASK. -/
def State.command (s : State) (key op mask : Nat) : State :=
  match s.warps.get? key with
  | none => s
  | some w =>
    let context := w.vliw.isSome
    if context && !mask.testBit 0 then s
    else
      match op with
      | 1 => if context then s.haltContext (key / Config.warpSlots) (key % Config.warpSlots) else s.modWarp key fun w => w.eachPath mask Path.halt
      | 2 =>
        if context then s.modWarp key fun w => w.ofContext fun x => if x.held then { x with held := false, steps := 0 } else x
        else s.modWarp key fun w => w.eachPath mask Path.free
      | 3 =>
        if context then s.modWarp key fun w => w.ofContext fun x => if x.held then { x with held := false, steps := 1 } else x
        else s.modWarp key fun w => w.eachPath mask Path.step
      | 4 =>
        if context then s.modWarp key fun w => w.ofContext fun x => if x.held then { x with held := false, halting := .stepy } else x
        else s.modWarp key fun w => w.eachPath mask Path.step
      | _ => s

/-! ### Stores into the window -/

/-- A store to aligned 8 bytes of a warp slot. -/
def State.slotPut (s : State) (core key o u : Nat) (l : List (Nat × Byte)) : State :=
  match s.warps.get? key with
  | none => s
  | some w =>
    match windowPlace o with
    | .held =>
      if w.allHeld && !(decide (o < 0x8000) && decide (w.rows ≤ o / 512)) then
        let s := if 0x8D00 ≤ o ∧ o < 0x8D70 then s.openSft core else s
        s.setWarp key ((s.warp key).windowPut s core (key / Config.warpSlots) o u l)
      else s.setWarp key { w with wrej := true }
    | .dstat => if bit (overWord 0 u l) 34 then s.setWarp key { w with wrej := false } else s
    | .command => let v := overWord 0 u l; s.command key (bits v 61 3) (v % 2 ^ 32)
    | .readOnly => s

/-- The fields of a breakpoint. -/
def breakMask : Nat := (2 ^ 48 - 1) * 2 ^ 208 + (2 ^ 73 - 1) * 2 ^ 48
/-- The fields of a watchpoint. -/
def watchMask : Nat := (2 ^ 57 - 1) * 2 ^ 128 + (2 ^ 61 - 1) * 2 ^ 60 + (2 ^ 14 - 1)

/-- DCTL after a write: SDROP clears by ones. -/
def dctlWrite (old v : Nat) : Nat := v / 2 ^ 57 * 2 ^ 57 + (old % 2 ^ 32 - (old % 2 ^ 32 &&& v % 2 ^ 32))

/-- A store to aligned 8 bytes at an offset of a core's debug registers. -/
def CoreDebug.put (d : CoreDebug) (o u : Nat) (l : List (Nat × Byte)) : CoreDebug :=
  let reg (t : Tbl (BitVec 256)) (n b mask : Nat) : Tbl (BitVec 256) :=
    let r := (t.getD n 0).toNat
    t.set n (BitVec.ofNat 256 (putBits r b 64 (overWord (bits r b 64) u l) &&& mask))
  if o < 0x100 then { d with breaks := reg d.breaks (o / 32) (8 * (o % 32)) breakMask }
  else if o < 0x180 then { d with watches := reg d.watches ((o - 0x100) / 32) (8 * (o % 32)) watchMask }
  else if o = 0x200 then
    let old := d.dctl.toNat
    { d with dctl := BitVec.ofNat 64 (dctlWrite old (overWord (old / 2 ^ 32 * 2 ^ 32) u l)) }
  else d

/-- A store to the aligned 8 bytes `u` of the window. -/
def State.windowPut (s : State) (u : Nat) (l : List (Nat × Byte)) : State :=
  let pa := 8 * u
  match windowCore pa with
  | none => s
  | some c =>
    match windowSlot pa c with
    | some (key, o) => s.slotPut c key o u l
    | none =>
      let o := (pa - 2 ^ 47) % 2 ^ 26
      if 0xC00000 ≤ o ∧ o < 0xC00208 then s.modCore c fun x => { x with dbg := x.dbg.put (o - 0xC00000) u l } else s

/-- The bytes a lane stores, by physical address. -/
def Access.storedAt (a : Access) (l : LaneAcc) : List (Nat × Byte) := (pasVia a.pages l.bytes).zip (natLe l.size l.data)

/-- A lane of a store that reaches the window: its bytes there, and those elsewhere. -/
def State.windowLane (s : State) (a : Access) (l : LaneAcc) : State :=
  let x := (a.storedAt l).filter fun b => homeOf s b.1 == .debug
  let y := (a.storedAt l).filter fun b => homeOf s b.1 != .debug && !isPeer b.1
  ((x.map (·.1 / 8)).eraseDups).foldl (fun s u => s.windowPut u x) (s.storeBytes (some a.core) (y.map (·.1)) (y.map (·.2)))

/-- The OP of the first DCMD that a store writes, 0 when it writes none. -/
def Access.dcmd (s : State) (a : Access) : Nat :=
  let ops := a.lanes.flatMap fun l =>
    let x := a.storedAt l
    ((x.map (·.1 / 8)).eraseDups).filterMap fun u =>
      match (windowCore (8 * u)).bind fun c => windowSlot (8 * u) c with
      | some (_, o) => if homeOf s (8 * u) == .debug && o == 0x8D98 then some (bits (overWord 0 u x) 61 3) else none
      | none => none
  (ops.find? fun op => 0 < op && op < 5).getD 0

/-- Performs a store that reaches the window. -/
def State.performWindow (s : State) (a : Access) : State :=
  let vas := a.lanes.flatMap (·.bytes)
  let pas := pasVia a.pages vas
  match writeUe s pas with
  | some c => s.accessTrap a (writeUeTrap s a.pages vas c)
  | none =>
    let s := a.lanes.foldl (fun s l => s.windowLane a l) s
    ((s.unpoisonAll pas).record a 1 true).sendOrFinish a []

/-- Performs access `i` when it is a store into the window whose first command has the OP given. -/
def windowEvent (i op : Nat) (s : State) : Host.Outcome State Fault Refusal :=
  match s.acc? i with
  | none => .next s
  | some a =>
    if !a.window s || a.dcmd s != op || a.sent.isSome || !a.performable s || (s.part a.partition).discarding.isSome then .next s
    else .next ((s.performWindow a).rouse a.core 5)

/-- DEBUG_WINDOW_WRITE (spec/20 R443): a store into the window that gives no command. -/
def execDebugWindowWrite (i : Nat) (s : State) : Host.Outcome State Fault Refusal := windowEvent i 0 s
/-- DCMD.HALT (spec/20 R444). -/
def execDcmdHalt (i : Nat) (s : State) : Host.Outcome State Fault Refusal := windowEvent i 1 s
/-- DCMD.RELEASE (spec/20 R444). -/
def execDcmdRelease (i : Nat) (s : State) : Host.Outcome State Fault Refusal := windowEvent i 2 s
/-- DCMD.STEP1 (spec/20 R444). -/
def execDcmdStep1 (i : Nat) (s : State) : Host.Outcome State Fault Refusal := windowEvent i 3 s
/-- DCMD.STEPY (spec/20 R444). -/
def execDcmdStepy (i : Nat) (s : State) : Host.Outcome State Fault Refusal := windowEvent i 4 s

/-! ### Samples (spec/20 R450, R451) -/

/-- The sample period of a core; none when off. -/
def samplePeriod (s : State) (core : Nat) : Option Nat :=
  let n := bits (s.core core).dbg.dctl.toNat 57 5
  if 10 ≤ n ∧ n ≤ 30 then some (2 ^ n) else none

/-- Whether a core's lane groups are to write their samples in this cycle. -/
def sampleDue (s : State) (core : Nat) : Bool :=
  match samplePeriod s core with
  | some n => s.ccnt % n == 0 && (s.core core).dbg.sampled != s.ccnt + 1
  | none => false

/-- The register table of the warp that issued, while it stands. -/
def Issued.slot (s : State) (x : Issued) : Option Nat :=
  match s.warps.get? x.key with
  | some w => if w.wid = x.wid ∧ w.bid = x.bid ∧ x.cycle = s.ccnt + 1 then some x.key else none
  | none => none

/-- The sample of a lane group: the path that issued in this cycle, or mask 0. A record of no warp is counted on its lane group. -/
def State.sampleGroup (s : State) (g : Nat) : State :=
  let core := g / 2
  let part := s.corePartition core
  let x := (s.group g).issuer
  if !logOn s part 0 then s
  else
    match x.slot s with
    | some key => s.stopRecord part core g key x.wid 0x03 x.tag (x.path * 2 ^ 59 + x.pc % 2 ^ 57) (x.mask + x.bid % 2 ^ 32 * 2 ^ 32)
    | none =>
      let y : Issued := if x.cycle = s.ccnt + 1 then x else ⟨0, 0, 0, 0, 0, 0, 0, 0⟩
      if !logFits s part 0 1 then s.dropRecord core
      else
        let r := logRecord s.ccnt (y.mask + y.bid % 2 ^ 32 * 2 ^ 32) (y.path * 2 ^ 59 + y.pc % 2 ^ 57) y.tag 0x03 core (g % 2) y.wid (s.group g).sampled
        (((s.reserveLog part g 0 1).appendLog part 0 r).releaseLog part 0 1).modGroup g fun z => { z with sampled := z.sampled + 1 }

/-- SAMPLE_PERIOD (spec/20 R451). -/
def execSamplePeriod (core : Nat) (s : State) : Host.Outcome State Fault Refusal :=
  if !sampleDue s core then .next s
  else
    let s := (s.sampleGroup (2 * core)).sampleGroup (2 * core + 1)
    .next (s.modCore core fun c => { c with dbg := { c.dbg with sampled := s.ccnt + 1 } })

/-! ### Fixed-latency results (spec/03 R86, R88; spec/04 R113) -/

/-- The register table of slot `slot` of a lane group; slot 32 stands for its service context. -/
def slotKey (group slot : Nat) : Nat := if slot < Config.warpSlots then warpKey group slot else serviceKey group

/-- Whether a wait is for a fixed-latency result. -/
def Wait.onResult : Wait → Bool | .result _ => true | _ => false

/-- FIXED_LATENCY_RESULT: the results of a warp or context that are due are written to their registers, and what waited for one may issue. -/
def execFixedLatencyResult (group slot : Nat) (s : State) : Host.Outcome State Fault Refusal :=
  match s.warps.get? (slotKey group slot) with
  | none => .next s
  | some w =>
    let w := w.landDue (dueNow s group w)
    .next (s.setWarp (slotKey group slot) { w with paths := w.paths.mapVals fun _ p => if p.wait.onResult then { p with wait := .none } else p })

end Sys2Proof.Machine
end

