-- ==== Sys2Proof/Machine/Dispatch.lean ====
section
/-!
DEFINITION. One arm for each row of the opcode table: the instruction's own meaning.
-/
namespace Sys2Proof.Machine

open Sys2Proof

def exec (i : Instr) (s : State) : Host.Outcome State Fault Refusal :=
  match i with
  | .moduleReset readable => Sys2Proof.Machine.execModuleReset readable s
  | .iadd w => Sys2Proof.Machine.execIadd w s
  | .isub w => Sys2Proof.Machine.execIsub w s
  | .imul w => Sys2Proof.Machine.execImul w s
  | .imulh w => Sys2Proof.Machine.execImulh w s
  | .imad w => Sys2Proof.Machine.execImad w s
  | .idiv w => Sys2Proof.Machine.execIdiv w s
  | .irem w => Sys2Proof.Machine.execIrem w s
  | .imin w => Sys2Proof.Machine.execImin w s
  | .imax w => Sys2Proof.Machine.execImax w s
  | .iabs w => Sys2Proof.Machine.execIabs w s
  | .isat w => Sys2Proof.Machine.execIsat w s
  | .and w => Sys2Proof.Machine.execAnd w s
  | .or w => Sys2Proof.Machine.execOr w s
  | .xor w => Sys2Proof.Machine.execXor w s
  | .andn w => Sys2Proof.Machine.execAndn w s
  | .shl w => Sys2Proof.Machine.execShl w s
  | .shr w => Sys2Proof.Machine.execShr w s
  | .sar w => Sys2Proof.Machine.execSar w s
  | .rotl w => Sys2Proof.Machine.execRotl w s
  | .clz w => Sys2Proof.Machine.execClz w s
  | .popc w => Sys2Proof.Machine.execPopc w s
  | .brev w => Sys2Proof.Machine.execBrev w s
  | .bfx w => Sys2Proof.Machine.execBfx w s
  | .bfi w => Sys2Proof.Machine.execBfi w s
  | .lea w => Sys2Proof.Machine.execLea w s
  | .mov w => Sys2Proof.Machine.execMov w s
  | .movl w => Sys2Proof.Machine.execMovl w s
  | .rshr w => Sys2Proof.Machine.execRshr w s
  | .icmp w => Sys2Proof.Machine.execIcmp w s
  | .fcmp w => Sys2Proof.Machine.execFcmp w s
  | .fclass w => Sys2Proof.Machine.execFclass w s
  | .sel w => Sys2Proof.Machine.execSel w s
  | .plog w => Sys2Proof.Machine.execPlog w s
  | .pmovMm w => Sys2Proof.Machine.execPmovMm w s
  | .pmovMv w => Sys2Proof.Machine.execPmovMv w s
  | .pmovVm w => Sys2Proof.Machine.execPmovVm w s
  | .pcnt w => Sys2Proof.Machine.execPcnt w s
  | .pfirst w => Sys2Proof.Machine.execPfirst w s
  | .fadd w => Sys2Proof.Machine.execFadd w s
  | .fsub w => Sys2Proof.Machine.execFsub w s
  | .fmul w => Sys2Proof.Machine.execFmul w s
  | .ffma w => Sys2Proof.Machine.execFfma w s
  | .fmin w => Sys2Proof.Machine.execFmin w s
  | .fmax w => Sys2Proof.Machine.execFmax w s
  | .fneg w => Sys2Proof.Machine.execFneg w s
  | .fabs w => Sys2Proof.Machine.execFabs w s
  | .frnd w => Sys2Proof.Machine.execFrnd w s
  | .fscale w => Sys2Proof.Machine.execFscale w s
  | .fdot2 w => Sys2Proof.Machine.execFdot2 w s
  | .fdot4 w => Sys2Proof.Machine.execFdot4 w s
  | .fcvt w => Sys2Proof.Machine.execFcvt w s
  | .icvt w => Sys2Proof.Machine.execIcvt w s
  | .pack w => Sys2Proof.Machine.execPack w s
  | .unpk w => Sys2Proof.Machine.execUnpk w s
  | .bscale w => Sys2Proof.Machine.execBscale w s
  | .perm w => Sys2Proof.Machine.execPerm w s
  | .shuf w => Sys2Proof.Machine.execShuf w s
  | .bcast w => Sys2Proof.Machine.execBcast w s
  | .ballot w => Sys2Proof.Machine.execBallot w s
  | .vote w => Sys2Proof.Machine.execVote w s
  | .redx w => Sys2Proof.Machine.execRedx w s
  | .maxi w => Sys2Proof.Machine.execMaxi w s
  | .mini w => Sys2Proof.Machine.execMini w s
  | .scanx w => Sys2Proof.Machine.execScanx w s
  | .xmov w => Sys2Proof.Machine.execXmov w s
  | .exp2 w => Sys2Proof.Machine.execExp2 w s
  | .log2 w => Sys2Proof.Machine.execLog2 w s
  | .rcp w => Sys2Proof.Machine.execRcp w s
  | .rsq w => Sys2Proof.Machine.execRsq w s
  | .sqrt w => Sys2Proof.Machine.execSqrt w s
  | .sinp w => Sys2Proof.Machine.execSinp w s
  | .cosp w => Sys2Proof.Machine.execCosp w s
  | .act w => Sys2Proof.Machine.execAct w s
  | .sftload w => Sys2Proof.Machine.execSftload w s
  | .sftloadTableWrite core => Sys2Proof.Machine.execSftloadTableWrite core s
  | .rndw w => Sys2Proof.Machine.execRndw w s
  | .lds w => Sys2Proof.Machine.execLds w s
  | .sts w => Sys2Proof.Machine.execSts w s
  | .ldsx w => Sys2Proof.Machine.execLdsx w s
  | .stsx w => Sys2Proof.Machine.execStsx w s
  | .fullEmptyWaitSatisfied core nr => Sys2Proof.Machine.execFullEmptyWaitSatisfied core nr s
  | .feset w => Sys2Proof.Machine.execFeset w s
  | .feclr w => Sys2Proof.Machine.execFeclr w s
  | .ld w => Sys2Proof.Machine.execLd w s
  | .st w => Sys2Proof.Machine.execSt w s
  | .ldb w => Sys2Proof.Machine.execLdb w s
  | .stb w => Sys2Proof.Machine.execStb w s
  | .pref w => Sys2Proof.Machine.execPref w s
  | .cinvLine w => Sys2Proof.Machine.execCinvLine w s
  | .cinvTiles w => Sys2Proof.Machine.execCinvTiles w s
  | .cinvAll w => Sys2Proof.Machine.execCinvAll w s
  | .atom w => Sys2Proof.Machine.execAtom w s
  | .cas w => Sys2Proof.Machine.execCas w s
  | .ula w => Sys2Proof.Machine.execUla w s
  | .fence w => Sys2Proof.Machine.execFence w s
  | .variableLatencyResult nr => Sys2Proof.Machine.execVariableLatencyResult nr s
  | .asyncWritePerformed nr => Sys2Proof.Machine.execAsyncWritePerformed nr s
  | .barArrive w => Sys2Proof.Machine.execBarArrive w s
  | .barWait w => Sys2Proof.Machine.execBarWait w s
  | .barSync w => Sys2Proof.Machine.execBarSync w s
  | .barq w => Sys2Proof.Machine.execBarq w s
  | .racqP w => Sys2Proof.Machine.execRacqP w s
  | .racqC w => Sys2Proof.Machine.execRacqC w s
  | .rcommit w => Sys2Proof.Machine.execRcommit w s
  | .rrel w => Sys2Proof.Machine.execRrel w s
  | .warpsync w => Sys2Proof.Machine.execWarpsync w s
  | .cpy w => Sys2Proof.Machine.execCpy w s
  | .cpyWaitEnter core => Sys2Proof.Machine.execCpyWaitEnter core s
  | .cseal w => Sys2Proof.Machine.execCseal w s
  | .cwait w => Sys2Proof.Machine.execCwait w s
  | .ctable w => Sys2Proof.Machine.execCtable w s
  | .cquery w => Sys2Proof.Machine.execCquery w s
  | .copyCommandStart core nr => Sys2Proof.Machine.execCopyCommandStart core nr s
  | .copyCommandFinish core nr => Sys2Proof.Machine.execCopyCommandFinish core nr s
  | .mload w => Sys2Proof.Machine.execMload w s
  | .mperm w => Sys2Proof.Machine.execMperm w s
  | .mzero w => Sys2Proof.Machine.execMzero w s
  | .mma w => Sys2Proof.Machine.execMma w s
  | .mladr w => Sys2Proof.Machine.execMladr w s
  | .mscale w => Sys2Proof.Machine.execMscale w s
  | .mscaleClr w => Sys2Proof.Machine.execMscaleClr w s
  | .mdrain w => Sys2Proof.Machine.execMdrain w s
  | .matrixOpStart core path => Sys2Proof.Machine.execMatrixOpStart core path s
  | .matrixOpComplete core path => Sys2Proof.Machine.execMatrixOpComplete core path s
  | .mwait w => Sys2Proof.Machine.execMwait w s
  | .mbarArrive w => Sys2Proof.Machine.execMbarArrive w s
  | .mbarWait w => Sys2Proof.Machine.execMbarWait w s
  | .mbarSync w => Sys2Proof.Machine.execMbarSync w s
  | .mbarRacqP w => Sys2Proof.Machine.execMbarRacqP w s
  | .mbarRacqC w => Sys2Proof.Machine.execMbarRacqC w s
  | .mbarRcommit w => Sys2Proof.Machine.execMbarRcommit w s
  | .mbarRrel w => Sys2Proof.Machine.execMbarRrel w s
  | .mend w => Sys2Proof.Machine.execMend w s
  | .trn w => Sys2Proof.Machine.execTrn w s
  | .trnw w => Sys2Proof.Machine.execTrnw w s
  | .bra w => Sys2Proof.Machine.execBra w s
  | .brx w => Sys2Proof.Machine.execBrx w s
  | .call w => Sys2Proof.Machine.execCall w s
  | .ret w => Sys2Proof.Machine.execRet w s
  | .join w => Sys2Proof.Machine.execJoin w s
  | .exit w => Sys2Proof.Machine.execExit w s
  | .loopDec w => Sys2Proof.Machine.execLoopDec w s
  | .loopPush w => Sys2Proof.Machine.execLoopPush w s
  | .lbreak w => Sys2Proof.Machine.execLbreak w s
  | .lbreakZ w => Sys2Proof.Machine.execLbreakZ w s
  | .lbreakNz w => Sys2Proof.Machine.execLbreakNz w s
  | .modeVliw w => Sys2Proof.Machine.execModeVliw w s
  | .modeVliwContextTaken group slot => Sys2Proof.Machine.execModeVliwContextTaken group slot s
  | .modeSimt w => Sys2Proof.Machine.execModeSimt w s
  | .nop w => Sys2Proof.Machine.execNop w s
  | .sleep w => Sys2Proof.Machine.execSleep w s
  | .sleepExpiry party => Sys2Proof.Machine.execSleepExpiry party s
  | .getsr w => Sys2Proof.Machine.execGetsr w s
  | .setsr w => Sys2Proof.Machine.execSetsr w s
  | .trap w => Sys2Proof.Machine.execTrap w s
  | .svc w => Sys2Proof.Machine.execSvc w s
  | .bkpt w => Sys2Proof.Machine.execBkpt w s
  | .tretRetry w => Sys2Proof.Machine.execTretRetry w s
  | .tretNext w => Sys2Proof.Machine.execTretNext w s
  | .logw w => Sys2Proof.Machine.execLogw w s
  | .clk w => Sys2Proof.Machine.execClk w s
  | .launch w => Sys2Proof.Machine.execLaunch w s
  | .tailNotify partition => Sys2Proof.Machine.execTailNotify partition s
  | .sqrecLd w => Sys2Proof.Machine.execSqrecLd w s
  | .sqrecSt w => Sys2Proof.Machine.execSqrecSt w s
  | .sqrecHist w => Sys2Proof.Machine.execSqrecHist w s
  | .sqrecCinc w => Sys2Proof.Machine.execSqrecCinc w s
  | .sqrecCget w => Sys2Proof.Machine.execSqrecCget w s
  | .sqrecWchk w => Sys2Proof.Machine.execSqrecWchk w s
  | .sqacc w => Sys2Proof.Machine.execSqacc w s
  | .sqbind w => Sys2Proof.Machine.execSqbind w s
  | .lpcall w => Sys2Proof.Machine.execLpcall w s
  | .lpret w => Sys2Proof.Machine.execLpret w s
  | .bundleIssue header slots pool => Sys2Proof.Machine.execBundleIssue header slots pool s
  | .emptyRun header => Sys2Proof.Machine.execEmptyRun header s
  | .replayRetry core nr => Sys2Proof.Machine.execReplayRetry core nr s
  | .discard partition => Sys2Proof.Machine.execDiscard partition s
  | .blockPlace launch cores => Sys2Proof.Machine.execBlockPlace launch cores s
  | .launchAdmission queue => Sys2Proof.Machine.execLaunchAdmission queue s
  | .recordAging queue => Sys2Proof.Machine.execRecordAging queue s
  | .launchComplete launch => Sys2Proof.Machine.execLaunchComplete launch s
  | .qtail port q value => Sys2Proof.Machine.execQtail port q value s
  | .hostQueueConsume q => Sys2Proof.Machine.execHostQueueConsume q s
  | .launchCommand q => Sys2Proof.Machine.execLaunchCommand q s
  | .hcopy q => Sys2Proof.Machine.execHcopy q s
  | .hcopyDone q => Sys2Proof.Machine.execHcopyDone q s
  | .signal q => Sys2Proof.Machine.execSignal q s
  | .wait q => Sys2Proof.Machine.execWait q s
  | .bind q => Sys2Proof.Machine.execBind q s
  | .wsmode q => Sys2Proof.Machine.execWsmode q s
  | .wsmodeApply die => Sys2Proof.Machine.execWsmodeApply die s
  | .logctl q => Sys2Proof.Machine.execLogctl q s
  | .partitionCreate q => Sys2Proof.Machine.execPartitionCreate q s
  | .partitionDestroy q => Sys2Proof.Machine.execPartitionDestroy q s
  | .partitionSave q => Sys2Proof.Machine.execPartitionSave q s
  | .partitionResume q lost => Sys2Proof.Machine.execPartitionResume q lost s
  | .partitionSaveResume q => Sys2Proof.Machine.execPartitionSaveResume q s
  | .partitionHaltComplete partition loss => Sys2Proof.Machine.execPartitionHaltComplete partition loss s
  | .claim port value => Sys2Proof.Machine.execClaim port value s
  | .leaseWrite port value => Sys2Proof.Machine.execLeaseWrite port value s
  | .leaseWarning => Sys2Proof.Machine.execLeaseWarning s
  | .leaseExpiry => Sys2Proof.Machine.execLeaseExpiry s
  | .hostBar2Write port offset bytes => Sys2Proof.Machine.execHostBar2Write port offset bytes s
  | .hostAtomic port offset op wide operand => Sys2Proof.Machine.execHostAtomic port offset op wide operand s
  | .remoteOpArrive port peer op => Sys2Proof.Machine.execRemoteOpArrive port peer op s
  | .remoteAck nr values => Sys2Proof.Machine.execRemoteAck nr values s
  | .remoteTimeout nr => Sys2Proof.Machine.execRemoteTimeout nr s
  | .serviceRunStart group => Sys2Proof.Machine.execServiceRunStart group s
  | .serviceRunLimit group => Sys2Proof.Machine.execServiceRunLimit group s
  | .deadlineExpiry group => Sys2Proof.Machine.execDeadlineExpiry group s
  | .coreWake core cause => Sys2Proof.Machine.execCoreWake core cause s
  | .refreshWindowOpen die => Sys2Proof.Machine.execRefreshWindowOpen die s
  | .refreshWindowEnd die => Sys2Proof.Machine.execRefreshWindowEnd die s
  | .patrolScrub line => Sys2Proof.Machine.execPatrolScrub line s
  | .dramRowRepair line spare => Sys2Proof.Machine.execDramRowRepair line spare s
  | .weightStoreBankRepair die bank => Sys2Proof.Machine.execWeightStoreBankRepair die bank s
  | .runnerLaneSpare port lane => Sys2Proof.Machine.execRunnerLaneSpare port lane s
  | .windowBoundary die temperature energy => Sys2Proof.Machine.execWindowBoundary die temperature energy s
  | .samplePeriod core => Sys2Proof.Machine.execSamplePeriod core s
  | .dcmdHalt nr => Sys2Proof.Machine.execDcmdHalt nr s
  | .dcmdRelease nr => Sys2Proof.Machine.execDcmdRelease nr s
  | .dcmdStep1 nr => Sys2Proof.Machine.execDcmdStep1 nr s
  | .dcmdStepy nr => Sys2Proof.Machine.execDcmdStepy nr s
  | .debugWindowWrite nr => Sys2Proof.Machine.execDebugWindowWrite nr s
  | .corespareGo port die value => Sys2Proof.Machine.execCorespareGo port die value s
  | .fmctlDrain port pair => Sys2Proof.Machine.execFmctlDrain port pair s
  | .fmctlRestore port pair => Sys2Proof.Machine.execFmctlRestore port pair s
  | .farMemoryUnitMove pair => Sys2Proof.Machine.execFarMemoryUnitMove pair s
  | .farMemoryModuleRemoved pair => Sys2Proof.Machine.execFarMemoryModuleRemoved pair s
  | .tdctlSnap port => Sys2Proof.Machine.execTdctlSnap port s
  | .tdctlLive port => Sys2Proof.Machine.execTdctlLive port s
  | .tdctlClear port => Sys2Proof.Machine.execTdctlClear port s
  | .registerWrite port offset value => Sys2Proof.Machine.execRegisterWrite port offset value s
  | .fixedLatencyResult group slot => Sys2Proof.Machine.execFixedLatencyResult group slot s
  | .eviction what => Sys2Proof.Machine.execEviction what s
  | .farMemoryModuleSeated pair => Sys2Proof.Machine.execFarMemoryModuleSeated pair s
  | .logBufferRoom partition kind => Sys2Proof.Machine.execLogBufferRoom partition kind s
  | .flitReplay port => Sys2Proof.Machine.execFlitReplay port s

end Sys2Proof.Machine
end

