-- ==== Sys2Proof/Machine/Schedule.lean ====
section
/-!
DEFINITION. Which party issues and how an attempt to issue goes (spec/03 R83 to R94; spec/04 R109; spec/09 R257 to R264; spec/14 R366;
spec/19 R431, R432, R437 to R439; spec/20 R444 to R449; spec/21 R457).
-/
namespace Sys2Proof.Machine

open Sys2Proof

/-! ### What may issue -/

/-- Whether the arithmetic clock of a core runs in this cycle: at step k it runs in 4 - k cycles of 4 (spec/21 R457). -/
def clockOn (s : State) (core : Nat) : Bool :=
  match (s.core core).clock with
  | 0 => true
  | 1 => s.ccnt % 4 != 3
  | 2 => s.ccnt % 2 == 0
  | _ => s.ccnt % 4 == 0

/-- Whether parties of a core may issue in this cycle (spec/19 R421, R431). -/
def coreIssues (s : State) (core : Nat) : Bool :=
  clockOn s core && !(s.core core).gated && decide ((s.core core).wakeAt ≤ s.acyc core) && (s.part (s.corePartition core)).discarding.isNone

/-- Waits that an attempt to issue tests again; the others last until the event that ends them. -/
def Wait.retried : Wait → Bool
  | .none | .pending | .result _ | .batch | .fence | .bank | .launchQueue | .logBuffer | .satfAtomics | .engine | .refresh => true
  | _ => false

/-- Whether a path may try to issue: ready, its STALL delay elapsed, and not tried in this cycle. -/
def Path.eligible (p : Path) (now acyc : Nat) : Bool := !p.held && p.wait.retried && decide (p.ready ≤ acyc) && p.tried != now

/-- Whether a context may try to issue. -/
def Vliw.eligible (x : Vliw) (now : Nat) : Bool := x.ctx.isSome && !x.held && x.wait.retried && x.hold == 0 && x.tried != now

/-- Whether a fetch of a warp waits in the replay buffer: it holds the whole warp (spec/19 R427). -/
def Warp.fetching (w : Warp) : Bool := w.paths.any fun kv => kv.2.wait == .fetch

/-- The paths of a warp that may try. -/
def Warp.eligible (w : Warp) (now acyc : Nat) : List Nat := if w.fetching then [] else (w.paths.filter fun kv => kv.2.eligible now acyc).map (·.1)

/-- Those of them that may be chosen: each after which every other ready path can still issue within 32 issues of its warp (spec/09 R260). After a path has
been passed over n times it has to be among the next 32 - n, so for each k at most k of the others may have to be among the next k. -/
def Warp.choices (w : Warp) (now acyc : Nat) : List Nat :=
  let l := w.eligible now acyc
  let late (i k : Nat) : Nat := (l.filter fun j => j != i && decide (32 ≤ (w.paths.getD j State.path0).passed + k + 1)).length
  match l.filter fun i => (List.range 32).all fun k => decide (late i k ≤ k) with
  | [] => l
  | u => u

/-- The path taken when nothing else chooses: the next one after the last that issued (spec/05 R138 leaves the order open). -/
def Warp.choose (w : Warp) (now acyc : Nat) : Option Nat :=
  let l := w.choices now acyc
  match l.find? fun i => decide (w.lastPath < i) with
  | some i => some i
  | none => l.head?

/-- The oldest of some warps. -/
def oldest (l : List (Nat × Warp)) : Option (Nat × Warp) :=
  l.foldl (fun (acc : Option (Nat × Warp)) kv => match acc with
    | none => some kv
    | some x => if kv.2.age < x.2.age then some kv else some x) none

/-- The SIMT warp to serve (spec/09 R258): the oldest whose wait has reached 64, else the oldest. -/
def simtWarp (s : State) (g : Nat) : Option (Nat × Warp) :=
  let l := (s.warpsOf g).filter fun kv => kv.2.active && !(kv.2.eligible (s.ccnt + 1) (s.acyc (g / 2))).isEmpty
  match oldest (l.filter fun kv => decide (64 ≤ kv.2.waited)) with
  | some x => some x
  | none => oldest l

/-- The contexts of a lane group that may try. -/
def vliwReady (s : State) (g : Nat) : List (Nat × Warp) :=
  (s.warpsOf g).filter fun kv => match kv.2.vliw with | some x => x.eligible (s.ccnt + 1) | none => false

/-- Whether the partition of a lane group halts for a save. -/
def groupHalting (s : State) (g : Nat) : Bool := (s.part (s.corePartition (g / 2))).halting

/-- The next context to try as the primary stream (spec/09 R261). -/
def primaryParty (s : State) (g : Nat) : Option Party :=
  if (s.group g).issuedPrimary = s.ccnt + 1 then none
  else
    match (s.group g).running with
    | some sl =>
      match (s.warp (warpKey g sl)).vliw with
      | some x => if x.eligible (s.ccnt + 1) && !(groupHalting s g && atYield s g) then some (.thread g sl) else none
      | none => none
    | none => if groupHalting s g then none else (oldest (vliwReady s g)).map fun kv => .thread g (kv.1 % Config.warpSlots)

/-- The next context to try as the secondary stream (spec/09 R262). -/
def secondaryParty (s : State) (g : Nat) : Option Party :=
  let x := s.group g
  if x.issuedPrimary != s.ccnt + 1 || x.issuedSecondary == s.ccnt + 1 || groupHalting s g then none
  else (oldest ((vliwReady s g).filter fun kv => x.running != some (kv.1 % Config.warpSlots))).map fun kv => .thread g (kv.1 % Config.warpSlots)

/-- The SIMT warp and path to try (spec/09 R258, R264). -/
def simtParty (s : State) (g : Nat) : Option Party :=
  let x := s.group g
  if x.issuedSimt = s.ccnt + 1 ∨ x.issuedBundle = s.ccnt + 1 ∨ groupHalting s g = true then none
  else match simtWarp s g with
    | none => none
    | some (k, w) => (w.choose (s.ccnt + 1) (s.acyc (g / 2))).map fun i => .path g (k % Config.warpSlots) i

/-- The party of a lane group that tries next (spec/09 R258 to R264; spec/19 R437). -/
def groupParty (s : State) (g : Nat) : Option Party :=
  if !coreIssues s (g / 2) then none
  else if (s.group g).service.isSome then
    match (s.warp (serviceKey g)).vliw with
    | some x => if (s.group g).issuedService != s.ccnt + 1 && !x.held && x.wait.retried && x.hold == 0 && x.tried != s.ccnt + 1 then some (.service g) else none
    | none => none
  else
    match primaryParty s g with
    | some p => some p
    | none => match secondaryParty s g with
      | some p => some p
      | none => simtParty s g

/-- Whether a core's sequencer may try (spec/08 R217; spec/13 R354). -/
def seqParty (s : State) (core : Nat) : Option Party :=
  match (s.core core).seq with
  | some q => if coreIssues s core && q.wait.retried && q.tried != s.ccnt + 1 && !s.stopped (s.partyPart (.seq core)) then some (.seq core) else none
  | none => none

/-- The party that tries next when nothing else chooses. -/
def nextParty (s : State) : Option Party :=
  match s.groups.findSome? fun kv => groupParty s kv.1 with
  | some p => some p
  | none => s.cores.findSome? fun kv => seqParty s kv.1

/-- Whether an entry of the agenda may choose a party: the one that tries next in its lane group, another path of the same warp, or a sequencer. -/
def mayTry (s : State) (p : Party) : Bool :=
  match p with
  | .seq c => seqParty s c == some p
  | .path g sl i => match groupParty s g with
    | some (.path _ sl' _) => sl == sl' && ((s.warp (warpKey g sl)).choices (s.ccnt + 1) (s.acyc (g / 2))).contains i
    | _ => false
  | .thread g _ => groupParty s g == some p
  | .service g => groupParty s g == some p

/-! ### Breakpoints (spec/20 R445, R446) -/

/-- What stands before a breakpoint: a SIMT instruction, a bundle with its PRESENT, or empty bundle `i` of a run. -/
inductive ItemKind where
  | simt
  | bundle (present : Nat)
  | run (i : Nat)
deriving DecidableEq, Repr

/-- Whether a breakpoint register matches an item. -/
def breakMatches (b : BitVec 256) (lg pc : Nat) (iter : Option Nat) (k : ItemKind) : Bool :=
  b.getLsbD 63 && b.getLsbD (59 + lg) && vbits b 64 57 == pc &&
  (match k with
   | .simt => !b.getLsbD 61
   | .bundle present => !b.getLsbD 61 && (vbits b 48 11 == 0 || (vbits b 48 11 &&& present) != 0)
   | .run i => if b.getLsbD 61 then vbits b 208 16 == i && vbits b 48 11 == 0 else i == 0 && vbits b 48 11 == 0) &&
  (!b.getLsbD 62 || iter == some (vbits b 224 32))

/-- The lowest-numbered breakpoint that matches. -/
def breakpoint (s : State) (g pc : Nat) (iter : Option Nat) (k : ItemKind) : Option Nat :=
  if !s.attached (g / 2) then none
  else (List.range 8).find? fun n => breakMatches ((s.core (g / 2)).dbg.breaks.getD n 0) (g % 2) pc iter k

/-- The stop at a breakpoint. -/
def breakTrap (n : Nat) : Trap := { cause := causeBKPT, info := 2 ^ 19 + n * 2 ^ 16 }

/-! ### Preparing an item -/

/-- What comes before an issue: the attempt is over, or an item is to be run by its party. -/
inductive Prep where
  | done (s : State)
  | run (s : State) (i : Instr)
deriving DecidableEq, Repr

/-- An item that traps before it is decoded, or as it is: its unit is LOST. -/
def State.trapWord (s : State) (p : Party) (pc : Nat) (locked : Bool) (t : Trap) : State :=
  (match p with
   | .seq _ => s
   | _ => s.accountTrap p pc [(.s0, 2)]).raise p pc locked t

/-- The item that a party issues. -/
def State.begin (s : State) (p : Party) (slot : Option Slot) (pc next : Nat) (header : Word64) (locked : Bool) : State :=
  { s with cur := some { party := p, slot := slot, pc := pc, next := next, header := header, locked := locked } }

/-- Whether bytes lie outside the region of a logit program (spec/14 R366, code 6). -/
def lpOutside (lp : Option LpMode) (pc n : Nat) : Bool :=
  match lp with
  | some m => decide (pc < m.base) || decide (m.base + 8 * m.words < pc + n)
  | none => false

/-- Reads an instruction word and decodes it (spec/03 R74, R94). -/
def prepareWord (s : State) (p : Party) (view : View) (rows pc : Nat) (locked : Bool) (lp : Option LpMode) : Prep :=
  let core := partyCore p
  let part := s.partyPart p
  let decoded (s : State) (x y : Word64) : Prep :=
    match decodeWord view rows x y with
    | .ok i => .run (s.begin p none pc ((pc + wordSize x) % 2 ^ 57) 0 locked) i
    | .bad l => .done (s.trapWord p pc locked { cause := causeILLOP, info := lowestCode l })
  if lpOutside lp pc 8 then .done (s.trapWord p pc locked (lpIll 6))
  else match fetchAt s core part locked pc 8 with
    | .trap t => .done (s.trapWord p pc locked t)
    | .fault k lv va => .done (s.fetchFault p k lv va)
    | .held r va => .done (s.fetchHeld p r va)
    | .ok s x =>
      let x := BitVec.ofNat 64 x
      if !wBit x then decoded s x 0
      else if lpOutside lp pc 16 then .done (s.trapWord p pc locked (lpIll 6))
      else match fetchAt s core part locked (pc + 8) 8 with
        | .trap t => .done (s.trapWord p pc locked t)
        | .fault k lv va => .done (s.fetchFault p k lv va)
        | .held r va => .done (s.fetchHeld p r va)
        | .ok s y => decoded s x (BitVec.ofNat 64 y)

/-- A path's next instruction. -/
def preparePath (s : State) (g sl i : Nat) : Prep :=
  let key := warpKey g sl
  let w := s.warp key
  match w.paths.get? i with
  | none => .done s
  | some x =>
    let p : Party := .path g sl i
    match x.stopDue with
    | some (pc, t) => .done (s.stop p pc t)
    | none =>
    match (if x.locked || x.released then none else breakpoint s g x.pc none .simt) with
    | some n =>
      .done ((s.stop p x.pc (breakTrap n)).modWarp key fun w => { w with paths := w.paths.modify i fun y => if y.held then { y with released := true } else y })
    | none => prepareWord s p .simt w.rows x.pc x.locked (if x.locked then none else w.lp)

/-- One STALL slot of a context (spec/03 R88). -/
def State.stallSlot (s : State) (p : Party) (pc key : Nat) : State :=
  (((s.account p pc []).takePorts p ⟨0, 0, []⟩).serviceSlot p false).modWarp key fun w =>
    { w with slots := w.slots + 1, vliw := w.vliw.map fun x => { x with stall := x.stall - 1, wait := .none } }

/-- The words of a number. -/
def wordsOf (n v : Nat) : List Word64 := (List.range n).map fun i => BitVec.ofNat 64 (bits v (64 * i) 64)
/-- The 32-bit words of a number. -/
def halvesFrom (n v : Nat) : List Word32 := (List.range n).map fun i => BitVec.ofNat 32 (bits v (32 * i) 32)

/-- Reads the rest of a bundle whose header has been read (spec/03 R83, R84). -/
def prepareBundle (s : State) (p : Party) (pc : Nat) (h : Word64) (locked : Bool) (lp : Option LpMode) : Prep :=
  let n := if (headerOf h).kind = 0 then (presentSlots (headerOf h).present).length else 0
  let m := if (headerOf h).kind = 0 then 2 * (((headerOf h).litn + 1) / 2) else 0
  let size := 8 * n + 4 * m
  let go (s : State) (v : Nat) : Prep :=
    .run (s.begin p (some .s0) pc (afterHeader pc h.toNat) h locked) (.bundleIssue h (wordsOf n v) (halvesFrom m (v / 2 ^ (64 * n))))
  if lpOutside lp pc (8 + size) then .done (s.trapWord p pc locked (lpIll 6))
  else if size = 0 then go s 0
  else match fetchAt s (partyCore p) (s.partyPart p) locked (pc + 8) size with
    | .trap t => .done (s.trapWord p pc locked t)
    | .fault k lv va => .done (s.fetchFault p k lv va)
    | .held r va => .done (s.fetchHeld p r va)
    | .ok s v => go s v

/-- The header that stands for the empty bundles left of a run that has begun. -/
def restOfRun (n : Nat) : Word64 := BitVec.ofNat 64 (2 ^ 60 + (n - 1) % 2 ^ 16 * 2 ^ 40)

/-- What kind of item a header begins, for breakpoints. -/
def itemKind (x : Vliw) (h : Word64) : ItemKind :=
  if 0 < x.ran then .run x.ran
  else if (headerOf h).kind = 1 then .run 0
  else .bundle (if (headerOf h).kind = 0 then (headerOf h).present else 0)

/-- Stops a context before an item; a run that has not begun shows all its bundles as left. -/
def State.breakContext (s : State) (p : Party) (key : Nat) (x : Vliw) (h : Word64) (n : Nat) : State :=
  (s.stop p x.pc (breakTrap n)).modWarp key fun w => w.ofContext fun y =>
    if y.held then { y with released := true, run := if x.run = 0 ∧ (headerOf h).kind = 1 then runCount h else y.run } else y

/-- The next item of a context or of a service context: a STALL slot, a bundle of a run, or a bundle. -/
def prepareItem (s : State) (p : Party) (key : Nat) : Prep :=
  let w := s.warp key
  match w.vliw with
  | none => .done s
  | some x =>
    if 0 < x.stall then .done (s.stallSlot p x.pc key)
    else
      let lp := if x.locked then none else w.lp
      let go (s : State) (h : Word64) : Prep :=
        match (if x.locked || x.released then none else breakpoint s (partyGroup p) x.pc (x.loops.head?.map (·.iter)) (itemKind x h)) with
        | some n => .done (s.breakContext p key x h n)
        | none =>
          if 0 < x.ran || (headerOf h).kind = 1 then .run (s.begin p (some .s0) x.pc ((x.pc + 8) % 2 ^ 57) h x.locked) (.emptyRun h)
          else prepareBundle (s.modWarp key fun w => w.ofContext fun y => { y with run := 0 }) p x.pc h x.locked lp
      if 0 < x.ran then go s (restOfRun x.run)
      else if lpOutside lp x.pc 8 then .done (s.trapWord p x.pc x.locked (lpIll 6))
      else match fetchAt s (partyCore p) (s.partyPart p) x.locked x.pc 8 with
        | .trap t => .done (s.trapWord p x.pc x.locked t)
        | .fault k lv va => .done (s.fetchFault p k lv va)
        | .held r va => .done (s.fetchHeld p r va)
        | .ok s h => go s (BitVec.ofNat 64 h)

/-- The item of a service context. A watchpoint predicate is counted from POFF and ends before its 33rd bundle (spec/20 R449). -/
def prepareService (s : State) (g : Nat) : Prep :=
  let key := serviceKey g
  match (s.warp key).vliw with
  | none => .done s
  | some x =>
    let poff (n : Nat) : Nat := vbits ((s.core (g / 2)).dbg.watches.getD n 0) 0 14
    let starts := (s.group g).requests.head? == some 2 && (s.group g).predicate.isNone && (match readyHit s g with | some h => x.pc == poff h.n | none => false)
    let s := if starts then s.modGroup g fun y => { y with predicate := some 0 } else s
    if x.stall = 0 ∧ (s.group g).predicate = some 32 then .done ((s.endRun g).endPredicate g true true)
    else prepareItem s (.service g) key

/-- Prepares the next item of a party. -/
def prepare (s : State) (p : Party) : Prep :=
  match p with
  | .path g sl i => preparePath s g sl i
  | .thread g sl => prepareItem s p (warpKey g sl)
  | .service g => prepareService s g
  | .seq c => match (s.core c).seq with
    | some q => prepareWord s p .stream 64 q.pc false none
    | none => .done s

/-! ### After an attempt -/

/-- The trap of a step (spec/20 R447). -/
def stepTrap : Trap := { cause := causeBKPT, info := 2 ^ 29 }

/-- Counts an item of a path's step: the step ends after its last item, and as soon as the path waits (spec/20 R444). -/
def State.stepPath (s : State) (g sl i : Nat) (issued : Bool) : State :=
  let key := warpKey g sl
  match (s.warp key).paths.get? i with
  | none => s
  | some x =>
    if x.steps = 0 ∨ x.held = true then s
    else if x.wait != .none then s.modWarp key fun w => { w with paths := w.paths.modify i Path.halt }
    else if !issued then s
    else if 1 < x.steps then s.modWarp key fun w => { w with paths := w.paths.modify i fun y => { y with steps := y.steps - 1 } }
    else s.stop (.path g sl i) x.pc stepTrap

/-- A path's attempt is over. -/
def State.endPath (s : State) (g sl i : Nat) : State :=
  let key := warpKey g sl
  let now := s.ccnt + 1
  let issued := (s.group g).issuedSimt == now
  let s := if issued then s
    else s.modWarp key fun w => { w with paths := w.paths.modify i fun x => { x with tried := now, passed := 0 } }
  s.stepPath g sl i issued

/-- A context's step, or its run to a yield point, after an attempt. -/
def State.stepThread (s : State) (g sl : Nat) (issued : Bool) : State :=
  let key := warpKey g sl
  let runs := (s.group g).running == some sl
  match (s.warp key).vliw with
  | none => s
  | some x =>
    let hold (s : State) : State := s.modWarp key fun w => w.ofContext fun y => { y with held := true, steps := 0, halting := .none }
    if x.held then s
    else if x.halting = .halt then (if !runs || atYield s g then s.haltContext g sl else s)
    else if x.halting = .stepy then
      if x.wait != .none then hold s
      else if !issued then s
      else if runs && !atYield s g then s
      else if runs && !((s.landNow g key).warp key).inflight.isEmpty then (s.takeYield g).modWarp key fun w => w.ofContext fun y => { y with halting := .none }
      else s.stop (.thread g sl) x.pc stepTrap
    else if x.steps = 0 then s
    else if x.wait != .none then hold s
    else if !issued then s
    else if 1 < x.steps then s.modWarp key fun w => w.ofContext fun y => { y with steps := y.steps - 1 }
    else s.stop (.thread g sl) x.pc stepTrap

/-- Waits that are blocks on an engine queue: a full copy buffer, a stage ring, a barrier, the waits of R116, a pending register, a busy bank, a watchpoint's
predicate (spec/09 R261; spec/20 R449), and, DEDUCED, the waits of an issued SFTLOAD and of a LAUNCH (log entry 57). A fetch, a result, room in a log and SATF's
atomics are none. -/
def Wait.queueBlock : Wait → Bool
  | .pending | .copyBuffer | .batch | .fence | .bank | .launchQueue | .barrier _ _ _ | .ring _ _ | .warpsync _ | .sleep _ | .table | .watch => true
  | _ => false

/-- A context's attempt is over: one that blocks on an engine queue, ends, expands or is held no longer runs, nor does one that was only tried, `ran` false
(spec/09 R261). -/
def State.endThread (s : State) (g sl slots : Nat) (ran : Bool) : State :=
  let key := warpKey g sl
  let now := s.ccnt + 1
  let issued := (s.warp key).slots != slots
  let s := if issued then s else s.modWarp key fun w => w.ofContext fun x => { x with tried := now }
  let blocked := match (s.warp key).vliw with | some x => x.wait.queueBlock || x.held | none => true
  let fresh := !ran && (s.group g).issuedPrimary != now
  let s := if (s.group g).running = some sl ∧ (blocked = true ∨ fresh = true) then s.modGroup g fun x => { x with running := none } else s
  s.stepThread g sl issued

/-- Runs the attempt of a party. -/
def State.attempt (s : State) (p : Party) : State :=
  let go (s : State) : State := match prepare s p with
    | .done t => t
    | .run t i => match exec i t with
      | .next u => { u with cur := none }
      | _ => s
  match p with
  | .path g sl i => (go s).endPath g sl i
  | .thread g sl =>
    let ran := (s.group g).running == some sl
    let s := if (s.group g).issuedPrimary = s.ccnt + 1 then s else s.modGroup g fun x => { x with running := some sl }
    (go s).endThread g sl (s.warp (warpKey g sl)).slots ran
  | .service g =>
    let t := go s
    if (t.group g).issuedService = s.ccnt + 1 then t else t.modWarp (serviceKey g) fun w => w.ofContext fun x => { x with tried := s.ccnt + 1 }
  | .seq c => (go s).modCore c fun x => { x with seq := x.seq.map fun q => { q with tried := s.ccnt + 1 } }

/-! ### Whether a party could issue -/

/-- Whether an attempt of a path would issue, were its warp served now. -/
def pathReady (s : State) (g sl i : Nat) : Bool :=
  let s := s.modGroup g fun x => { x with issuedSimt := 0 }
  ((s.attempt (.path g sl i)).group g).issuedSimt == s.ccnt + 1

/-- Whether a SIMT warp has a path that could issue now. -/
def warpReady (s : State) (g sl : Nat) : Bool :=
  !(s.warp (warpKey g sl)).fetching && ((s.warp (warpKey g sl)).paths.any fun kv => (({ kv.2 with tried := 0 } : Path).eligible 1 (s.acyc (g / 2))) && pathReady s g sl kv.1)

/-- Whether an attempt of a context would issue, were it the running one. -/
def threadReady (s : State) (g sl : Nat) : Bool :=
  match (s.warp (warpKey g sl)).vliw with
  | none => false
  | some x =>
    ({ x with tried := 0 } : Vliw).eligible 1 &&
    (let s := s.modGroup g fun y => { y with issuedPrimary := 0, running := none }
     ((s.attempt (.thread g sl)).group g).issuedPrimary == s.ccnt + 1)

/-- Whether an attempt of a sequencer would issue. -/
def seqReady (s : State) (core : Nat) : Bool :=
  match (s.core core).seq with
  | none => false
  | some q => q.wait.retried && match ((s.attempt (.seq core)).core core).seq with
    | none => true
    | some r => r.committed != q.committed || r.wait == .none

/-- Whether a wait counts for gating (spec/19 R431). -/
def Wait.gates : Wait → Bool
  | .pending | .barrier _ _ _ | .ring _ _ | .warpsync _ | .join _ _ | .copyBuffer | .batch | .fence | .sleep _ | .fetch | .bank | .table | .launchQueue => true
  | _ => false

/-- Whether a path of a gated core no longer waits: it would issue, or wait for its delay or a fixed-latency result alone (spec/19 R431). -/
def pathRoused (s : State) (g sl i : Nat) (x : Path) : Bool :=
  !x.held && x.wait.retried && (decide (s.acyc (g / 2) < x.ready) ||
    (let t := (s.modGroup g fun x => { x with issuedSimt := 0 }).attempt (.path g sl i)
     (t.group g).issuedSimt == s.ccnt + 1 || !(t.waitOf (.path g sl i)).gates))

/-- Whether a context of a gated core no longer waits. -/
def threadRoused (s : State) (g sl : Nat) (x : Vliw) : Bool :=
  x.ctx.isSome && !x.held && x.wait.retried && (x.stall != 0 ||
    (let t := (s.modGroup g fun y => { y with issuedPrimary := 0, running := none }).attempt (.thread g sl)
     (t.group g).issuedPrimary == s.ccnt + 1 || !(t.waitOf (.thread g sl)).gates))

/-- Whether an event has made a waiter of a gated core ready. -/
def coreRoused (s : State) (core : Nat) : Bool :=
  seqReady s core || [2 * core, 2 * core + 1].any fun g => (s.warpsOf g).any fun kv =>
    (!kv.2.fetching && kv.2.paths.any fun p => pathRoused s g (kv.1 % Config.warpSlots) p.1 p.2) ||
    (match kv.2.vliw with | some x => threadRoused s g (kv.1 % Config.warpSlots) x | none => false)

end Sys2Proof.Machine
end

