-- ==== Sys2Proof/Machine/Clock.lean ====
section
/-!
DEFINITION. The end of a cycle: the top-down tree, the active sets, waits, deadlines, gating and the counters of the clock
(spec/00 R4; spec/04 R114; spec/08 R239; spec/09 R259, R260; spec/19 R431, R439; spec/21 R457; spec/22 R470, R471).
-/
namespace Sys2Proof.Machine

open Sys2Proof

/-! ### The top-down tree (spec/22 R470, R471) -/

/-- Whether a tick of a core's lane groups is HALT: its partition halts or is saved, its die holds placement for WSMODE, or is in T3. -/
def tickHalt (s : State) (core : Nat) : Bool :=
  let d := s.die (dieOf core)
  s.wsHolds (dieOf core) || d.thermal == 3 ||
  match s.parts.find? fun kv => kv.2.state == .active && kv.2.set.testBit (core / 18) with
  | some (_, x) => x.halting
  | none => s.parts.any fun kv => kv.2.state == .saved && kv.2.set.testBit (core / 18)

/-- The cores whose lane groups may have a HALT tick. -/
def haltCores (s : State) : List Nat :=
  let dies := (List.range Config.dies).filter fun d => s.wsHolds d || (s.die d).thermal == 3
  let parts := s.parts.filter fun kv => kv.2.halting || kv.2.state == .saved
  if dies.isEmpty && parts.isEmpty then [] else (List.range Config.cores).filter (tickHalt s)

/-- The leaf of a party that does not issue. -/
def waitLeaf (s : State) (key : Nat) (wait : Wait) (held late : Bool) : Nat :=
  if held then 12
  else
    match wait with
    | .none => if late then 6 else 5
    | .result _ => 6
    | .fetch | .refresh => 5
    | .pending => if s.accs.any fun a => (match a.party with | some p => partyKey p == some key | none => false) && !a.pend.isEmpty && !(match a.kind with | .take _ => true | .peek _ => true | _ => false)
        then 8 else 9
    | .fence | .satfAtomics | .table => 8
    | .copyBuffer | .bank | .launchQueue | .engine | .watch | .logBuffer => 10
    | _ => 11

/-- The leaves that apply to a lane group in which nothing issues. -/
def waitLeaves (s : State) (g : Nat) : List Nat :=
  (s.warpsOf g).flatMap fun kv =>
    (match kv.2.vliw with
     | some x => [if 0 < x.hold then 7 else waitLeaf s kv.1 x.wait x.held false]
     | none => []) ++
    kv.2.paths.map fun p => waitLeaf s kv.1 p.2.wait p.2.held (decide (s.acyc (g / 2) < p.2.ready))

/-- The leaf of a tick in which nothing issues: the first that applies. -/
def stillLeaf (s : State) (g : Nat) : Nat :=
  if s.acyc (g / 2) < (s.group g).bankUntil then 7
  else
    let l := waitLeaves s g
    (([7, 5, 6, 8, 9, 10, 11, 12] : List Nat).find? l.contains).getD 5

/-- Units of a tick: leaf and number. A tick that is IDLE counts in what the other leaves leave. -/
def tickUnits (s : State) (g : Nat) : Tbl Nat :=
  let core := g / 2
  if tickHalt s core then [(15, 11)]
  else if !clockOn s core then [(14, 11)]
  else if (s.warpsOf g).isEmpty || (s.core core).gated then []
  else if !(s.group g).units.isEmpty then (s.group g).units
  else [(stillLeaf s g, 11)]

/-- Adds units to leaves. -/
def addUnits (t u : Tbl Nat) : Tbl Nat := u.foldl (fun (t : Tbl Nat) x => Tbl.set t x.1 (t.getD x.1 0 + x.2)) t

/-- Lane groups whose tick is to be counted. -/
def tickGroups (s : State) : List Nat :=
  let extra := (haltCores s ++ (s.cores.filter fun kv => decide (0 < kv.2.clock)).map (·.1)).flatMap fun c => [2 * c, 2 * c + 1]
  (s.groups.map (·.1) ++ extra).eraseDups

/-- Classifies the tick. -/
def State.tickTree (s : State) : State :=
  (tickGroups s).foldl (fun t g => t.modGroup g fun x => { x with leaves := addUnits x.leaves (tickUnits s g), units := [] }) s

/-! ### Lane groups (spec/09 R259, R260; spec/19 R439) -/

/-- DEADLINE's count falls in an arithmetic cycle in which a context runs. -/
def State.tickDeadline (s : State) : State :=
  { s with groups := s.groups.mapVals fun g x =>
      match x.deadline with
      | some n => if x.running.isSome && clockOn s (g / 2) && !(s.core (g / 2)).gated then { x with deadline := some (n - 1) } else x
      | none => x }

/-- Whether a path keeps its warp from staying in the active set. -/
def Path.far (p : Path) (acyc : Nat) : Bool :=
  p.held ||
  match p.wait with
  | .none => decide (acyc + 1 + 32 < p.ready)
  | .result due => decide (acyc + 32 < due)
  | .pending | .fetch | .refresh | .barrier _ _ _ | .ring _ _ | .warpsync _ | .join _ _ | .copyBuffer | .batch | .fence | .sleep _ | .launchQueue => true
  | _ => false

/-- A path as it stands now: one that may try waits for what an attempt of it finds; none of one that could issue. -/
def pathNow (s : State) (g sl i : Nat) : Option Path :=
  match (s.warp (warpKey g sl)).paths.get? i with
  | none => none
  | some p =>
    if !({ p with tried := 0 } : Path).eligible 1 (s.acyc (g / 2)) then some p
    else
      let t := (s.modGroup g fun x => { x with issuedSimt := 0 }).attempt (.path g sl i)
      if (t.group g).issuedSimt = s.ccnt + 1 then none else (t.warp (warpKey g sl)).paths.get? i

/-- Whether an active warp is to leave its place: a fetch holds it, or each of its paths is held. -/
def warpLeaves (s : State) (g sl : Nat) : Bool :=
  let w := s.warp (warpKey g sl)
  w.active && (w.fetching || w.paths.all fun kv => (pathNow s g sl kv.1).any fun p => p.far (s.acyc (g / 2)))

/-- The pending SIMT warps of a lane group that could issue, oldest first. -/
def readyPending (s : State) (g : Nat) : List (Nat × Warp) :=
  ((s.warpsOf g).filter fun kv => !kv.2.active && kv.2.vliw.isNone && warpReady s g (kv.1 % Config.warpSlots)).mergeSort fun a b => decide (a.2.age ≤ b.2.age)

/-- One warp takes the place of another in the active set. -/
def State.swapIn (s : State) (x y : Nat × Warp) : State :=
  (s.modWarp x.1 fun w => { w with active := false }).modWarp y.1 fun w => { w with active := true, waited := 0, swapped := some x.2.wid }

/-- The active set after a cycle: ready pending warps take free places, then those of warps that leave. -/
def State.tickActive (s : State) (g : Nat) : State :=
  let l := (s.warpsOf g).filter fun kv => kv.2.vliw.isNone
  if !(l.any fun kv => !kv.2.active) then s
  else
    let ready := readyPending s g
    let room := 8 - s.activeCount g
    let t := (ready.take room).foldl (fun (s : State) y => s.modWarp y.1 fun w => { w with active := true, waited := 0 }) s
    let leaving := (l.filter fun kv => warpLeaves s g (kv.1 % Config.warpSlots)).mergeSort fun a b => decide (a.2.age ≤ b.2.age)
    (leaving.zip (ready.drop room)).foldl (fun (s : State) x => s.swapIn x.1 x.2) t

/-- Waits of the active warps: those that could have issued in a SIMT issue cycle and did not have waited one more. -/
def State.tickWaits (s : State) (g : Nat) : State :=
  let x := s.group g
  if !coreIssues s (g / 2) || x.service.isSome || x.issuedBundle == s.ccnt + 1 || groupHalting s g then s
  else
    (s.warpsOf g).foldl (fun (t : State) kv =>
      if !kv.2.active then t
      else
        let ready := !kv.2.fetching && kv.2.paths.any fun p => p.2.eligible (s.ccnt + 1) (s.acyc (g / 2)) && pathReady s g (kv.1 % Config.warpSlots) p.1
        t.modWarp kv.1 fun w => { w with waited := if ready then w.waited + 1 else 0 }) s

/-- Whether a path was ready in the cycle that ends: what it was found to wait for earlier may have come since. -/
def pathStands (s : State) (key i : Nat) (p : Path) : Bool :=
  !p.held && decide (p.ready ≤ s.acyc (key / Config.warpSlots / 2)) &&
  (p.wait == .none || (p.wait.retried && pathReady s (key / Config.warpSlots) (key % Config.warpSlots) i))

/-- A warp at the end of a cycle: conflict cycles pass, and issues that passed over a path which was not ready do not count. -/
def Warp.tick (w : Warp) (runs : Bool) (stands : Nat → Path → Bool) : Warp :=
  { w with paths := w.paths.mapVals fun i p => if p.passed = 0 || stands i p then p else { p with passed := 0 },
           vliw := w.vliw.map fun x => if runs then { x with hold := x.hold - 1 } else x }

/-- Every lane group at the end of a cycle. -/
def State.tickLanes (s : State) : State :=
  let s := s.tickDeadline
  let s := s.groups.foldl (fun (s : State) kv => (s.tickWaits kv.1).tickActive kv.1) s
  { s with warps := s.warps.mapVals fun k w =>
      let core := if k < Config.groups * Config.warpSlots then k / Config.warpSlots / 2 else (k - Config.groups * Config.warpSlots) / 2
      w.tick (clockOn s core && !(s.core core).gated) (pathStands s k) }

/-! ### Cores (spec/19 R431; spec/21 R457) -/

/-- Whether a party that waits has been found to wait in this cycle. -/
def stillWaits (wait : Wait) (tried now : Nat) : Bool := wait.gates && (!wait.retried || tried == now)

/-- Whether an ACT that an SFTLOAD waits for has not produced its result (spec/06 R183): its unit works on, so the core is not gated (log entry 57). -/
def actRuns (s : State) (core : Nat) : Bool :=
  (s.residents core).any fun kv => kv.2.inflight.any fun f => match f.bank with
    | some (b, n) => (s.core core).sft.any (fun x => x.bank == b) && decide (s.acyc core < n)
    | none => false

/-- Whether every party of a core waits. -/
def coreWaits (s : State) (core : Nat) : Bool :=
  let now := s.ccnt + 1
  !actRuns s core &&
  (match (s.core core).seq with | some q => stillWaits q.wait q.tried now | none => true) &&
  [2 * core, 2 * core + 1].all fun g =>
    (s.group g).requests.isEmpty && (s.group g).service.isNone &&
    (s.warpsOf g).all fun kv =>
      (match kv.2.vliw with | some x => x.stall == 0 && !x.held && stillWaits x.wait x.tried now | none => true) &&
      kv.2.paths.all fun p => !p.2.held && (kv.2.fetching || stillWaits p.2.wait p.2.tried now ||
        (!kv.2.active && kv.2.vliw.isNone && p.2.wait.gates && !warpReady s g (kv.1 % Config.warpSlots)))

/-- Whether a core is gated from the next cycle on. -/
def gateNow (s : State) (core : Nat) : Bool :=
  !(s.core core).gated && clockOn s core && decide ((s.core core).wakeAt ≤ s.acyc core) && coreWaits s core

/-- Cores of the partitions that gate their cores. -/
def gatingCores (s : State) : List Nat := (s.parts.filter fun kv => kv.2.state == .active && kv.2.cgate && !kv.2.halting).flatMap fun kv => setCores kv.2.set

/-- A core at the end of a cycle: cycles in which its clock did not run are lost, those in which it was gated to its parties alone. -/
def Core.tick (x : Core) (runs : Bool) : Core :=
  if !runs then { x with lost := x.lost + 1 } else if x.gated then { x with lost := x.lost + 1, lostGated := x.lostGated + 1 } else x

/-- Every core at the end of a cycle. -/
def State.tickCores (s : State) : State :=
  let t : State := { s with cores := s.cores.mapVals fun c x => x.tick (clockOn s c) }
  (gatingCores s).foldl (fun t c => if gateNow s c then t.modCore c fun x => { x with gated := true, woken := [] } else t) t

/-- The end of a cycle. Before module reset is released ccnt stands at 0 (spec/00 R4; spec/21 R452). -/
def State.tick (s : State) : State :=
  if !s.ready then s
  else
    let s := s.closeAll.tickTree.tickLanes.tickCores
    { s with ccnt := s.ccnt + 1 }

end Sys2Proof.Machine
end

