-- ==== Sys2Proof/Machine/Due.lean ====
section
/-!
DEFINITION. The events that are due of themselves, in the order in which the part takes them when nothing else chooses, and what a step does
(notes/assumptions/2.md).
-/
namespace Sys2Proof.Machine

open Sys2Proof

/-! ### Events whose moment the spec fixes -/

/-- A warp or service context with a fixed-latency result that is due (spec/03 R88; spec/04 R113). -/
def resultDue (s : State) : Option Instr :=
  s.warps.findSome? fun kv =>
    let n := Config.groups * Config.warpSlots
    let g := if kv.1 < n then kv.1 / Config.warpSlots else kv.1 - n
    let sl := if kv.1 < n then kv.1 % Config.warpSlots else Config.warpSlots
    if kv.2.inflight.any fun f => decide (f.due ≤ dueNow s g kv.2) then some (.fixedLatencyResult g sl) else none

/-- A sleeper whose limit has been reached. -/
def sleepDue (s : State) : Option Instr :=
  let ended (w : Wait) : Bool := match w with | .sleep n => decide (n ≤ s.ccnt) | _ => false
  match s.waiters.find? fun x => ended x.2 with
  | some x => some (.sleepExpiry x.1)
  | none => s.groups.findSome? fun kv => if kv.2.service.isSome && ended (s.waitOf (.service kv.1)) then some (.sleepExpiry (.service kv.1)) else none

/-- A thread that may take a context. -/
def contextDue (s : State) : Option Instr :=
  s.groups.findSome? fun kv =>
    match s.contextWaiter kv.1 with
    | some k => if (s.freeContext kv.1).isSome then some (.modeVliwContextTaken kv.1 (k % Config.warpSlots)) else none
    | none => none

/-- A refresh window that opens or ends on a die. -/
def refreshDue (s : State) (die : Nat) : Option Instr :=
  let r := (s.die die).refreshing
  if r.isSome && r != refreshBank s then some (.refreshWindowEnd die)
  else if (refreshBank s).isSome && r != refreshBank s then some (.refreshWindowOpen die)
  else none

/-- A die whose power window ends in this cycle: its steps come before any placement (spec/21 R459). -/
def boundaryDue (s : State) : Option Instr :=
  (List.range Config.dies).findSome? fun d => if windowDue s d then some (.windowBoundary d (s.die d).temperature (s.die d).energy) else none

/-- A refresh window that opens or ends, or a line with an error that the patrol reads. -/
def windowsDue (s : State) : Option Instr := (List.range Config.dies).findSome? (refreshDue s) <|> (patrolLine s).map .patrolScrub

/-- What a lane group is to do: a service run, its limit, a forced yield. -/
def serviceEvent (s : State) : Option Instr :=
  s.groups.findSome? fun kv =>
    if (match kv.2.service with | some n => decide (4096 ≤ n) | none => false) then some (.serviceRunLimit kv.1)
    else if kv.2.deadline == some 0 && kv.2.running.isSome && !kv.2.forced then some (.deadlineExpiry kv.1)
    else if (serviceDue s kv.1).isSome then some (.serviceRunStart kv.1)
    else none

/-- A partition that halts, of which something has come to stand. -/
def haltDue (s : State) : Option Instr :=
  (s.parts.find? fun kv => kv.2.halting && kv.2.discarding.isNone && (!(haltingYields s kv.1).isEmpty || halted s kv.1)).map fun kv =>
    .partitionHaltComplete kv.1 .no

/-- The cause under which a gated core wakes, of the events of a step in the order in which they reached it: the first if a waiter is ready, else the first that
wakes a core whatever waits there, a service request, a pre-emption or a host command (spec/19 R431); 0 when none does. -/
def wakeCause (s : State) (core : Nat) (woken : List Nat) : Nat :=
  if coreRoused s core then woken.headD 0 else (woken.find? fun c => decide (8 ≤ c)).getD 0

/-- A gated core that events have reached. -/
def wakeDue (s : State) : Option Instr :=
  s.cores.findSome? fun kv => if kv.2.gated && !kv.2.woken.isEmpty then some (.coreWake kv.1 (wakeCause s kv.1 kv.2.woken)) else none

/-- A copy command that starts in this cycle (spec/12 R337). -/
def copyStartDue (s : State) : Option Instr := s.cores.findSome? fun kv => (s.copyDue kv.1).map fun x => .copyCommandStart kv.1 x.arrival

/-- A remote operation that has not been acknowledged in time (spec/18 R415). -/
def timeoutDue (s : State) : Option Instr :=
  s.accs.findSome? fun a => match a.sent with | some t => if t + 30000000 ≤ s.ccnt then some (.remoteTimeout a.id) else none | none => none

/-- What the lease is to do. -/
def leaseDue (s : State) : Option Instr :=
  if leaseWarns s then some .leaseWarning else if s.host.leased && !s.live then some .leaseExpiry else none

/-- The events that nothing goes before, an input no more than an event: a core wakes under the cause of the event just past (spec/19 R431), results land at the
end of their slot or cycle (spec/03 R88), a power window ends (spec/21 R459), the lease is warned of or ends (spec/18 R412). -/
def firstDue (s : State) : Option Instr :=
  if s.ready then wakeDue s <|> resultDue s <|> boundaryDue s <|> leaseDue s else none

/-- The events that happen before anything else goes on. -/
def strictDue (s : State) : Option Instr :=
  if s.boot.code = 0 then some (.moduleReset true)
  else if !s.ready then none
  else
    (s.parts.findSome? fun kv => if kv.2.discarding.isSome then some (.discard kv.1) else none) <|> firstDue s <|> sleepDue s <|> contextDue s <|>
    timeoutDue s <|> windowsDue s <|> serviceEvent s <|> haltDue s <|> copyStartDue s

/-! ### Events whose moment the spec leaves open, and which happen at once when nothing else chooses -/

/-- What a core's copy engine, matrix engine, activation banks and replay buffer are to do. -/
def coreDue (s : State) (core : Nat) (c : Core) : Option Instr :=
  (if c.sft.any (sftReady s core) then some (.sftloadTableWrite core) else none) <|>
  (c.copies.findSome? fun x =>
    if copyTable s x || copyTimed s core x && (!copyBlocked s x || !(copyWants s x).isEmpty) then some (.copyCommandFinish core x.arrival) else none) <|>
  (match s.copyWaiters core with
   | x :: _ => if c.copies.length < Config.copyEntries ∧ s.waitOf (x.party s) = .copyBuffer then some (.cpyWaitEnter core) else none
   | [] => none) <|>
  (([0, 1, 2] : List Nat).findSome? fun i =>
    if engTimed s core i && (engReady s core i || match c.engine.run i with | some r => !(engWants s core r).isEmpty | none => false) then some (.matrixOpComplete core i)
    else if (engDue s core i).isSome then some (.matrixOpStart core i)
    else none) <|>
  ((retryDue s core).map fun x => .replayRetry core x.1)

/-- A log buffer in which the device finds the room that an access waits for. -/
def roomDue (s : State) : Option Instr :=
  s.parts.findSome? fun kv => kv.2.logs.findSome? fun b => if roomFound s kv.1 b.1 then some (.logBufferRoom kv.1 b.1) else none

/-- What a host queue is to do with the command it performs. -/
def commandDue (s : State) (q : Nat) (e : BitVec 2048) : Option Instr :=
  let x := s.queue q
  match cmdOf e with
  | 1 => if (s.sched.queues.getD q []).isEmpty then some (.launchCommand q) else none
  | 2 =>
    let lines := hcopyLines (opWord e 2) (opWord e 3) (opWord e 4)
    let code := hostCode s.host.owner
    if !x.copying then some (.hcopy q)
    else if (if x.moved then x.remote.all fun i => (s.acc? i).isNone
             else hcopyRefused s x (opWord e 3) (opWord e 4) ||
               (!rangeRefresh s (opWord e 2) (opWord e 4) && !rangeRefresh s (opWord e 3) (opWord e 4) &&
                (!slicesBlocked s lines code none || !(slicesWant s lines code none).isEmpty)))
      then some (.hcopyDone q) else none
  | 3 =>
    if (match x.mark with | some n => tevBusy s (opWord e 2) (some n) | none => false) && !(tevParts s (opWord e 2)).isEmpty then none else some (.signal q)
  | 4 => if counterMet s (opWord e 2) (opWord e 3) then some (.wait q) else none
  | 5 => some (.bind q)
  | 6 => if s.wsAsked q || s.wsBehind q (opWord e 2) then none else some (.wsmode q)
  | 7 => some (.logctl q)
  | 8 =>
    let p := s.part (opWord e 2)
    if p.halting && p.byQueue == q then none
    else
      match opWord e 3 with
      | 0 => some (.partitionCreate q)
      | 1 => some (.partitionDestroy q)
      | 2 => some (.partitionSave q)
      | 3 => some (.partitionResume q false)
      | _ => some (.partitionSaveResume q)
  | _ => none

/-- What the host queues are to do. -/
def hostDue (s : State) : Option Instr :=
  s.host.queues.findSome? fun kv =>
    if consumes s kv.1 then some (.hostQueueConsume kv.1) else kv.2.current.bind (commandDue s kv.1)

/-- The queue under a key of the scheduler. -/
def queueOf (k : Nat) : LaunchQueue := if k < Config.hostQueues then .host k else .device (k - Config.hostQueues)

/-- What the launch scheduler is to do. -/
def launchDue (s : State) : Option Instr :=
  (s.parts.findSome? fun kv => match kv.2.device with
    | some q => if notifies s q then some (.tailNotify kv.1) else none
    | none => none) <|>
  ((List.range Config.dies).findSome? fun d => match (s.die d).wsReq with
    | (_, w) :: _ => if (s.die d).wsWrite == w || dieClear s d then some (.wsmodeApply d) else none
    | [] => none) <|>
  (s.sched.launches.findSome? fun kv =>
    if launchOver s kv.1 kv.2 && revChanged s kv.2.partition kv.2.blocked then some (.launchComplete kv.1) else none) <|>
  (s.heads.findSome? fun x =>
    if admits s x.2 then some (.launchAdmission (queueOf x.1)) else if ages s x.2 then some (.recordAging (queueOf x.1)) else none) <|>
  (s.heads.findSome? fun x => match x.2.launch with
    | some l => if (placement s x.1 x.2 []).isSome && servedNext s x.1 x.2 then some (.blockPlace l []) else none
    | none => none)

/-- The events that happen at once unless the agenda chooses otherwise. -/
def laxDue (s : State) : Option Instr :=
  if !s.ready then none
  else roomDue s <|> (s.cores.findSome? fun kv => coreDue s kv.1 kv.2) <|> hostDue s <|> launchDue s

/-! ### Accesses -/

/-- The event that performs an access. -/
def accessEvent (s : State) (a : Access) : Option Instr :=
  match a.sent with
  | some _ => none
  | none =>
    if (s.part a.partition).discarding.isSome || !a.performable s then none
    else
      match a.kind with
      | .sftload _ => none
      | .take _ | .peek _ => if feServed s a then some (.fullEmptyWaitSatisfied a.core a.id) else none
      | _ =>
        if a.window s then
          match a.dcmd s with
          | 0 => some (.debugWindowWrite a.id)
          | 1 => some (.dcmdHalt a.id)
          | 2 => some (.dcmdRelease a.id)
          | 3 => some (.dcmdStep1 a.id)
          | _ => some (.dcmdStepy a.id)
        else if a.returnsValue then some (.variableLatencyResult a.id)
        else some (.asyncWritePerformed a.id)

/-- The first access that can be performed. -/
def accessDue (s : State) : Option Instr := s.accs.findSome? (accessEvent s)

/-- A core whose samples are due at the end of the cycle (spec/20 R451). -/
def samplesDue (s : State) : Option Instr := s.cores.findSome? fun kv => if sampleDue s kv.1 then some (.samplePeriod kv.1) else none

/-! ### One step -/

/-- What a step does: an event, part of one, an input from outside, the attempt of a party, or the end of the cycle. -/
inductive Action where
  | event (i : Instr)
  | part (p : Part)
  | input (x : Outside)
  | attempt (p : Party)
  /-- The attempt of a party whose plain scratchpad store is left to be performed part by part (spec/11 R299, R310). -/
  | tornAttempt (p : Party)
  | tick
deriving DecidableEq, Repr

/-- The action of a step when the agenda is empty. -/
def nextAction (s : State) : Action :=
  match laxDue s with
  | some i => .event i
  | none => match nextParty s with
    | some p => .attempt p
    | none => match accessDue s <|> samplesDue s with
      | some i => .event i
      | none => .tick

/-- Whether a row of the table is a form of the instruction word, or an item of a VLIW stream: those issue, and are no events to choose. -/
def isIssue (i : Instr) : Bool :=
  match i with
  | .bundleIssue _ _ _ => true
  | .emptyRun _ => true
  | i => (instrParts i).isSome

/-- The action that an entry of the agenda stands for, when nothing due goes before it: an entry that names a form which issues chooses nothing. -/
def chosen (s : State) (c : Choice) : Action :=
  match c with
  | .issue p => if s.ready && mayTry s p then .attempt p else nextAction s
  | .torn p => if s.ready && mayTry s p then .tornAttempt p else nextAction s
  | .event i => if isIssue i then nextAction s else .event i
  | .part p => .part p
  | .input x => .input x
  | .tick => .tick

/-- Whether an entry of the agenda may go before the events that are due, those of `firstDue` apart: an event the part takes, part of one, or an input, but no
issue and no end of the cycle. -/
def Choice.early (c : Choice) : Bool :=
  match c with
  | .event i => !isIssue i
  | .part _ => true
  | .input _ => true
  | _ => false

/-- The action of a step, and the state with its choice taken from the agenda. -/
def action (s : State) : State × Action :=
  match s.agenda with
  | c :: r =>
    match (if c.early then firstDue s else strictDue s), (if c = .tick then samplesDue s else none) with
    | some i, _ => (s, .event i)
    | none, some i => (s, .event i)
    | none, none => ({ s with agenda := r }, chosen s c)
  | [] => match strictDue s with
    | some i => (s, .event i)
    | none => (s, nextAction s)

/-- A scratchpad load in flight reads one of its bytes again, the whole lane when it is aligned: it may have read before or after what others have stored since,
but nothing that its own warp has issued after it (spec/11 R299; spec/07 R192, R194). -/
def State.rereadScratch (s : State) (key result lane byte : Nat) : State :=
  let w := s.warp key
  match w.inflight[result]? with
  | none => s
  | some f =>
    match f.reads[lane]? with
    | none => s
    | some r =>
      if r.size ≤ byte || w.committed != f.born || !(s.warps.get? key).isSome then s
      else
        let g := if key < Config.groups * Config.warpSlots then key / Config.warpSlots else key - Config.groups * Config.warpSlots
        let c := s.core (g / 2)
        let now := c.sNat r.addr r.size
        let old := vbits f.value r.off (8 * r.size)
        let raw := if r.addr % r.size = 0 then now else putBits old (8 * byte) 8 (bits now (8 * byte) 8)
        let f' := { f with value := BitVec.ofNat 4096 (putBits f.value.toNat r.off r.width (loadBits r.signed r.size r.width raw)) }
        s.setWarp key { w with inflight := w.inflight.set result f' }

/-- The scratchpad bytes of its region that a command reads and writes. -/
def CopyCmd.scratchBytes (c : CopyCmd) : List Nat :=
  match c.block with
  | none => []
  | some _ =>
    let p := c.plan
    (if p.1.src.global then [] else p.2.flatMap p.1.srcBytes) ++ (if p.1.dst.global then [] else p.2.flatMap fun x => x.loc.bytes)

/-- A copy command that has written nothing meets an error in the scratchpad, at an offset of its region: one that can be corrected is counted; another is
charged to its issuer (spec/12 R341; spec/22 R462). -/
def State.copyError (s : State) (core arrival va : Nat) (hard : Bool) : State :=
  match (s.core core).copy? arrival with
  | none => s
  | some c =>
    if !s.ready || !c.moving || c.moved || c.held || !c.put.isEmpty || (s.part (s.launchPart c.launch)).discarding.isSome || !c.scratchBytes.contains va then s
    else if hard then (s.countUe (dieOf core) 1 0 (s.physCore core) 2).chargeCopy c (ueTrap 1 va)
    else s.countCe (dieOf core) 1 0 (s.physCore core)

/-- Part of an event is performed by itself. -/
def State.actPart (s : State) (p : Part) : State :=
  match p with
  | .pipe id => s.pipe id
  | .access id lane va => s.accessPart id lane va
  | .copyRead core arrival point va => s.copyRead core arrival point va
  | .copyWrite core arrival point va => s.copyWrite core arrival point va
  | .drain core unit => s.drainPart core unit
  | .engineRead core path pa => s.engineRead core path pa
  | .scratchRead key result lane byte => s.rereadScratch key result lane byte
  | .hcopy q i => s.hcopyPart q i

/-- Whether a party stands in the machine. -/
def State.stands (s : State) (p : Party) : Bool :=
  match p with
  | .path g sl i => ((s.warp (warpKey g sl)).paths.get? i).isSome
  | .thread g sl => (s.warp (warpKey g sl)).vliw.isSome
  | .service g => (s.group g).service.isSome
  | .seq c => (s.core c).seq.isSome

/-- A party meets an error in a register file, a scratchpad, a cache or an engine's memory: one that can be corrected is, and is counted; another raises UE
with its class (spec/22 R462, R465, R466). -/
def State.arrayError (s : State) (p : Party) (cls : Nat) (hard : Bool) : State :=
  let core := partyCore p
  let unit := s.physCore core
  if !s.ready || !s.stands p || 3 < cls then s
  else if hard then (s.countUe (dieOf core) cls 0 unit 2).takeTrap p (s.pcOf p) true { cause := causeUE, info := cls }
  else s.countCe (dieOf core) cls 0 unit

/-- An input from outside. BAR2 takes powers of two from 16 GiB to 256 GiB (spec/18 R398). -/
def State.actInput (s : State) (x : Outside) : State :=
  match x with
  | .bar2 bytes => if s.ready && [34, 35, 36, 37, 38].any (fun n => bytes == 2 ^ n) then { s with host := { s.host with bar2Bytes := bytes } } else s
  | .refuseAtomic id => s.refuseAtomic id
  | .upset line hard => if s.ras.upsets.contains (line, hard) then s else { s with ras := { s.ras with upsets := (line, hard) :: s.ras.upsets } }
  | .arrayError p cls hard => s.arrayError p cls hard
  | .copyError core arrival va hard => s.copyError core arrival va hard
  | .bar2Read port offset n => s.bar2Read port offset n

/-- Takes an action. -/
def State.act (s : State) (a : Action) : Host.Outcome State Fault Refusal :=
  match a with
  | .event i => exec i s
  | .part p => .next (s.actPart p)
  | .input x => .next (s.actInput x)
  | .attempt p => .next (s.attempt p)
  | .tornAttempt p => .next { ({ s with torn := true }).attempt p with torn := false }
  | .tick => .next s.tick

/-- One step of the part. -/
def stepOf (s : State) : Host.Outcome State Fault Refusal := (action s).1.act (action s).2

end Sys2Proof.Machine
end

