-- ==== Sys2Proof/Machine/Load.lean ====
section
/-!
DEFINITION. A program loaded from outside the machine: one instruction, a placed block with one warp, one VLIW thread or one matrix sequencer, and the choice of the
party that runs it next (notes/assumptions/7.md).
-/
namespace Sys2Proof.Machine

open Sys2Proof

/-- Where the instruction stands, as a virtual and as a physical address. -/
def loadAddr : Nat := 0x10000

/-- The translation of its page. -/
def loadPage : TlbEntry := { partition := 0, va := loadAddr, size := 65536, pa := loadAddr, r := true, w := true, x := true, cow := false, cache := 0 }

/-- A record of one block of one warp: 64 rows, all of the scratchpad, no barrier and no ring (spec/09 R250). -/
def loadRecord (stream : Bool) : BitVec 1024 :=
  BitVec.ofNat 1024 ((if stream then loadAddr * 2 ^ 192 else 0) + 2 ^ 160 + 0xC0C0C000 * 2 ^ 128 + loadAddr * 2 ^ 64 + 7 * 2 ^ 53 + 31 * 2 ^ 40 +
    Config.scratchBytes * 2 ^ 21)

/-- The launch, placed whole. -/
def loadLaunch (stream : Bool) : Launch :=
  { record := loadRecord stream, partition := 0, queue := .host 0, qseq := 0, arrived := 0, number := 0, membership := 0, nextBid := 1, retired := 0, cbarriers := [],
    gbarriers := [], ended := none, irq := false, blocked := none }

/-- Its block. -/
def loadBlock (stream : Bool) : Block :=
  { launch := 0, bid := 0, core := 0, base := 0, size := Config.scratchBytes, barriers := [], rings := [], table := 0, generation := 0, loaded := false, acquired := 0,
    live := if stream then [64] else [0] }

/-- Its warp. -/
def loadWarp : Warp :=
  { State.warp0 with paths := [(0, { State.path0 with pc := loadAddr, mask := 0xFFFFFFFF })], active := true }

/-- Its sequencer. -/
def loadSeq : Sequencer := seqStart 0 0 0 loadAddr 0

/-- A VLIW thread on context 0. -/
def loadThread : Warp :=
  { State.warp0 with vliw := some { State.vliw0 with ctx := some 0, pc := loadAddr }, active := true }

/-- The slots, in the order of spec/03 R83. -/
def allSlots : List Slot := [.s0, .s1, .v0, .v1, .v2, .v3, .f, .m0, .m1, .t, .p]

/-- Where a word runs: a form of the matrix engine (opcodes 0xC0 to 0xC9) in the stream, another word in SIMT, in the stream or in the first slot that
admits it. -/
def loadView (nbits w : Nat) : View :=
  let x := BitVec.ofNat 64 (w % 2 ^ nbits)
  let l := BitVec.ofNat 64 (w % 2 ^ nbits / 2 ^ 64)
  let ok (d : Decoded) : Bool := match d with | .ok _ => true | .bad _ => false
  let op := vbits x 56 8
  if ok (decodeWord .stream 64 x l) && (decide (0xC0 ≤ op ∧ op ≤ 0xC9) || !ok (decodeWord .simt 64 x l)) then .stream
  else if ok (decodeWord .simt 64 x l) then .simt
  else match allSlots.find? fun sl => ok (decodeSlot sl 64 x []) with
    | some sl => .slot sl
    | none => .simt

/-- The bytes to place: the words, in a slot behind the header of a bundle that holds the operation alone, with YIELD. -/
def placedBytes (v : View) (x : Nat) : Nat :=
  match v with
  | .slot sl => slotBit sl * 2 ^ 49 + 2 ^ 39 + x % 2 ^ 64 * 2 ^ 64
  | _ => x

/-- A die on which nothing is due at this moment. -/
def Die.quiet (d : Die) (s : State) : Die := { d with window := s.ccnt / 3000000, refreshing := refreshBank s }

/-- Loads an instruction, with the party that runs it. -/
def State.loadWord (s : State) (nbits w : Nat) : State :=
  let v := loadView nbits w
  let stream := v == .stream
  let s := s.poke loadAddr 16 (placedBytes v (w % 2 ^ nbits))
  let s : State := { s with
    boot := { s.boot with code := 1 }
    parts := Tbl.set s.parts 0 { State.part0 with state := .active, set := 1 }
    dies := (List.range Config.dies).map fun d => (d, (s.die d).quiet s) }
  let s : State := { s with
    sched := { s.sched with launches := Tbl.set s.sched.launches 0 (loadLaunch stream), blocks := Tbl.set s.sched.blocks 0 (loadBlock stream),
                            nextLaunch := max 1 s.sched.nextLaunch, nextBlock := max 1 s.sched.nextBlock } }
  let core : Core := { State.core0 with tlb := [loadPage], seq := if stream then some loadSeq else none, launches := [(0, 1)] }
  let group : Group := { State.group0 with mode := if stream then .empty else if v.inSlot then .dual else .simt, created := 1, running := if v.inSlot then some 0 else none }
  let s := (s.setCore 0 core).setGroup 0 group
  let others := s.warps.filter fun kv => decide (Config.warpSlots ≤ kv.1)
  let warps := if stream then others else (warpKey 0 0, if v.inSlot then loadThread else loadWarp) :: others
  { s with warps := warps, agenda := [.issue (if stream then .seq 0 else if v.inSlot then .thread 0 0 else .path 0 0 0)], cur := none }

end Sys2Proof.Machine
end

