-- ==== Sys2Proof/Machine/Step.lean ====
section
/-!
DEFINITION. One step of the part, and the state in which the next step fetches and runs a given instruction.
-/
namespace Sys2Proof.Machine

open Sys2Proof

/-- One step (notes/assumptions/2.md). -/
def step (s : State) : Host.Outcome State Fault Refusal := stepOf s

/-- The state with an instruction where the next step fetches it: that of a warp of a launch just placed, of a matrix sequencer for a form of the
matrix engine, or of a VLIW thread for a form that only a slot admits (notes/assumptions/7.md). -/
def State.withFetchWord (s : State) (nbits w : Nat) : State := s.loadWord nbits w

end Sys2Proof.Machine
end

