-- ==== Sys2Proof/Safety.lean ====
section
/-!
DEFINITION. What counts as a safe run, and the terms in which the statements speak of an instruction that issues: what it sees, when nothing stands
before it, the state in which its effect takes place, and what follows the effect.
-/
namespace Sys2Proof

open Sys2Proof.Machine

/-- A state from which the next step goes on. -/
def goesOn (s : State) : Prop := ∃ t, step s = .next t

/-- What the instruction word `w` of opcode `op` sees when it issues as `c` from `s`. -/
def opEnv (op : Nat) (w : IWord) (c : Cur) (s : State) : Env := (s.env c).forOp op w

/-- Whether a gate lets an item pass. -/
def passes : Gate → Bool
  | .ok => true
  | _ => false

/-- A word issues by itself for a path or a sequencer, and in a slot of a bundle for a VLIW thread or a service context. -/
def standsRight (c : Cur) : Bool :=
  match c.slot, c.party with
  | none, .path _ _ _ => true
  | none, .seq _ => true
  | some _, .thread _ _ => true
  | some _, .service _ => true
  | _, _ => false

/-- Whether the registers of a word let it issue: in SIMT none of them waits for a result, in a bundle none waits for a variable-latency result and no
result of it would collide with one in flight while SCBCHK.EN is 1 (spec/03 R86, R89, R90; spec/04 R115). -/
def registersFree (op : Nat) (w : IWord) (c : Cur) (s : State) : Bool :=
  let e := opEnv op w c s
  match c.slot, c.party with
  | none, .seq _ => true
  | none, _ => passes (s.interlock e op w)
  | some _, _ =>
    !((wordRegs e op w).any fun r => (s.pending e.key).any fun p => p.overlaps r.1) && (!e.w.csr.scbchk || (collision e op w).isNone)

/-- Nothing of the general checks of spec/04 R109 stands before the word `w` of opcode `op`, issued as `c` from `s`: its mode and role admit it, its
registers are free, no scheduler-decision record is due, an operation of a secondary bundle fits beside the primary's, and a logit program has loop
returns left. -/
def free (op : Nat) (w : IWord) (c : Cur) (s : State) : Bool :=
  let e := opEnv op w c s
  s.cur == some c && standsRight c && passes (e.modeCheck op w) && registersFree op w c s && e.decisions s == 0 &&
  match c.slot with
  | none => true
  | some sl => !s.misfit c.party ⟨slotBit sl, 0, []⟩ && (match e.lpMode with | some m => decide (m.taken < 2 ^ 20) | none => true)

/-- The state in which the effect of a word takes place: the issue is counted, and the issuer stands after the item. -/
def begun (op : Nat) (w : IWord) (c : Cur) (s : State) : State :=
  let e := opEnv op w c s
  match c.slot with
  | none =>
    let t := s.logDecisions e
    let t := match c.party with
      | .seq _ => t
      | _ => t.account c.party c.pc [(simtUnit op w, e.leaf op w)]
    t.advance e w.stall.toNat
  | some sl => ((s.account c.party c.pc [(sl, e.leaf op w)]).takePorts c.party ⟨slotBit sl, 0, []⟩).advanceBundle c (headerOf c.header)

/-- What follows the effect: after a bundle, the end of a loop body (spec/05 R144). -/
def ended (c : Cur) (s t : State) : State :=
  match c.slot with
  | none => t
  | some _ => (endItem (s.env c) c.next t).getD t

/-- The instruction `i`, whose word is `w` of opcode `op`, completes: it answers the state in which its effect `f` has taken place. -/
def Completes (i : Instr) (op : Nat) (w : IWord) (c : Cur) (s : State) (f : Env → State → State) : Prop :=
  exec i s = .next (ended c s (f (opEnv op w c s) (begun op w c s)))

/-- The instruction completes with its effect whenever nothing of the general checks stands before it and its own condition holds. -/
def CompletesWhen (mk : IWord → Instr) (op : Nat) (ready : IWord → Env → State → Prop) (f : IWord → Env → State → State) : Prop :=
  ∀ w c s, free op w c s = true → ready w (opEnv op w c s) s → Completes (mk w) op w c s (f w)

/-- The instruction completes with its effect whenever nothing of the general checks stands before it. -/
def CompletesAlways (mk : IWord → Instr) (op : Nat) (f : IWord → Env → State → State) : Prop :=
  ∀ w c s, free op w c s = true → Completes (mk w) op w c s (f w)

/-- The effect of an operation that only computes: its results are sent with its latency, its flags are set (spec/04 R113; spec/02 R62). -/
def computing (op : Nat) (w : IWord) (out : Env → Out) : Env → State → State := fun e s => s.commit e (wordLat e op w) (out e)

/-- A form whose elements are computed one by one from the patterns of A, B and C: `f` takes the type, the element's number in the register, and the
three patterns, and gives the result pattern and its flags (spec/05 R118, R120). -/
def elementwise (mk : IWord → Instr) (op : Nat) (f : IWord → Ty → Nat → Nat → Nat → Nat → Nat × Nat) : Prop :=
  CompletesAlways mk op fun w => computing op w (intOut w (f w))

/-- A trap that the word `w` of opcode `op` raises at its issue as `c`: the attempt is counted, and the trap is raised, in a bundle with its slot named
(spec/01 R37; spec/19 R417). -/
def trapped (op : Nat) (w : IWord) (c : Cur) (s : State) (t : Trap) : State :=
  match c.slot with
  | none =>
    match c.party with
    | .seq _ => s.raise c.party c.pc c.locked t
    | _ => (s.account c.party c.pc [(simtUnit op w, 2)]).raise c.party c.pc c.locked t
  | some sl => (s.accountTrap c.party c.pc [(sl, 2)]).raise c.party c.pc c.locked { t with slots := slotBit sl }

/-! ### What stands before the memory forms -/

/-- Every byte range of offsets lies in the region of the issuer's block (spec/07 R191). -/
def inRegion (e : Env) (s : State) (l : List (Nat × Nat)) : Bool := l.all fun x => x.2 == 0 || decide (x.1 + x.2 ≤ (s.region e.party).2)

/-- Every byte range of offsets lies in the window of the logit program that the issuer runs, if it runs one (spec/14 R366). -/
def inLpWindow (e : Env) (l : List (Nat × Nat)) : Bool :=
  match e.lpMode with
  | none => true
  | some m => l.all fun x => x.2 == 0 || (decide (m.window ≤ x.1) && decide (x.1 + x.2 ≤ m.window + m.windowLen))

/-- A scratchpad form may go on: its ranges are inside, and no earlier access of the issuer holds it: its own scratchpad actions that wait, an acquire,
and before a write what it issued before a release and has not been performed (spec/07 R190, R191; spec/11 R303, R308). -/
def scratchReady (e : Env) (s : State) (l : List (Nat × Nat)) (window write : Bool) : Bool :=
  (!window || inLpWindow e l) && inRegion e s l && !scratchWaits e s write

/-- The scheduler-decision records an issue writes beside those of its path have room (spec/22 R474). -/
def decisionRoom (e : Env) (s : State) (n : Nat) : Bool :=
  n == 0 || e.quiet || !logOn s (s.partyPart e.party) 1 || logFits s (s.partyPart e.party) 1 (e.decisions s + n)

/-- A global access may go on: it names no lane, or the reads of its records wait for no earlier access and no refresh window, nothing it touches
traps, and its ordering records and the record of its retry have room (spec/07 R196; spec/10 R285, R288; spec/22 R474, R475). -/
def accessReady (e : Env) (s : State) (a : Access) : Bool :=
  a.lanes.isEmpty ||
  (!recordHeld s a &&
   match resolve s a with
   | .trap _ => false
   | _ => orderRoom e s a (roomLines s a) && decisionRoom e s (b2n (replaysNow s a)))

/-- The trace records of an issue have room (spec/20 R451). -/
def traceRoom (e : Env) (s : State) (n : Nat) : Bool := n == 0 || !e.traced s || logFits s (s.partyPart e.party) 0 n

/-! ### What memory forms move -/

/-- An element of a plain record as memory gives it: its bits of the little-endian number of its bytes in the container of the register format, or the
padding outside the extents (spec/10 R288, R291; spec/02 R49). -/
def plainElem (b : BufRec) (m : List Host.Cell) (pages : List TlbEntry) (c : List Int) : Nat :=
  let x := b.elemBytes c
  if insideExt c b.ext then
    cellBits (b.rfmt.getD .n8) (bits (leNat (x.1.map fun va => memGet m (paVia pages va))) x.2.1 x.2.2 % 2 ^ (b.fmt.getD .n8).width)
  else padBits (b.rfmt.getD .n8) b.pad

/-- What a load leaves in its destination, by the bits of each of its lanes: those bits of the row, or the register, and no others (spec/04 R115;
spec/07 R187). -/
def lanesLand (s t : State) (a : Access) (val : LaneAcc → Nat) : Prop :=
  ∀ p k w, a.party = some p → partyKey p = some k → s.warps.get? k = some w →
    let u := t.warp k
    match a.dest with
    | .row n width =>
      (a.lanes.Pairwise fun x y => x.off + width ≤ y.off ∨ y.off + width ≤ x.off) → (∀ l ∈ a.lanes, l.off + width ≤ 4096) →
        u.s = w.s ∧ u.m = w.m ∧ (∀ r, r ≠ n → u.v.getD r 0 = w.v.getD r 0) ∧
        ∀ b < 4096, (u.v.getD n 0).getLsbD b = match a.lanes.find? fun l => l.off ≤ b && b < l.off + width with
          | some l => (val l).testBit (b - l.off)
          | none => (w.v.getD n 0).getLsbD b
    | .sreg n => u.v = w.v ∧ u.m = w.m ∧ (∀ r, r ≠ n → u.s.getD r 0 = w.s.getD r 0) ∧
        ∀ l r, a.lanes = l :: r → n ≠ 0 → u.s.getD n 0 = BitVec.ofNat 64 (val l)
    | .rows _ => True
    | .none => u.v = w.v ∧ u.s = w.s ∧ u.m = w.m

/-- A result in flight holds, for each of its parts, its width of bits at its offset, and names no other bit of its register. -/
def partsHeld (f : InFlight) (l : List (Nat × Nat × Nat)) : Prop :=
  (∀ x ∈ l, ∀ b < x.2.1, f.bits.getLsbD (x.1 + b) = true ∧ f.value.getLsbD (x.1 + b) = x.2.2.testBit b) ∧
  ∀ b < 4096, f.bits.getLsbD b = true → ∃ x ∈ l, x.1 ≤ b ∧ b < x.1 + x.2.1

/-- A core's own view of memory holds nothing that memory does not: its L1 lines are as their homes are, and no store stands in its pipeline. -/
def seesMemory (s : State) (core : Nat) : Prop :=
  (∀ l x, (s.core core).l1.get? l = some x → x.data = homeLine s l) ∧ pipeline s core = []

/-! ### What an effect may leave unchanged -/

/-- Everything but the issuers' own state is as it was: memory, accesses, partitions, dies, the scheduler, the host side and the error records. -/
def sameOutside (s t : State) : Prop :=
  t.ccnt = s.ccnt ∧ t.boot = s.boot ∧ t.mem = s.mem ∧ t.accs = s.accs ∧ t.parts = s.parts ∧ t.dies = s.dies ∧ t.sched = s.sched ∧ t.host = s.host ∧
  t.ras = s.ras

/-- The accesses are as they were, but for the FENCE of its own bundle that one may now stand before. -/
def sameAccesses (s t : State) : Prop :=
  t.accs.map (fun a => { a with fence := none }) = s.accs.map fun a => { a with fence := none }

/-- Every register of every warp is as it was. -/
def sameRegisters (s t : State) : Prop := ∀ k, (t.warp k).v = (s.warp k).v ∧ (t.warp k).s = (s.warp k).s ∧ (t.warp k).m = (s.warp k).m

/-- A result names a register of the destination operand `w.d`. -/
def toDest (e : Env) (w : IWord) (f : InFlight) : Prop :=
  match w.d, f.reg with
  | .vec _ n, .v r _ => ∃ q < 4, r = physRow e.w.vrot (n.val + q)
  | .sreg n, .s m => m = n.val ∧ m ≠ 0
  | .mask i, .m r => r = physMask e.w.mrot i.val
  | _, _ => False

/-- Forms whose effect leaves every register of every warp and every byte of memory as they are; what they send is in flight. -/
def keepingForms : List (IWord → Instr) :=
  [.act, .sts, .stsx, .feset, .feclr, .pref, .cinvLine, .cinvTiles, .cinvAll, .fence, .barArrive, .barWait, .barSync, .barq, .racqP, .racqC, .rcommit,
   .rrel, .warpsync, .cpy, .cseal, .cwait, .ctable, .cquery, .mload, .mperm, .mzero, .mma, .mladr, .mscale, .mscaleClr, .mdrain, .mwait, .mbarArrive,
   .mbarWait, .mbarSync, .mbarRacqP, .mbarRacqC, .mbarRcommit, .mbarRrel, .bra, .brx, .call, .ret, .join, .loopDec, .lbreakZ, .lbreakNz, .modeVliw,
   .modeSimt, .nop, .sleep, .getsr, .setsr, .clk, .lpret]

/-- The forms that only compute, with their opcodes. -/
def computeForms : List ((IWord → Instr) × Nat) :=
  [(.iadd, 0x00), (.isub, 0x01), (.imul, 0x02), (.imulh, 0x03), (.imad, 0x04), (.idiv, 0x05), (.irem, 0x06), (.imin, 0x07), (.imax, 0x08), (.iabs, 0x09),
   (.isat, 0x0A), (.and, 0x0B), (.or, 0x0C), (.xor, 0x0D), (.andn, 0x0E), (.shl, 0x0F), (.shr, 0x10), (.sar, 0x11), (.rotl, 0x12), (.clz, 0x13),
   (.popc, 0x14), (.brev, 0x15), (.bfx, 0x16), (.bfi, 0x17), (.lea, 0x18), (.mov, 0x19), (.movl, 0x1A), (.rshr, 0x1B)] ++
  [(.icmp, 0x20), (.fcmp, 0x21), (.fclass, 0x22), (.sel, 0x23), (.plog, 0x24), (.pmovMm, 0x25), (.pmovMv, 0x25), (.pmovVm, 0x25), (.pcnt, 0x26),
   (.pfirst, 0x27)] ++
  [(.fadd, 0x30), (.fsub, 0x31), (.fmul, 0x32), (.ffma, 0x33), (.fmin, 0x34), (.fmax, 0x35), (.fneg, 0x36), (.fabs, 0x37), (.frnd, 0x38),
   (.fscale, 0x39), (.fdot2, 0x3A), (.fdot4, 0x3B), (.fcvt, 0x40), (.icvt, 0x41), (.pack, 0x42), (.unpk, 0x43), (.bscale, 0x44)] ++
  [(.perm, 0x50), (.shuf, 0x51), (.bcast, 0x52), (.ballot, 0x53), (.vote, 0x54), (.redx, 0x55), (.maxi, 0x56), (.mini, 0x57), (.scanx, 0x58),
   (.xmov, 0x59), (.exp2, 0x60), (.log2, 0x61), (.rcp, 0x62), (.rsq, 0x63), (.sqrt, 0x64), (.sinp, 0x65), (.cosp, 0x66), (.rndw, 0x69), (.trn, 0xCA),
   (.trnw, 0xCB)]

end Sys2Proof
end

