-- ==== Sys2Proof/Certificates/Slice0/Obligations.lean ====
section
/-!
DEFINITION. The statements for the provers. Each docstring names the rules of spec/ it formalises, or says that it states the model's own choice.
-/
open Sys2Proof Sys2Proof.Machine

/-! ### Encoding -/

/-- Decoding the words of a well-formed instruction of SIMT or of the matrix stream gives it back, whatever follows them in memory, and the first word
says how many bytes they take (spec/03 R72 to R80). -/
def Obligations.DecodeOfEncodeIsIdentity : Prop :=
  ∀ v, v = View.simt ∨ v = View.stream → ∀ rows i, legalIn v rows i = true → ∀ next : Word64,
    ∃ x rest, encode i = x :: rest ∧ decodeWord v rows x (rest.headD next) = .ok i ∧ wordSize x = 8 * (encode i).length

/-- The same for the operations of a slot, with the bundle's literal pool (spec/03 R72 to R80). -/
def Obligations.DecodeOfEncodeInSlotIsIdentity : Prop :=
  ∀ sl rows i, legalIn (.slot sl) rows i = true →
    ∃ op w x, instrParts i = some (op, w) ∧ encodeSlot i = some x ∧ decodeSlot sl rows x w.lits = .ok i

/-- Four of the words that the spec works out decode to the instructions they stand for: FFMA after spec/04 R113, ICMP and BRA after spec/05 R141, LDS after
spec/07 R195. -/
def Obligations.WorkedWordsDecode : Prop :=
  decodeWord .simt 64 0x3384C00080201006 0 =
    .ok (.ffma ⟨0x21, 3, 0, .vec 0 1, .vec 0 1, .vec 0 2, .vec 0 3, []⟩) ∧
  decodeWord .simt 64 0x20B8010080184604 0 =
    .ok (.icmp ⟨0x2E, 0, 0, .mask 1, .vec 0 0, .small 8, .small 2, []⟩) ∧
  decodeWord .simt 64 0xD004020060782000 0 = .ok (.bra ⟨1, 0, 1, .vec 0 0, .small 3, .small 4, .vec 0 0, []⟩) ∧
  decodeWord .simt 64 0x70C4000220D98000 0 = .ok (.lds ⟨0x31, 0, 0, .vec 0 4, .sreg 6, .small 48, .vec 0 0, []⟩)

/-! ### Integer forms -/

/-- Each integer form computes the result of the table of R122 for each element it writes (spec/05 R122): Wrap(v) is `wrap`, Int(x) is `tyVal`, S(x) is
`sInt`, SatTo is `satTo`. Only IABS and ISAT set SATF.SAT. So `iadd`, `isub`, `imul`, `imulh`, `imad`, `imin`, `imax`, `iabs`, `isat`, `and`, `or`, `xor`,
`andn`, `shl`, `shr`, `sar`, `rotl`, `rshr`, `clz`, `popc` and `brev` complete. -/
def Obligations.IntegerFormsFollowTheTable : Prop :=
  elementwise .iadd 0x00 (fun _ t _ a b _ => (wrap t.width (tyVal t a + tyVal t b), 0)) ∧
  elementwise .isub 0x01 (fun _ t _ a b _ => (wrap t.width (tyVal t a - tyVal t b), 0)) ∧
  elementwise .imul 0x02 (fun _ t _ a b _ => (wrap t.width (tyVal t a * tyVal t b), 0)) ∧
  elementwise .imulh 0x03 (fun _ t _ a b _ => (wrap t.width (tyVal t a * tyVal t b / 2 ^ t.width), 0)) ∧
  elementwise .imad 0x04 (fun _ t _ a b c => (wrap t.width (tyVal t a * tyVal t b + tyVal t c), 0)) ∧
  elementwise .imin 0x07 (fun _ t _ a b _ => (if tyVal t a ≤ tyVal t b then a else b, 0)) ∧
  elementwise .imax 0x08 (fun _ t _ a b _ => (if tyVal t a ≤ tyVal t b then b else a, 0)) ∧
  elementwise .iabs 0x09 (fun _ t _ a _ _ => let r := satTo true t.width |tyVal t a|; (r.1, if r.2 then flagSat else 0)) ∧
  elementwise .isat 0x0A (fun _ t _ a b _ =>
    let n := min (max b 1) t.width
    if tyVal t a < intMin t.isSigned n then (wrap t.width (intMin t.isSigned n), flagSat)
    else if intMax t.isSigned n < tyVal t a then (wrap t.width (intMax t.isSigned n), flagSat)
    else (a, 0)) ∧
  elementwise .and 0x0B (fun _ _ _ a b _ => (a &&& b, 0)) ∧
  elementwise .or 0x0C (fun _ _ _ a b _ => (a ||| b, 0)) ∧
  elementwise .xor 0x0D (fun _ _ _ a b _ => (a ^^^ b, 0)) ∧
  elementwise .andn 0x0E (fun _ t _ a b _ => (a &&& (2 ^ t.width - 1 - b), 0)) ∧
  elementwise .shl 0x0F (fun _ t _ a k _ => (if t.width ≤ k then 0 else a * 2 ^ k % 2 ^ t.width, 0)) ∧
  elementwise .shr 0x10 (fun _ t _ a k _ => (if t.width ≤ k then 0 else a / 2 ^ k, 0)) ∧
  elementwise .sar 0x11 (fun _ t _ a k _ => (wrap t.width (sInt t.width a / 2 ^ (min k t.width)), 0)) ∧
  elementwise .rotl 0x12 (fun _ t _ a k _ =>
    ((a * 2 ^ (k % t.width) % 2 ^ t.width) ||| (a / 2 ^ (t.width - k % t.width)), 0)) ∧
  elementwise .rshr 0x1B (fun _ t _ a k _ =>
    (if k = 0 then a else if t.width + 1 < k then 0 else wrap t.width ((tyVal t a + 2 ^ (k - 1)) / 2 ^ k), 0)) ∧
  elementwise .clz 0x13 (fun _ t _ a _ _ => (t.width - bitLen a, 0)) ∧
  elementwise .popc 0x14 (fun _ t _ a _ _ => (popCount t.width a, 0)) ∧
  elementwise .brev 0x15 (fun _ t _ a _ _ => (reverseBits t.width a, 0))

/-- IDIV and IREM truncate toward zero, the remainder has the sign of the dividend, and each borderline case gives its value and sets SATF.SAT; no other
case sets a flag (spec/05 R123). So `idiv` and `irem` complete. -/
def Obligations.DivisionFollowsItsTable : Prop :=
  let borderline (t : Ty) (a b : Nat) : Bool := tyVal t b == 0 || (t.isSigned && tyVal t a == intMin true t.width && tyVal t b == -1)
  let quotient (t : Ty) (a b : Nat) : Nat :=
    if tyVal t b = 0 then
      if t.isSigned = false then 2 ^ t.width - 1 else if 0 ≤ tyVal t a then 2 ^ (t.width - 1) - 1 else 2 ^ (t.width - 1)
    else if borderline t a b then 2 ^ (t.width - 1) - 1
    else wrap t.width ((tyVal t a).tdiv (tyVal t b))
  let remainder (t : Ty) (a b : Nat) : Nat :=
    if tyVal t b = 0 then a else if borderline t a b then 0 else wrap t.width ((tyVal t a).tmod (tyVal t b))
  elementwise .idiv 0x05 (fun _ t _ a b _ => (quotient t a b, if borderline t a b then flagSat else 0)) ∧
  elementwise .irem 0x06 (fun _ t _ a b _ => (remainder t a b, if borderline t a b then flagSat else 0)) ∧
  ∀ t : Ty, t.isInt = true → ∀ a b, a < 2 ^ t.width → b < 2 ^ t.width → borderline t a b = false →
    ∃ q r : Int, tyVal t a = q * tyVal t b + r ∧ |r| < |tyVal t b| ∧ (r = 0 ∨ (0 < r ↔ 0 < tyVal t a)) ∧
      tyVal t (quotient t a b) = q ∧ tyVal t (remainder t a b) = r

/-- BFX and BFI take the field at bits 7:0 of the control value, of the length in its bits 15:8, cut to the element (spec/05 R124).
LEA adds b scaled by its immediate, MOV copies the pattern of a, of an f6e3 element its six low bits, MOVL adds e times b into the element whose number in the
register is e (spec/05 R125; spec/02 R49). Each of `bfx`, `bfi`, `lea`, `mov` and `movl` completes so. -/
def Obligations.FieldAndMoveForms : Prop :=
  let pos (ctl : Nat) : Nat := ctl % 256
  let len (t : Ty) (ctl : Nat) : Nat := if pos ctl < t.width then min (ctl / 256 % 256) (t.width - pos ctl) else 0
  let bitsOf (x lo n : Nat) : Nat := x / 2 ^ lo % 2 ^ n
  elementwise .bfx 0x16 (fun _ t _ a ctl _ =>
    (if len t ctl = 0 then 0
     else if t.isSigned then wrap t.width (sInt (len t ctl) (bitsOf a (pos ctl) (len t ctl)))
     else bitsOf a (pos ctl) (len t ctl), 0)) ∧
  elementwise .bfi 0x17 (fun _ t _ a b ctl =>
    (if len t ctl = 0 then a else a - bitsOf a (pos ctl) (len t ctl) * 2 ^ pos ctl + bitsOf b 0 (len t ctl) * 2 ^ pos ctl, 0)) ∧
  elementwise .lea 0x18 (fun w t _ a b _ => (wrap t.width (tyVal t a + tyVal t b * 2 ^ (smallOf w.c).toNat), 0)) ∧
  elementwise .mov 0x19 (fun _ t _ a _ _ => (if t = .f6e3 then a % 64 else a, 0)) ∧
  elementwise .movl 0x1A (fun _ t e a b _ => (wrap t.width (tyVal t a + e * tyVal t b), 0))

/-- For patterns of an integer type the formulas of R122 are the two's complement operations of that width (spec/05 R122; spec/02 R48). -/
def Obligations.WrappingIsModularArithmetic : Prop :=
  ∀ t : Ty, t.isInt = true → ∀ a b : BitVec t.width,
    wrap t.width (tyVal t a.toNat + tyVal t b.toNat) = (a + b).toNat ∧
    wrap t.width (tyVal t a.toNat - tyVal t b.toNat) = (a - b).toNat ∧
    wrap t.width (tyVal t a.toNat * tyVal t b.toNat) = (a * b).toNat ∧
    a.toNat &&& (2 ^ t.width - 1 - b.toNat) = (a &&& ~~~b).toNat ∧
    (t.isSigned = true → (tyVal t a.toNat ≤ tyVal t b.toNat ↔ a.sle b)) ∧
    (t.isSigned = false → (tyVal t a.toNat ≤ tyVal t b.toNat ↔ a.ule b)) ∧
    (∀ i, (sarVal t a.toNat i) = (a.sshiftRight i).toNat) ∧
    (∀ i, (rotlVal t a.toNat i) = (a.rotateLeft i).toNat) ∧
    (∀ i, i < t.width → (reverseBits t.width a.toNat).testBit i = a.getLsbD (t.width - 1 - i))

/-! ### Compares, masks and selects -/

/-- ICMP, FCMP and FCLASS write the truth of their condition into every granule bit of each element they write (spec/05 R126, R127, R128; spec/01 R28). So
`icmp`, `fcmp` and `fclass` complete. -/
def Obligations.ComparesWriteTruth : Prop :=
  let holds (op : Nat) (ty : IWord → Ty) (p : IWord → Ty → Nat → Nat → Bool) (w : IWord) : Env → State → State := computing op w fun e =>
    e.results w (ty w) (typedWs w) 1 false fun _ lane i _ =>
      (if p w (ty w) (e.elem w (ty w) (typedWs w) w.a 0 lane i) (e.elem w (ty w) (typedWs w) w.b 0 lane i) then 1 else 0, 0)
  let int (w : IWord) (t : Ty) (a b : Nat) : Bool := match condOf w with
    | 0 => a == b | 1 => a != b
    | 2 => decide (tyVal t a < tyVal t b) | 3 => decide (tyVal t a ≤ tyVal t b) | 4 => decide (tyVal t a > tyVal t b) | 5 => decide (tyVal t a ≥ tyVal t b)
    | 6 => (a &&& b) != 0 | _ => (a &&& b) == 0
  let float (w : IWord) (t : Ty) (a b : Nat) : Bool :=
    let f := Fmt.ofTy t
    match condOf w with
    | 0 => fEq f a b | 1 => !fEq f a b
    | 2 => fLess f a b | 3 => fLess f a b || fEq f a b | 4 => fLess f b a | 5 => fLess f b a || fEq f a b
    | 6 => !(isNaN f a || isNaN f b) | _ => isNaN f a || isNaN f b
  let cls (w : IWord) (t : Ty) (a _ : Nat) : Bool := ((immInt w w.b).getD 0).toNat.testBit (fClass (Fmt.ofTy t) a)
  CompletesAlways .icmp 0x20 (holds 0x20 typedTy int) ∧
  CompletesAlways .fcmp 0x21 (holds 0x21 floatTy float) ∧
  CompletesAlways .fclass 0x22 (holds 0x22 floatTy cls)

/-- SEL takes a where the mask bit of the element's lowest granule is 1, else b; an s-register destination tests bit 0; of an f6e3 element it writes the six
low bits (spec/05 R129; spec/02 R49). So `sel` completes. -/
def Obligations.SelectTakesAWhereTheMaskIsSet : Prop :=
  CompletesAlways .sel 0x23 fun w => computing 0x23 w fun e =>
    let t := typedTy w
    let granule (lane i : Nat) : Nat := match w.d with
      | .vec k _ => (e.unitOff (typedWs w) k.val lane + t.width * i) / 4
      | _ => 0
    e.results w t (typedWs w) 1 false fun _ lane i _ =>
      let x := if (e.maskOf w.c).getLsbD (granule lane i) then e.elem w t (typedWs w) w.a 0 lane i else e.elem w t (typedWs w) w.b 0 lane i
      (if t = .f6e3 then x % 64 else x, 0)

/-- PLOG combines two masks bit by bit through its truth table, in the bits of the path's threads or, in slot P, in all of them; the three forms of PMOV
move granules as their table says (spec/05 R130, R131). So `plog`, `pmovMm`, `pmovMv` and `pmovVm` complete. -/
def Obligations.MaskLogicAndMoves : Prop :=
  CompletesAlways .plog 0x24 (fun w => computing 0x24 w fun e =>
    ⟨maskRes w e (plogBits (condOf w) (e.maskOf w.a) (e.maskOf w.b)) e.pathBits, 0, false⟩) ∧
  (∀ tt a b i, i < 1024 → (plogBits tt a b).getLsbD i = tt.testBit (2 * b2n (a.getLsbD i) + b2n (b.getLsbD i))) ∧
  (∀ e : Env, e.view.inSlot = false → ∀ i, i < 1024 → e.pathBits.getLsbD i = e.mask.getLsbD (i / 32)) ∧
  (∀ e : Env, e.view.inSlot = true → e.pathBits = BitVec.allOnes 1024) ∧
  CompletesAlways .pmovMm 0x25 (fun w => computing 0x25 w fun e =>
    e.results w .n4 false 1 false fun _ lane i _ => (if e.elem w .n4 false w.a 0 lane i ≠ 0 then 1 else 0, 0)) ∧
  CompletesAlways .pmovMv 0x25 (fun w => computing 0x25 w fun e =>
    e.results w .n4 false 1 false fun _ lane i _ => (if e.elem w .n4 false w.a 0 lane i ≠ 0 then 0xF else 0, 0)) ∧
  CompletesAlways .pmovVm 0x25 (fun w => computing 0x25 w fun e =>
    e.results w .n4 false 1 false fun _ lane i _ => (if e.elem w .n4 false w.a 0 lane i ≠ 0 then 1 else 0, 0))

/-- PCNT counts the candidate bits that are 1, and PFIRST gives the thread or bit number of the lowest, 32 or 1,024 if there is none. The candidates are the
thread bits, or with G = 1 every bit, of the path's threads in SIMT and of all in slot S; a legal word names an s register, a mask, and G in EXT bit 0 (spec/05
R132). So `pcnt` and `pfirst` complete. -/
def Obligations.MaskCountsSeeTheCandidates : Prop :=
  let cand (w : IWord) (e : Env) : List Nat := e.candidates (w.ext.getLsbD 0) (e.maskOf w.a)
  CompletesAlways .pcnt 0x26 (fun w => computing 0x26 w fun e => e.sResult w (cand w e).length) ∧
  CompletesAlways .pfirst 0x27 (fun w => computing 0x27 w fun e =>
    e.sResult w (match (cand w e).head? with
      | some b => if w.ext.getLsbD 0 then b else b / 32
      | none => if w.ext.getLsbD 0 then 1024 else 32)) ∧
  (∀ (e : Env) (g : Bool) (m : MaskBits) (b : Nat), b ∈ e.candidates g m ↔
    b < 1024 ∧ (g = true ∨ b % 32 = 0) ∧ (e.view.inSlot = true ∨ e.mask.getLsbD (b / 32) = true) ∧ m.getLsbD b = true) ∧
  (∀ (e : Env) (g : Bool) (m : MaskBits), (e.candidates g m).Pairwise (· < ·)) ∧
  ∀ v rows w, legalIn v rows (.pcnt w) = true ∨ legalIn v rows (.pfirst w) = true →
    (v = .simt ∨ v = .slot .s0 ∨ v = .slot .s1) ∧ w.ext.toNat ≤ 1 ∧ (∃ n, w.d = .sreg n) ∧ (∃ m, w.a = .mask m) ∧ w.b = zeroOperand ∧ w.c = zeroOperand

/-! ### Float arithmetic, conversions and functions -/

/-- Each of `fadd`, `fsub`, `fmul`, `ffma`, `fmin`, `fmax`, `fneg`, `fabs`, `frnd`, `fscale`, `fdot2` and `fdot4` completes, and writes the result of the table
of R155 for each element it writes, rounded once under the mode of the word or of RMODE (spec/06 R155 to R157; spec/02 R57, R58): `fAdd`, `fSub`, `fMul`, `fFma`,
`fRnd` and `fScale` round the exact result; FSCALE takes n from b as a signed integer; FDOT2 and FDOT4 round the exact sum of their products and c; FMIN, FMAX,
FNEG and FABS do not round. That FSCALE cuts n to plus or minus 2^14 and widens the literal n of an f64 as i64 is the model's reading (DEDUCED, log entry 14). -/
def Obligations.FloatFormsComplete : Prop :=
  let rounding (mk : IWord → Instr) (op : Nat) (f : Fmt → RMode → Nat → Nat → Nat → Nat → Nat × Nat) : Prop :=
    CompletesAlways mk op fun w => computing op w fun e =>
      let t := floatTy w
      let m := e.mode (rndCode w)
      e.results w t (typedWs w) 1 (m == .sr) fun _ lane i n => f (Fmt.ofTy t) m (e.randIf m n)
        (e.elem w t (typedWs w) w.a 0 lane i) (e.elem w t (typedWs w) w.b 0 lane i) (e.elem w t (typedWs w) w.c 0 lane i)
  let exact (mk : IWord → Instr) (op : Nat) (f : Fmt → Nat → Nat → Nat) : Prop :=
    CompletesAlways mk op fun w => computing op w fun e =>
      let t := floatTy w
      e.results w t (typedWs w) 1 false fun _ lane i _ =>
        (f (Fmt.ofTy t) (e.elem w t (typedWs w) w.a 0 lane i) (e.elem w t (typedWs w) w.b 0 lane i), 0)
  let dot (mk : IWord → Instr) (op : Nat) (ty : IWord → Ty) : Prop :=
    CompletesAlways mk op fun w => computing op w fun e =>
      let m := e.mode (rndCode w)
      let k := 32 / (ty w).width
      e.results w .f32 (typedWs w) 1 (m == .sr) fun _ lane i n =>
        let val (o : Operand) (j : Nat) : FVal :=
          let x := e.elem w (ty w) (typedWs w) o 0 lane (k * i + j)
          fDecode (Fmt.ofTy (ty w)) (if ty w == .f6e3 then x % 64 else x)
        roundSum .f32 m (e.randIf m n) Fmt.f32.canonNaN
          (sumTerms m ((List.range k).map (fun j => (val w.a j).mul (val w.b j)) ++ [fDecode .f32 (e.elem w .f32 (typedWs w) w.c 0 lane i)]))
  rounding .fadd 0x30 (fun f m r a b _ => fAdd f m r a b) ∧
  rounding .fsub 0x31 (fun f m r a b _ => fSub f m r a b) ∧
  rounding .fmul 0x32 (fun f m r a b _ => fMul f m r a b) ∧
  rounding .ffma 0x33 (fun f m r a b c => fFma f m r a b c) ∧
  exact .fmin 0x34 (fun f a b =>
    if isNaN f a && isNaN f b then quiet f a else if isNaN f a then b else if isNaN f b then a else if fRank f a < fRank f b then a else b) ∧
  exact .fmax 0x35 (fun f a b =>
    if isNaN f a && isNaN f b then quiet f a else if isNaN f a then b else if isNaN f b then a else if fRank f a < fRank f b then b else a) ∧
  exact .fneg 0x36 (fun f a _ => a ^^^ 2 ^ (f.width - 1)) ∧
  exact .fabs 0x37 (fun f a _ => a % 2 ^ (f.width - 1)) ∧
  rounding .frnd 0x38 (fun f m r a _ _ => fRnd f m r a) ∧
  (CompletesAlways .fscale 0x39 fun w => computing 0x39 w fun e =>
    let t := floatTy w
    let m := e.mode (rndCode w)
    e.results w t (typedWs w) 1 (m == .sr) fun _ lane i n => fScale (Fmt.ofTy t) m (e.randIf m n) (e.elem w t (typedWs w) w.a 0 lane i)
      (sInt t.width (e.elem w (match t with | .f64 => .i64 | .f32 => .i32 | _ => .i16) (typedWs w) w.b 0 lane i))) ∧
  dot .fdot2 0x3A (fun w => if w.ext.toNat % 4 = 0 then .bf16 else .f16) ∧
  dot .fdot4 0x3B (fun w => if w.ext.toNat % 4 = 0 then .f8e4 else if w.ext.toNat % 4 = 1 then .f8e5 else .f6e3)

/-- A finite value that a format represents is its own rounding in every mode, and sets no flag (spec/02 R56: RoundTo). FMIN, FMAX, FNEG and FABS as R155
gives them: -0 goes below +0, one NaN gives the other operand, and FNEG and FABS keep a NaN's payload (spec/06 R155). -/
def Obligations.RoundingAndOrderOfFloats : Prop :=
  (∀ f ∈ [Fmt.f64, .f32, .f16, .bf16, .f8e4, .f8e5, .f6e3, .f4e2], ∀ mode rnd x, x < 2 ^ f.width →
    ∀ neg m e, fDecode f x = .fin neg m e → m ≠ 0 → roundTo f mode rnd ⟨neg, m, e, false⟩ = (x, 0)) ∧
  ∀ f ∈ [Fmt.f64, .f32, .f16, .bf16],
    (∀ m, fMinMax f false (2 ^ (f.width - 1)) 0 = 2 ^ (f.width - 1) ∧ fMinMax f true (2 ^ (f.width - 1)) 0 = 0 ∧
      (∀ x, isNaN f x = false → isNaN f m = true → fMinMax f false m x = x ∧ fMinMax f false x m = x ∧ fMinMax f true m x = x ∧ fMinMax f true x m = x)) ∧
    (∀ x, x < 2 ^ f.width → fMag f (x ^^^ 2 ^ (f.width - 1)) = fMag f x ∧ fSign f (x ^^^ 2 ^ (f.width - 1)) = !fSign f x ∧
      fMag f (x % 2 ^ (f.width - 1)) = fMag f x ∧ fSign f (x % 2 ^ (f.width - 1)) = false)

/-- Each of `fcvt`, `icvt`, `pack`, `unpk` and `bscale` completes, and sends what R160 to R165 give each element it writes: FCVT rounds the source's value, ICVT
saturates an integer or rounds to one or from one, PACK saturates the elements of a and then of b, UNPK widens, BSCALE rounds the value times its scale; the
place of a source element in a pair or quad is that of R159. An f6e3 source gives its six low bits (spec/06 R159 to R165; spec/02 R49). What UNPK.f6e3p takes
from an operand that is no class-00 register is the model's choice (log entry 64). -/
def Obligations.ConversionsComplete : Prop :=
  let place (wd ws q i : Nat) : Nat × Nat := if ws ≤ wd then (0, q * (128 / wd) + i) else (i / (128 / ws), i % (128 / ws))
  let span (wd ws : Nat) : Nat := if wd = 2 * ws then 2 else if wd = 4 * ws then 4 else 1
  let cell (t : Ty) (x : Nat) : Nat := if t == .f6e3 then x % 64 else x
  let converting (w : IWord) (dt st : Ty) (sr : Bool) (f : Env → Nat → Nat → Nat → Nat → Nat × Nat) (e : Env) : Out :=
    e.results w dt false (span dt.width st.width) sr fun q lane i n =>
      let p := place dt.width st.width q i
      f e n lane p.2 (e.elem w st false w.a p.1 lane p.2)
  let dt3 (w : IWord) : Ty := Ty.ofCode3 (w.ext.toNat / 8 % 8)
  let st3 (w : IWord) : Ty := Ty.ofCode3 (w.ext.toNat % 8)
  let mode (w : IWord) (e : Env) : RMode := e.mode (smallOf w.c).toNat
  CompletesAlways .fcvt 0x40 (fun w => computing 0x40 w fun e =>
    converting w (dt3 w) (st3 w) (mode w e == .sr) (fun e n _ _ x =>
      fConv (Fmt.ofTy (st3 w)) (Fmt.ofTy (dt3 w)) (mode w e) (e.randIf (mode w e) n) (cell (st3 w) x)) e) ∧
  CompletesAlways .icvt 0x41 (fun w => computing 0x41 w fun e =>
    let dt := typedTy w
    let st := (Ty.ofCode (smallOf w.b).toNat).getD .i32
    let sat (r : Nat × Bool) : Nat × Nat := (r.1, if r.2 then flagSat else 0)
    let sr := !(dt.isInt && st.isInt) && mode w e == .sr
    converting w dt st sr (fun e n _ _ x =>
      if dt.isInt && st.isInt then sat (satTo dt.isSigned dt.width (tyVal st x))
      else if dt.isInt then fToInt (Fmt.ofTy st) dt.isSigned dt.width (mode w e) (e.randIf (mode w e) n) x
      else intToF (Fmt.ofTy dt) (mode w e) (e.randIf (mode w e) n) (tyVal st x)) e) ∧
  CompletesAlways .pack 0x42 (fun w => computing 0x42 w fun e =>
    match packSrc w.ext.toNat with
    | some (.f6e3p, _) =>
      e.results w .n8 false 1 false fun _ lane i _ => (if i < 12 then packByte (fun j => e.elem w .f6e3 false w.a 0 lane j) i else 0, 0)
    | some (dt, st) =>
      e.results w dt false 1 false fun _ lane i _ =>
        let x := if i < 128 / st.width then e.elem w st false w.a 0 lane i else e.elem w st false w.b 0 lane (i - 128 / st.width)
        let r := satTo dt.isSigned dt.width (tyVal st x)
        (r.1, if r.2 then flagSat else 0)
    | none => ⟨[], 0, false⟩) ∧
  CompletesAlways .unpk 0x43 (fun w => computing 0x43 w fun e =>
    if typedTy w == .f6e3p then
      e.results w .f6e3 false 1 false fun _ lane i _ => (unpackVal (fun j => e.elem w .n8 false w.a 0 lane j) i, 0)
    else
      let dt : Ty := match typedTy w with | .i16 => .i32 | .n16 => .n32 | .i8 => .i16 | .n8 => .n16 | .i4 => .i8 | _ => .n8
      e.results w dt false 2 false fun q lane i _ =>
        (wrap dt.width (tyVal (typedTy w) (e.elem w (typedTy w) false w.a 0 lane (q * (128 / dt.width) + i))), 0)) ∧
  CompletesAlways .bscale 0x44 (fun w => computing 0x44 w fun e =>
    converting w (dt3 w) (st3 w) (e.mode 0 == .sr) (fun e n lane j x =>
      fScaled (Fmt.ofTy (st3 w)) (Fmt.ofTy (dt3 w)) (e.mode 0) (e.randIf (e.mode 0) n) (cell (st3 w) x)
        (e.scaleByte w (st3 w).width lane j (smallOf w.c).toNat)) e) ∧
  (∀ signed : Bool, ∀ n v, satTo signed n v = (if v < intMin signed n then (wrap n (intMin signed n), true)
    else if intMax signed n < v then (wrap n (intMax signed n), true) else (wrap n v, false))) ∧
  (∀ (f : Nat → Nat) (i : Nat), (∀ j, f j < 64) → i < 16 → unpackVal (packByte f) i = f i)

/-- Each of `perm`, `shuf`, `bcast`, `ballot`, `vote` and `xmov` completes. PERM picks its bytes from the 32 bytes of a and b; SHUF its unit from the lane its mode
names, for the lanes whose predicate bit 32t is 1; BCAST one element for all; BALLOT gathers the thread bits; VOTE combines them and writes every granule bit of
those lanes; XMOV moves a cluster register; of an f6e3 element BCAST and XMOV write the six low bits (spec/06 R167 to R172; spec/02 R49). -/
def Obligations.LaneMovesComplete : Prop :=
  let cell (t : Ty) (x : Nat) : Nat := if t == .f6e3 then x % 64 else x
  CompletesAlways .perm 0x50 (fun w => computing 0x50 w fun e =>
    e.results w .b128 false 1 false fun _ lane _ _ =>
      let c := e.elem w .b128 false w.c 0 lane 0
      let q (j : Nat) : Nat := match w.c with | .sreg _ => bits c (8 * (j % 8)) 8 | _ => bits c (8 * j) 8
      ((gatherBits ((List.range 16).map fun j => (8 * j, 8, permByte (e.elem w .b128 false w.a 0 lane 0) (e.elem w .b128 false w.b 0 lane 0) (q j)))).1, 0)) ∧
  CompletesAlways .shuf 0x51 (fun w => computing 0x51 w fun e =>
    match w.d with
    | .vec k n =>
      let ws := typedWs w
      let t : Ty := if ws then .n32 else .b128
      let src (lane : Nat) : Nat :=
        let x := e.elem w .n32 ws w.b 0 lane 0
        match w.ext.toNat % 4 with
        | 0 => x % e.lanes
        | 1 => if x ≤ lane then lane - x else lane
        | 2 => if lane + x < e.lanes then lane + x else lane
        | _ => (lane ^^^ (x % e.lanes)) % e.lanes
      let g := gatherBits ((e.lanesOn w).map fun lane => (e.unitOff ws k.val lane, t.width, e.elem w t ws w.a 0 (src lane) 0))
      ⟨[{ reg := .v (physRow e.w.vrot n.val) (if e.view.inSlot || ws then 2 ^ k.val else 15), spec := encodeSpec w.d, value := g.1, mask := g.2 }], 0, false⟩
    | _ => ⟨[], 0, false⟩) ∧
  CompletesAlways .bcast 0x52 (fun w => computing 0x52 w fun e =>
    let t := typedTy w
    let per := 128 / t.width
    e.results w t false 1 false fun _ lane _ _ =>
      let k := (match w.b with | .vec _ _ => e.elem w .n32 false w.b 0 lane 0 | o => e.elem w .n64 false o 0 lane 0) % (e.lanes * per)
      (cell t (e.elem w t false w.a 0 (k / per) (k % per)), 0)) ∧
  CompletesAlways .ballot 0x53 (fun w => computing 0x53 w (ballotOut w)) ∧
  (∀ w (e : Env) n, w.d = .sreg n → n ≠ 0 → ∃ r, (ballotOut w e).writes = [r] ∧ r.reg = .s n.val ∧ r.mask = 2 ^ 64 - 1 ∧
    ∀ t, r.value.testBit t = true ↔ t ∈ e.lanesOn w ∧ (e.maskOf w.a).getLsbD (32 * t) = true) ∧
  CompletesAlways .vote 0x54 (fun w => computing 0x54 w fun e =>
    let v := (e.lanesOn w).map fun t => (e.maskOf w.a).getLsbD (32 * t)
    let r := match w.ext.toNat % 4 with | 0 => v.any id | 1 => v.all id | _ => v.all id || v.all not
    ⟨maskRes w e (if r then BitVec.allOnes 1024 else 0) (BitVec.ofNat 1024 (laneBits (e.lanesOn w))), 0, false⟩) ∧
  CompletesAlways .xmov 0x59 (fun w => computing 0x59 w fun e =>
    e.results w (typedTy w) false 1 false fun _ lane i _ => (cell (typedTy w) (e.elem w (typedTy w) false w.a 0 lane i), 0)) ∧
  (∀ a b q : Nat, a < 2 ^ 128 → b < 2 ^ 128 →
    permByte a b q = if q.testBit 7 then 0 else if q % 32 < 16 then a / 2 ^ (8 * (q % 32)) % 256 else b / 2 ^ (8 * (q % 32 - 16)) % 256) ∧
  (∀ f : Nat → Nat, (∀ j, f j < 256) → ∀ j < 16, (gatherBits ((List.range 16).map fun j => (8 * j, 8, f j))).1 / 2 ^ (8 * j) % 256 = f j)

/-- Each of `redx`, `maxi`, `mini` and `scanx` completes. REDX writes to every lane the root of the tree over the participating elements of its position, SCANX the
running value of its lane; MAXI and MINI write the winner's value and index. The tree of an integer add is the wrapped sum of the participating elements, and an
absent side of a node gives the other side unchanged; a scan of integer adds is the wrapped sum of the elements up to its lane (spec/06 R173 to R176). -/
def Obligations.ReductionsComplete : Prop :=
  let leaf (e : Env) (w : IWord) (p lane : Nat) : Option Nat :=
    if e.takesPart w (typedTy w) (typedWs w) lane p then some (e.elem w (typedTy w) (typedWs w) w.a 0 lane p) else none
  let op (w : IWord) : Nat := (smallOf w.c).toNat % 8
  let sr (e : Env) (w : IWord) : Bool := e.mode 0 == .sr && (typedTy w).isFloat && op w == 0
  let rnd (e : Env) (w : IWord) (p lane : Nat) : Nat := e.randIf (e.mode 0) (e.elemNo w (typedTy w) (typedWs w) lane p)
  CompletesAlways .redx 0x55 (fun w => computing 0x55 w fun e =>
    e.results w (typedTy w) (typedWs w) 1 (sr e w) fun _ _ i _ =>
      (((List.range (perUnit (typedTy w) (typedWs w))).map fun p =>
        tree (typedTy w) (op w) (e.mode 0) (rnd e w p) (fun lane => (leaf e w p lane).map fun x => (x, 0)) e.levels 0).getD i none).getD (0, 0)) ∧
  CompletesAlways .scanx 0x58 (fun w => computing 0x58 w fun e =>
    e.results w (typedTy w) (typedWs w) 1 (sr e w) fun _ lane i _ =>
      scanAt (((List.range (perUnit (typedTy w) (typedWs w))).map fun p =>
        scan (typedTy w) (op w) (e.mode 0) (bit (smallOf w.c).toNat 3) (rnd e w p) (leaf e w p) (List.range e.lanes) (identityOf (typedTy w) (op w))).getD i []) lane) ∧
  CompletesAlways .maxi 0x56 (fun w => computing 0x56 w (maxiOut true w)) ∧
  CompletesAlways .mini 0x57 (fun w => computing 0x57 w (maxiOut false w)) ∧
  (∀ (t : Ty) (isMax : Bool) (l : List (Nat × Nat)) v n, winner t isMax l = some (v, n) → (v, n) ∈ l ∧
    ∀ x ∈ l, rankBefore t isMax x.1 v = false ∧ (rankBefore t isMax v x.1 = false → n ≤ x.2)) ∧
  (∀ t op mode rnd x, treeNode t op mode rnd x none = x ∧ treeNode t op mode rnd none x = x) ∧
  (∀ t : Ty, t.isInt = true → ∀ (rnd : Nat → Nat) (leaf : Nat → Option Nat), (∀ l x, leaf l = some x → x < 2 ^ t.width) → ∀ n r,
    tree t 0 .rne rnd (fun l => (leaf l).map fun x => (x, 0)) n 0 = some r →
      r = (wrap t.width ((List.range (2 ^ n)).map fun l => match leaf l with | some x => tyVal t x | none => 0).sum, 0)) ∧
  (∀ t : Ty, t.isInt = true → ∀ (rnd : Nat → Nat) (leaf : Nat → Option Nat), (∀ l x, leaf l = some x → x < 2 ^ t.width) → ∀ n l, l < n → (leaf l).isSome = true →
    scanAt (scan t 0 .rne false rnd leaf (List.range n) 0) l =
      (wrap t.width ((List.range (l + 1)).map fun k => match leaf k with | some x => tyVal t x | none => 0).sum, 0))

/-- Each of `exp2`, `log2`, `rcp`, `rsq`, `sqrt`, `sinp`, `cosp`, `rndw`, `trn` and `trnw` completes with its result (the model computes the first seven
from fixed-point series of 512 bits: DEDUCED, log entry 4), and `act` on a bank that is not busy: ACT sends
the bank's function of each element, and its results are marked with the bank until the unit has produced them (spec/06 R177, R181, R183, R184; spec/08 R236;
spec/02 R49). -/
def Obligations.FunctionsAndTransposesComplete : Prop :=
  let function (mk : IWord → Instr) (op : Nat) (f : RMode → Nat → Nat → Nat × Nat) : Prop :=
    CompletesAlways mk op fun w => computing op w fun e =>
      e.results w .f32 (typedWs w) 1 (e.mode (rndCode w) == .sr) fun _ lane i n =>
        f (e.mode (rndCode w)) (e.randIf (e.mode (rndCode w)) n) (e.elem w .f32 (typedWs w) w.a 0 lane i)
  function .exp2 0x60 fExp2 ∧ function .log2 0x61 fLog2 ∧ function .rcp 0x62 fRcp ∧ function .rsq 0x63 fRsq ∧
  function .sqrt 0x64 fSqrt ∧ function .sinp 0x65 fSinp ∧ function .cosp 0x66 fCosp ∧
  CompletesWhen .act 0x67 (fun _ e s => ∀ x ∈ (s.core e.core).sft, x.bank ≠ e.bank) (fun w e s =>
    (s.commit e (wordLat e 0x67 w) (functionOut w (fAct (if e.w.csr.sfbank % 2 = 0 then e.table0 else e.table1)) e)).markAct e (s.warp e.key).inflight.length
      (wordLat e 0x67 w)) ∧
  CompletesAlways .rndw 0x69 (fun w => computing 0x69 w fun e =>
    let draw (lane : Nat) : Nat := (whisk (BitVec.ofNat 128 (e.elem w .b128 false w.a 0 lane 0)) (BitVec.ofNat 64 (e.uniform w .n64 w.b))).toNat
    if typedWs w then e.results w .n32 true 1 false fun _ lane _ _ => (bits (draw lane) (32 * (match w.d with | .vec k _ => k.val | _ => 0)) 32, 0)
    else e.results w .b128 false 1 false fun _ lane _ _ => (draw lane, 0)) ∧
  CompletesAlways .trn 0xCA (fun w => computing 0xCA w fun e =>
    e.results w (typedTy w) false 1 false fun _ lane i _ =>
      let x := e.elem w (typedTy w) false w.a 0 (i % 8) (8 * (i / 8) + lane)
      (if typedTy w == .f6e3 then x % 64 else x, 0)) ∧
  CompletesAlways .trnw 0xCB (fun w => computing 0xCB w fun e =>
    let q := if (typedTy w).width = 32 then 2 else 4
    e.results w (typedTy w) false q false fun r lane i _ =>
      (e.elem w (typedTy w) false w.a (lane / (8 / q)) (r * (8 / q) + i) (lane % (8 / q)), 0))
/-! ### Memory, registers and the machine as a whole -/

/-- Right after reset no image has been read, ccnt is 0, memory lists nothing and has its canonical form, and nothing is resident or in flight (spec/21
R452; spec/00 R4). That the flash is empty and that unlisted bytes read as 0 are the model's choices (log entries 1 and 6). -/
def Obligations.ResetState : Prop :=
  State.reset.boot.code = 0 ∧ State.reset.ready = false ∧ State.reset.ccnt = 0 ∧ State.reset.mem = [] ∧ Memory.wf State.reset.mem = true ∧
  State.reset.warps = [] ∧ State.reset.accs = [] ∧ State.reset.host.leased = false ∧ (∀ p, (State.reset.part p).state = .none) ∧
  (∀ d, (State.reset.die d).wsWrite = false ∧ (State.reset.die d).thermal = 0) ∧ (∀ q, (State.reset.queue q).en = false)

/-- A byte written reads back, every other byte is as it was, and writing keeps the canonical form of memory, in which equal memories are equal data
(the form, and that an unlisted byte reads as 0, are the model's choice, log entry 1; spec/11 R302). -/
def Obligations.MemoryReadsWhatWasWritten : Prop :=
  (∀ m a v b, memGet (memPut m a v) b = if b = a then v else memGet m b) ∧
  (∀ m a l b, memGet (memWrite m a l) b = if a ≤ b ∧ b < a + l.length then l.getD (b - a) 0 else memGet m b) ∧
  (∀ m a v, Memory.wf m = true → Memory.wf (memPut m a v) = true) ∧
  (∀ m a l, Memory.wf m = true → Memory.wf (memWrite m a l) = true) ∧
  (∀ m n, Memory.wf m = true → Memory.wf n = true → (∀ a, memGet m a = memGet n a) → m = n) ∧
  (∀ m a n v, v < 2 ^ (8 * n) → leNat (memRead (memWrite m a (natLe n v)) a n) = v)

/-- Every step keeps the canonical form of memory: addresses strictly rising, no entry equal to what an unlisted address reads as.
The form is the model's own (DESIGN CHOICE, log entry 1), in which the memory of spec/11 R302 is held. -/
def Obligations.MemoryStaysCanonical : Prop :=
  ∀ s t, Memory.wf s.mem = true → step s = .next t → Memory.wf t.mem = true

/-- A step always goes on: it answers a next state, never a fault or a refusal, and so does every instruction. What the spec has stop an instruction is a trap,
which is handled or ends the partition's work (spec/19 R417, R420); that an event whose condition does not hold, and an instruction with no issuer, leave the state
as it is, is the model's choice (DESIGN CHOICE, log entry 2). -/
def Obligations.EveryStepGoesOn : Prop := (∀ s, goesOn s) ∧ ∀ i s, ∃ t, exec i s = .next t

/-- s0 reads zero and a write to it is discarded; a row or mask name above the fixed ones stands for a register moved by the rotation base, and each name
of a class for a register of its own (spec/01 R26, R31). -/
def Obligations.NamesOfRegisters : Prop :=
  (∀ w : Warp, w.sreg 0 = 0) ∧ (∀ t v, setS t 0 v = t) ∧
  (∀ b n, n < 48 → physRow b n = n) ∧ (∀ b n, 48 ≤ n → n < 64 → 48 ≤ physRow b n ∧ physRow b n < 64) ∧
  (∀ b n m, n < 64 → m < 64 → physRow b n = physRow b m → n = m) ∧
  (∀ b n, n < 8 → physMask b n = n) ∧ (∀ b n, 8 ≤ n → n < 16 → 8 ≤ physMask b n ∧ physMask b n < 16) ∧
  (∀ b n m, n < 16 → m < 16 → physMask b n = physMask b m → n = m) ∧
  (∀ b n, b < 15 → 48 ≤ n → n < 63 → physRow (b + 1) (n + 1) = physRow b n)

/-- A result that lands changes exactly the bits it names of the one register it names, in that warp alone; landing all of them leaves none in flight
(spec/01 R25, R28; spec/19 R419). FIXED_LATENCY_RESULT: the results of a warp or context that are due land in the
order in which they fall due, those that fall due together in issue order, those that are not due stay, paths that waited for a result may issue, and every
other warp is as it was (spec/04 R113; spec/03 R88). So `fixedLatencyResult` completes. -/
def Obligations.ResultsLandInTheirBits : Prop :=
  (∀ (w : Warp) (f : InFlight) n ws, f.reg = .v n ws →
    (w.land f).v.getD n 0 = (w.v.getD n 0 &&& ~~~f.bits) ||| (f.value &&& f.bits) ∧
    (∀ k, k ≠ n → (w.land f).v.getD k 0 = w.v.getD k 0) ∧ (w.land f).s = w.s ∧ (w.land f).m = w.m) ∧
  (∀ (w : Warp) (f : InFlight) n, f.reg = .s n →
    (∀ k, k ≠ n ∨ n = 0 → (w.land f).s.getD k 0 = w.s.getD k 0) ∧ (w.land f).v = w.v ∧ (w.land f).m = w.m ∧
    (n ≠ 0 → (w.land f).s.getD n 0 = (w.s.getD n 0 &&& ~~~f.bits.setWidth 64) ||| (f.value.setWidth 64 &&& f.bits.setWidth 64))) ∧
  (∀ (w : Warp) (f : InFlight) n, f.reg = .m n →
    (∀ k, k ≠ n → (w.land f).m.getD k 0 = w.m.getD k 0) ∧ (w.land f).v = w.v ∧ (w.land f).s = w.s ∧
    (w.land f).m.getD n 0 = (w.m.getD n 0 &&& ~~~f.bits.setWidth 1024) ||| (f.value.setWidth 1024 &&& f.bits.setWidth 1024)) ∧
  (∀ w : Warp, w.landAll.inflight = [] ∧ w.landAll.csr = w.csr ∧ w.landAll.paths = w.paths ∧ w.landAll.vliw = w.vliw) ∧
  ∀ g sl s w, s.warps.get? (slotKey g sl) = some w →
    ∃ t, exec (.fixedLatencyResult g sl) s = .next t ∧ sameOutside s t ∧ t.cores = s.cores ∧ t.groups = s.groups ∧
      (∀ k, k ≠ slotKey g sl → t.warps.get? k = s.warps.get? k) ∧
      let due := fun f : InFlight => decide (f.due ≤ dueNow s g w)
      let x := t.warp (slotKey g sl)
      x.inflight = w.inflight.filter (fun f => !due f) ∧
      (∃ l : List InFlight, l.Perm (w.inflight.filter due) ∧ l.Pairwise (fun f g => f.due ≤ g.due) ∧
        (∀ n, l.filter (fun f => f.due == n) = (w.inflight.filter due).filter (fun f => f.due == n)) ∧
        x.v = (l.foldl Warp.land w).v ∧ x.s = (l.foldl Warp.land w).s ∧ x.m = (l.foldl Warp.land w).m) ∧
      x.csr = w.csr ∧ x.vliw = w.vliw ∧
      ∀ i p, w.paths.get? i = some p → x.paths.get? i = some (if (match p.wait with | .result _ => true | _ => false) then { p with wait := .none } else p)

/-! ### Issue -/

/-- What an issue does before its effect: it stands after the item, the count of committed items rises by one, and no register, no byte of memory and no
other warp changes (spec/08 R239; spec/03 R86, R88). -/
def Obligations.IssueMovesOn : Prop :=
  ∀ op w c s, free op w c s = true →
    let t := begun op w c s
    let e := opEnv op w c s
    sameOutside s t ∧ sameRegisters s t ∧ (∀ k, k ≠ e.key → t.warps.get? k = s.warps.get? k) ∧
    (∀ k, (t.warp k).inflight = (s.warp k).inflight ∧ (t.warp k).csr = (s.warp k).csr) ∧
    match c.party with
    | .path _ _ i =>
      t.cores = s.cores ∧
      ∀ x p, s.warps.get? e.key = some x → x.paths.get? i = some p →
        (t.warp e.key).committed = x.committed + 1 ∧
        (t.warp e.key).paths.get? i = some { p with pc := c.next, wait := .none, released := false, passed := 0, ready := max p.ready (e.acyc + 1 + w.stall.toNat) }
    | .thread _ _ =>
      t.cores = s.cores ∧
      ∀ x v, s.warps.get? e.key = some x → x.vliw = some v →
        (t.warp e.key).committed = x.committed + 1 ∧ (t.warp e.key).slots = x.slots + 1 ∧
        (t.warp e.key).vliw = some { v with pc := c.next, wait := .none, released := false, stall := (headerOf c.header).stall,
                                            yielded := (headerOf c.header).yield, jumped := false }
    | .service _ =>
      t.cores = s.cores ∧
      ∀ x v, s.warps.get? e.key = some x → x.vliw = some v →
        (t.warp e.key).vliw = some { v with pc := c.next, wait := .none, released := false, stall := (headerOf c.header).stall,
                                            yielded := (headerOf c.header).yield, jumped := false }
    | .seq n =>
      t.warps = s.warps ∧ t.groups = s.groups ∧ (∀ k, k ≠ n → t.core k = s.core k) ∧
      ∀ q, (s.core n).seq = some q → (t.core n).seq = some { q with pc := c.next, committed := q.committed + 1, wait := .none }

/-- Every form that only computes completes: exec of `iadd`, `isub`, `imul`, `imulh`, `imad`, `idiv`, `irem`, `imin`, `imax`, `iabs`, `isat`, `and`, `or`, `xor`,
`andn`, `shl`, `shr`, `sar`, `rotl`, `clz`, `popc`, `brev`, `bfx`, `bfi`, `lea`, `mov`, `movl`, `rshr`, `icmp`, `fcmp`, `fclass`, `sel`, `plog`, `pmovMm`,
`pmovMv`, `pmovVm`, `pcnt`, `pfirst`, `fadd`, `fsub`, `fmul`, `ffma`, `fmin`, `fmax`, `fneg`, `fabs`, `frnd`, `fscale`, `fdot2`, `fdot4`, `fcvt`, `icvt`, `pack`,
`unpk`, `bscale`, `perm`, `shuf`, `bcast`, `ballot`, `vote`, `redx`, `maxi`, `mini`, `scanx`, `xmov`, `exp2`, `log2`, `rcp`, `rsq`, `sqrt`, `sinp`, `cosp`,
`rndw`, `trn` and `trnw` answers a next state whenever nothing of the general checks stands before the word; and what they leave unchanged: memory, the accesses
and everything outside the issuers, every register of every warp, and every other warp. The issuer gains results in flight for its destination registers alone, and flags in SATF; a matrix sequencer's destination s register is
written at once, and its flags go to the warps of its block (spec/04 R113; spec/05 R118, R120; spec/08 R218; spec/02 R62, R64). Said of an issuer whose loop
stack is empty: the end of a loop body is another statement. -/
def Obligations.ComputeFormsFrame : Prop :=
  let gains (x y : Warp) : Prop := ∃ flags < 16, y.csr = { x.csr with satf := x.csr.satf ||| BitVec.ofNat 64 flags }
  ∀ f ∈ computeForms, ∀ w c s, free f.2 w c s = true → (∀ x, (opEnv f.2 w c s).w.vliw = some x → x.loops = []) →
    let e := opEnv f.2 w c s
    ∃ t, exec (f.1 w) s = .next t ∧ sameOutside s t ∧ sameRegisters s t ∧
    match c.party with
    | .seq n =>
      (∀ k, (t.warp k).inflight = (s.warp k).inflight ∧ gains (s.warp k) (t.warp k)) ∧ (∀ k, k ≠ n → t.core k = s.core k) ∧
      ∀ q, (s.core n).seq = some q → ∃ r, t.core n = { s.core n with seq := some r } ∧ ∀ m, (∀ d, w.d = .sreg d → m ≠ d.val) → r.s.getD m 0 = q.s.getD m 0
    | _ =>
      t.cores = s.cores ∧ (∀ k, k ≠ e.key → t.warps.get? k = s.warps.get? k) ∧ gains (s.warp e.key) (t.warp e.key) ∧
      ∃ l, (t.warp e.key).inflight = (s.warp e.key).inflight ++ l ∧ ∀ x ∈ l, toDest e w x

/-- What the forms that store, synchronise, copy, move control or act on the matrix engine leave unchanged when their effect takes place: every register of
every warp, every byte of memory, the accesses (but for a scratchpad store that is issued as torn, another statement), time, and, where no latent error is
corrected, the host's and the upkeep's state; results they send are in flight, and the bytes they store in a core's scratchpad are another statement. And each of them completes: exec of `act`, `sts`, `stsx`, `feset`, `feclr`, `pref`, the three `cinv`, `fence`, the `bar`, `racq`,
`rcommit` and `rrel` forms and their `mbar` counterparts, `barq`, `warpsync`, `cpy`, `cseal`, `cwait`, `ctable`, `cquery`, `mload`, `mperm`, `mzero`, `mma`,
`mladr`, `mscale`, `mscaleClr`, `mdrain`, `mwait`, `bra`, `brx`, `call`, `ret`, `join`, `loopDec`, `lbreakZ`, `lbreakNz`, `modeVliw`, `modeSimt`, `nop`, `sleep`,
`getsr`, `setsr`, `clk` and `lpret` answers a next state with that frame whenever neither the general checks nor its own condition stands before it (spec/07 R187,
R190, R204, R208 to R212; spec/08 R217, R238; spec/05 R133 to R149). Said where no log buffer is on, since a log's records are memory, and, of completion, where
the issuer's loop stack is empty. -/
def Obligations.OtherFormsKeepRegistersAndMemory : Prop :=
  let keeps (s t : State) : Prop :=
    t.mem = s.mem ∧ t.ccnt = s.ccnt ∧ t.boot = s.boot ∧ sameRegisters s t ∧ (s.torn = false → sameAccesses s t) ∧
    (s.ras.upsets = [] → t.host = s.host ∧ t.ras = s.ras)
  ∀ mk ∈ keepingForms, ∀ w m, semOf (mk w) = some m →
    (∀ (e : Env) (s : State), (∀ p k, logOn s p k = false) → keeps s (m.eff e s)) ∧
    ∀ c s, free m.op m.w c s = true → m.gate (opEnv m.op m.w c s) s = .ok → (∀ p k, logOn s p k = false) →
      (∀ x, (opEnv m.op m.w c s).w.vliw = some x → x.loops = []) → ∃ t, exec (mk w) s = .next t ∧ keeps s t

/-- The results of a form fall due the form's latency after its issue: in arithmetic cycles in SIMT, in issue slots in VLIW (spec/04 R113; spec/03 R88),
and its flags are set at once (spec/02 R62). -/
def Obligations.ResultsFallDue : Prop :=
  ∀ (s : State) (e : Env) (lat : Nat) (o : Out) (x : Warp), (∀ n, e.party ≠ .seq n) → s.warps.get? e.key = some x → o.flags < 16 →
    let t := s.commit e lat o
    (t.warp e.key).inflight = x.inflight ++ o.writes.map (fun r =>
      { reg := r.reg, value := BitVec.ofNat 4096 r.value, bits := BitVec.ofNat 4096 r.mask, spec := r.spec, bank := none, reads := [], born := 0,
        due := (if e.view.inSlot then e.w.slots else e.acyc) + lat }) ∧
    (t.warp e.key).csr.satf = x.csr.satf ||| BitVec.ofNat 64 o.flags ∧
    (t.warp e.key).srseq = (if o.random then x.srseq + 1 else x.srseq)

/-- A step in which the agenda chooses a SIMT path or a matrix sequencer: it reads the word at the path's address, with its second half when bit 0 says so,
decodes it, runs it, and ends the attempt (spec/03 R74, R86; spec/08 R217). -/
def Obligations.StepRunsTheDecodedWord : Prop :=
  let finish (p : Party) (u : State) (now : Nat) : State :=
    match p with
    | .path g sl i => State.endPath { u with cur := none } g sl i
    | .seq c => State.modCore { u with cur := none } c fun x => { x with seq := x.seq.map fun q => { q with tried := now + 1 } }
    | _ => u
  ∀ (s : State) (p : Party) (r : List Choice) (pc rows : Nat) (v : View) (locked : Bool) (lp : Option LpMode),
    s.agenda = .issue p :: r → strictDue s = none → s.ready = true → mayTry s p = true →
    (match p with
     | .path g sl i => v = .simt ∧ ∃ x, (s.warp (warpKey g sl)).paths.get? i = some x ∧ x.pc = pc ∧ x.locked = locked ∧ rows = (s.warp (warpKey g sl)).rows ∧
         lp = (if locked then none else (s.warp (warpKey g sl)).lp) ∧ (x.locked = true ∨ x.released = true ∨ breakpoint s g x.pc none .simt = none)
     | .seq c => v = .stream ∧ locked = false ∧ lp = none ∧ rows = 64 ∧ ∃ q, (s.core c).seq = some q ∧ q.pc = pc
     | _ => False) →
    ∀ t x y n i u,
      (match fetchAt { s with agenda := r } (partyCore p) (s.partyPart p) locked pc 8 with
       | .ok t1 a =>
         x = BitVec.ofNat 64 a ∧
         if wBit x then
           n = 16 ∧ match fetchAt t1 (partyCore p) (s.partyPart p) locked (pc + 8) 8 with
             | .ok t2 b => t = t2 ∧ y = BitVec.ofNat 64 b
             | _ => False
         else n = 8 ∧ t = t1 ∧ y = 0
       | _ => False) →
      lpOutside lp pc n = false → decodeWord v rows x y = .ok i → exec i (t.begin p none pc ((pc + n) % 2 ^ 57) 0 locked) = .next u →
      step s = .next (finish p u s.ccnt)

/-- A bundle: its header, its slots and its pool are read at the context's address and issue together; a legal bundle runs the meaning of each operation
that its slots decode to, and that meaning is the one `exec` gives the same instruction by itself (spec/03 R83, R84, R88; spec/04 R109). So `bundleIssue`
completes. -/
def Obligations.BundlesRunTheirOperations : Prop :=
  (∀ (s : State) (p : Party) (key : Nat) (x : Vliw) (t1 t2 : State) (h v : Nat), (s.warp key).vliw = some x → x.stall = 0 → x.run = 0 →
    (x.locked = true ∨ x.released = true ∨ ∀ k, breakpoint t1 (partyGroup p) x.pc (x.loops.head?.map (·.iter)) k = none) →
    fetchAt s (partyCore p) (s.partyPart p) x.locked x.pc 8 = .ok t1 h → (headerOf (BitVec.ofNat 64 h)).kind = 0 →
    let hd := BitVec.ofNat 64 h
    let n := (presentSlots (headerOf hd).present).length
    let m := 2 * (((headerOf hd).litn + 1) / 2)
    lpOutside (if x.locked then none else (s.warp key).lp) x.pc (8 + (8 * n + 4 * m)) = false →
    lpOutside (if x.locked then none else (s.warp key).lp) x.pc 8 = false →
    (if 8 * n + 4 * m = 0 then t2 = t1 ∧ v = 0
     else fetchAt t1 (partyCore p) (t1.partyPart p) x.locked (x.pc + 8) (8 * n + 4 * m) = .ok t2 v) →
    prepareItem s p key =
      .run (t2.begin p (some .s0) x.pc (afterHeader x.pc hd.toNat) hd x.locked) (.bundleIssue hd (wordsOf n v) (halvesFrom m (v / 2 ^ (64 * n))))) ∧
  (∀ (b : BundleBits) (c : Cur) (s : State), s.cur = some c → (match c.party with | .thread _ _ => True | .service _ => True | _ => False) →
    bundleBad c.pc (s.env c).w.rows b = [] → ¬(s.stream c.party = .secondary ∧ (headerOf b.header).mergeok = false) →
    exec (.bundleIssue b.header b.slots b.pool) s =
      .next (runBundle (b.slotOps (s.env c).w.rows) b.ports { c with header := b.header, next := afterHeader c.pc b.header.toNat } s)) ∧
  (∀ i m, semOf i = some m → ∀ s, exec i s = runSem m s) ∧
  (∀ i, (semOf i).isSome = (instrParts i).isSome)

/-- BUNDLE_ISSUE of a bundle with no operation, and EMPTY_RUN: an issue slot passes, and the context goes on after the item, or stands at the run until its
last bundle (spec/03 R83, R88). Said where no decision record is due and the loop stack is empty. So `bundleIssue` and `emptyRun` complete. -/
def Obligations.EmptyItemsComplete : Prop :=
  let stands (c : Cur) (s : State) : Prop := s.cur = some c ∧ (match c.party with | .thread _ _ => True | .service _ => True | _ => False) ∧
    (s.env c).decisions s = 0 ∧ s.misfit c.party ⟨0, 0, []⟩ = false
  (∀ h c s x v, stands c s → bundleBad c.pc (s.env c).w.rows ⟨h, [], []⟩ = [] → (headerOf h).kind = 0 → (headerOf h).present = 0 →
    ¬(s.stream c.party = .secondary ∧ (headerOf h).mergeok = false) →
    s.warps.get? (s.env c).key = some x → x.vliw = some v → v.loops = [] →
    ∃ t, exec (.bundleIssue h [] []) s = .next t ∧ sameOutside s t ∧ sameRegisters s t ∧ (t.warp (s.env c).key).slots = x.slots + 1 ∧
      (t.warp (s.env c).key).committed = x.committed + 1 ∧ ((t.warp (s.env c).key).vliw.map (·.pc)) = some (afterHeader c.pc h.toNat)) ∧
  (∀ h c s x v, stands c s → headerBad h = false → (headerOf h).kind = 1 → s.warps.get? (s.env c).key = some x → x.vliw = some v → v.loops = [] →
    let total := if v.run = 0 then runCount h else v.run
    ∃ t, exec (.emptyRun h) s = .next t ∧ sameOutside s t ∧ sameRegisters s t ∧ (t.warp (s.env c).key).slots = x.slots + 1 ∧
      ((t.warp (s.env c).key).vliw.map (·.run)) = some (total - 1) ∧
      ((t.warp (s.env c).key).vliw.map (·.pc)) = some (if total ≤ 1 then c.next else v.pc) ∧
      (t.warp (s.env c).key).committed = x.committed + 1)

/-- The end of a loop body: after the item at END, with no transfer of control and no push, rows and masks rotate, the counts fall, stage mask 8 is set while
the count lasts, and control returns to START or leaves the loop (spec/05 R144). -/
def Obligations.LoopBodyEnds : Prop :=
  ∀ (s : State) key pc before after w x e rest, s.warps.get? key = some w → w.vliw = some x → x.loops = e :: rest →
    let t := (loopEnd s key pc before after).warp key
    if x.jumped = false ∧ e.last = pc ∧ rest.length + 1 ≤ before then
      let n := e.next
      t.mrot = (w.mrot + 1) % 8 ∧ t.vrot = (if w.rows = 64 then (w.vrot + 1) % 16 else w.vrot) ∧ t.v = w.v ∧ t.s = w.s ∧
      t.mask 8 = (if 0 < n.count then BitVec.allOnes 1024 else 0) ∧
      (∀ k, k < 8 → t.mask k = w.mask k) ∧ (∀ k, 8 ≤ k → k < 15 → t.mask (k + 1) = w.mask k) ∧
      n.iter = (e.iter + 1) % 2 ^ 32 ∧ (0 < e.count → n.count = e.count - 1 ∧ n.epi = e.epi) ∧ (e.count = 0 → n.count = 0 ∧ n.epi = e.epi - 1) ∧
      t.vliw = some (if n.count = 0 ∧ n.epi = 0 then { x with loops := rest, pc := after e.last } else { x with loops := n :: rest, pc := n.start })
    else t = w

/-! ### Traps -/

/-- A handled trap: results in flight land, the trap record holds cause, slots, path, view, detail, pc, address and ccnt, the handler bit is set, and the
trapping path goes on at SOFF of its cause's entry in the locked instruction store; the warp's other paths and every other warp are as they were, and no
byte of memory changes (spec/01 R37; spec/19 R417 to R419). -/
def Obligations.HandledTrapsEnterTheHandler : Prop :=
  let records (x : Warp) (t : Trap) (path : Nat) (vliw : Bool) (pc ccnt : Nat) : Prop :=
    x.csr.rec0.toNat = (t.cause % 2 ^ 8) * 2 ^ 56 + (t.slots % 2 ^ 11) * 2 ^ 45 + (path % 2 ^ 5) * 2 ^ 40 + (if vliw then 2 ^ 39 else 0) + t.info % 2 ^ 39 ∧
    x.csr.rec1.toNat = pc % 2 ^ 57 ∧ x.csr.rec2.toNat = t.addr % 2 ^ 57 ∧ x.csr.rec3.toNat = ccnt % 2 ^ 64
  let handled (t : Trap) : Prop := t.cause ≠ causePAGEPERM ∧ t.cause ≠ causeUE
  (∀ (s : State) g sl i pc (t : Trap) off x p, s.warps.get? (warpKey g sl) = some x → x.paths.get? i = some p → x.handler = none → handled t →
    handlerEntry (s.core (g / 2)) t.cause false = some off →
    let u := s.takeTrap (.path g sl i) pc false t
    let y := u.warp (warpKey g sl)
    sameOutside s u ∧ u.cores = s.cores ∧ u.groups = s.groups ∧ (∀ k, k ≠ warpKey g sl → u.warps.get? k = s.warps.get? k) ∧
    records y t i false pc s.ccnt ∧ y.handler = some i ∧ y.inflight = [] ∧ y.v = x.landAll.v ∧ y.s = x.landAll.s ∧ y.m = x.landAll.m ∧
    y.csr.satf = x.csr.satf ∧ y.csr.rmode = x.csr.rmode ∧ y.lp = x.lp ∧
    (∀ j, j ≠ i → y.paths.get? j = x.paths.get? j) ∧
    ∃ q, y.paths.get? i = some q ∧ q.pc = off ∧ q.locked = true ∧ q.mask = p.mask ∧ q.rpc = p.rpc ∧ q.wait = .none) ∧
  (∀ (s : State) g sl pc (t : Trap) off x v, s.warps.get? (warpKey g sl) = some x → x.vliw = some v → handled t →
    handlerEntry (s.core (g / 2)) t.cause true = some off →
    let u := s.takeTrap (.thread g sl) pc false t
    let y := u.warp (warpKey g sl)
    sameOutside s u ∧ u.cores = s.cores ∧ u.groups = s.groups ∧ (∀ k, k ≠ warpKey g sl → u.warps.get? k = s.warps.get? k) ∧
    records y t 0 true pc s.ccnt ∧ y.handler = some 0 ∧ y.inflight = [] ∧ y.v = x.landAll.v ∧ y.s = x.landAll.s ∧ y.m = x.landAll.m ∧
    ∃ q, y.vliw = some q ∧ q.pc = off ∧ q.locked = true ∧ q.loops = v.loops ∧ q.ctx = v.ctx) ∧
  (∀ (c : Core) cause vliw off, handlerEntry c cause vliw = some off ↔
    let e := c.locked.toNat / 2 ^ (64 * cause) % 2 ^ 64
    e.testBit (if vliw then 62 else 63) = true ∧ e / 2 ^ 46 % 2 ^ 16 = 0 ∧ e / 2 ^ 14 % 2 ^ 18 = 0 ∧ off = (if vliw then e / 2 ^ 32 % 2 ^ 14 else e % 2 ^ 14))

/-- A trap with no valid entry, PAGEPERM, UE, a trap of a matrix sequencer and one raised in the locked instruction store are discarding: the partition's
discard unit keeps the first of them with its launch and record, and none of them enters a handler (spec/19 R417, R420; spec/08 R220). -/
def Obligations.OtherTrapsDiscard : Prop :=
  ∀ (s : State) (p : Party) (pc : Nat) (locked : Bool) (t : Trap), s.partyPart p < Config.partitions →
    (match p with
     | .seq _ => True
     | .service _ => True
     | .path g _ _ => t.cause = causePAGEPERM ∨ t.cause = causeUE ∨ locked = true ∨ handlerEntry (s.core (g / 2)) t.cause false = none
     | .thread g _ => t.cause = causePAGEPERM ∨ t.cause = causeUE ∨ locked = true ∨ handlerEntry (s.core (g / 2)) t.cause true = none) →
    (match p with | .path g sl _ => (s.warp (warpKey g sl)).handler = none ∨ locked = true | _ => True) →
    let u := s.takeTrap p pc locked t
    let path := match p with | .path _ _ i => i | _ => 0
    let vliw := match p with | .thread _ _ => true | .service _ => true | _ => false
    u.mem = s.mem ∧ u.accs = s.accs ∧ u.cores = s.cores ∧ (∀ k, (u.warp k).handler = (s.warp k).handler ∧ (u.warp k).vliw = (s.warp k).vliw) ∧
    (∀ q, q ≠ s.partyPart p → u.part q = s.part q) ∧
    (u.part (s.partyPart p)).discarding = (match (s.part (s.partyPart p)).discarding with
      | some x => some x
      | none => some (s.partyLaunchNo p, recordOf t path vliw pc s.ccnt))

/-- TRAP, SVC and BKPT: when the predicate passes and nothing stands before them their trap is raised, TRAP with its own cause and value, SVC and BKPT with
theirs; when it fails they do nothing (spec/08 R240). Their effect is the trap: so `trap`, `svc` and `bkpt` complete. -/
def Obligations.SoftwareTrapsAreRaised : Prop :=
  let raises (mk : IWord → Instr) (op : Nat) (t : IWord → Env → Trap) : Prop :=
    (∀ w c s, free op w c s = true → (opEnv op w c s).scalarPred w = true → exec (mk w) s = .next (trapped op w c s (t w (opEnv op w c s)))) ∧
    CompletesWhen mk op (fun w e _ => e.scalarPred w = false) fun _ _ s => s
  raises .trap 0xE2 (fun w e => { cause := csrNo w, info := 2 ^ 38 + trapValue e w }) ∧
  raises .svc 0xE4 (fun w _ => { cause := causeSVC, info := csrNo w % 2 ^ 16 }) ∧
  raises .bkpt 0xE5 (fun w _ => { cause := causeBKPT, info := 2 ^ 38 + csrNo w % 2 ^ 16 })

/-- TRET.retry and TRET.next in the locked instruction store return: the handler bit clears, paths that waited for it may trap, and the issuer goes on at
TRAPREC1.PC, or after the item there, fetching from code again (spec/08 R241; spec/19 R419). So `tretRetry` and `tretNext` complete. -/
def Obligations.ReturnsFromHandlers : Prop :=
  let ready (next : Bool) (e : Env) (s : State) : Prop := e.locked = true ∧
    ((∃ g, e.party = .service g) ∨ ((∃ t pc, tretTarget next e s = .to t pc) ∧ traceRoom e s 1 = true))
  CompletesWhen .tretRetry 0xE3 (fun _ e s => ready false e s) (fun _ e s => tretEff false e s) ∧
  CompletesWhen .tretNext 0xE3 (fun _ e s => ready true e s) (fun _ e s => tretEff true e s) ∧
  (∀ e s, tretTarget false e s = .to s (e.w.csr.rec1.toNat % 2 ^ 57)) ∧
  (∀ e s t x, fetchCode s e.core (s.partyPart e.party) (e.w.csr.rec1.toNat % 2 ^ 57) 8 = .ok t x →
    tretTarget true e s = .to t (if e.view.inSlot then afterHeader (e.w.csr.rec1.toNat % 2 ^ 57) x
      else (e.w.csr.rec1.toNat % 2 ^ 57 + (if x % 2 = 1 then 16 else 8)) % 2 ^ 57)) ∧
  (∀ (s : State) g sl i target x p, s.warps.get? (warpKey g sl) = some x → x.paths.get? i = some p →
    let u := s.returnFromTrap (.path g sl i) target
    let y := u.warp (warpKey g sl)
    sameOutside s u ∧ sameRegisters s u ∧ y.handler = none ∧ y.csr = x.csr ∧ y.paths.get? i = some { p with pc := target, locked := false, wait := .none } ∧
    ∀ j q, j ≠ i → x.paths.get? j = some q → y.paths.get? j = some (if q.wait = .handler then { q with wait := .none } else q)) ∧
  (∀ (s : State) g sl target x v, s.warps.get? (warpKey g sl) = some x → x.vliw = some v →
    let u := s.returnFromTrap (.thread g sl) target
    sameOutside s u ∧ sameRegisters s u ∧ (u.warp (warpKey g sl)).handler = none ∧
    (u.warp (warpKey g sl)).vliw = some { v with pc := target, locked := false, wait := .none })

/-- Opcodes from 0xF0 up are reserved in every view (spec/04 R104). A word that breaks a condition of R94 is not issued: it raises ILLOP with the lowest code among the conditions it breaks (spec/03 R94; spec/04 R109),
and a mode that forbids a form raises its trap before anything else: LPILL code 1 in LP mode, ROLE with the role's code outside a handler (spec/04 R110,
R111). -/
def Obligations.ForbiddenWordsTrap : Prop :=
  (∀ v rows r, 0xF0 ≤ r.op → decodeRaw v rows r = .bad [.opcode]) ∧
  (∀ (s : State) (p : Party) v rows pc locked lp t x l, (∀ n, lpOutside lp pc n = false) → fetchAt s (partyCore p) (s.partyPart p) locked pc 8 = .ok t x → x % 2 = 0 →
    decodeWord v rows (BitVec.ofNat 64 x) 0 = .bad l →
    prepareWord s p v rows pc locked lp = .done (t.trapWord p pc locked { cause := causeILLOP, info := lowestCode l })) ∧
  (∀ (l : List Bad), (∀ b ∈ l, b.code ≠ 0 → lowestCode l ≤ b.code) ∧ ((∃ b ∈ l, b.code ≠ 0) → lowestCode l ≠ 0 ∧ ∃ b ∈ l, b.code = lowestCode l)) ∧
  (∀ (e : Env) op w, e.view.inSlot = true ∨ e.view = .simt → e.locked = false → e.w.lp.isSome = true → lpAllows op = false →
    Env.modeCheck e op w = .trap { cause := causeLPILL, info := 1 * 2 ^ 32 }) ∧
  (∀ (e : Env) op w, e.view.inSlot = true ∨ e.view = .simt → e.locked = false → e.w.lp = none → roleAllows e.w.role e.view op w = false →
    Env.modeCheck e op w = .trap { cause := causeROLE, info := e.w.role.code }) ∧
  (∀ (e : Env) op w, e.locked = true → Env.modeCheck e op w = .ok)

/-! ### Scratchpad and global memory -/

/-- The scratchpad forms complete when their ranges lie in the block's region and in a logit program's window, no scratchpad action of the issuer waits,
and, for one that sets granules full, the release has nothing to wait for (spec/07 R190 to R195). So `lds`, `sts`, `ldsx`, `stsx`, `feset` and `feclr`
complete. -/
def Obligations.ScratchpadFormsComplete : Prop :=
  let released (e : Env) (s : State) : Prop := releaseWaits s e.party 2 = false
  CompletesWhen .lds 0x70 (fun w e s => scratchReady e s (ldsRanges 0x70 w e) true false = true) ldsEff ∧
  CompletesWhen .sts 0x71 (fun w e s => scratchReady e s (ldsRanges 0x71 w e) true true = true ∧ (bits w.ext.toNat 0 3 = 1 → released e s)) stsEff ∧
  CompletesWhen .ldsx 0x72 (fun w e s => scratchReady e s (ldsxRanges 0x72 w e) false false = true) ldsxEff ∧
  CompletesWhen .stsx 0x73 (fun w e s => scratchReady e s (ldsxRanges 0x73 w e) false true = true ∧ (bits w.ext.toNat 0 3 = 1 → released e s)) stsxEff ∧
  CompletesWhen .feset 0x74 (fun w e s => scratchReady e s (feRange w e) false true = true ∧ released e s) (feEff true) ∧
  CompletesWhen .feclr 0x75 (fun w e s => scratchReady e s (feRange w e) false true = true) (feEff false)

/-- STS and STSX write the bytes at the address of each of their lanes, base of the region plus offset, little-endian, the last lane last, and no other byte of any
core's store; with .fill the granules they touch become full. An item that the agenda issues as torn leaves instead a store of the same bytes to be performed part
by part (DESIGN CHOICE, log entry 26). FESET and FECLR write no byte and change the bits of the granules of their range alone. None of them changes a
register, another core, or anything outside the cores. LDS and LDSX without .take or .peek send, for each lane, the little-endian number of its bytes, zero- or
sign-extended to the register operand of its SIZE, to that lane's place in the row, or to the s register (spec/07 R187, R188, R192, R194, R195). -/
def Obligations.ScratchpadFormsMoveTheirBytes : Prop :=
  let touched (l : List (Nat × Nat)) (g : Nat) : Prop := ∃ x ∈ l, 0 < x.2 ∧ x.1 / 16 ≤ g ∧ g ≤ (x.1 + x.2 - 1) / 16
  let frame (e : Env) (s t : State) : Prop := sameOutside s t ∧ sameRegisters s t ∧ ∀ c, c ≠ e.core → t.core c = s.core c
  let base (e : Env) (s : State) : Nat := (s.region e.party).1
  let stores (w : IWord) (e : Env) (s t : State) (l : List (Nat × Nat × Nat)) : Prop :=
    (s.torn = false ∨ w.ext.toNat % 8 ≠ 0 → frame e s t ∧
      (∀ a, (t.core e.core).sByte a = match l.reverse.find? fun x => x.1 ≤ a && a < x.1 + x.2.1 with
        | some x => BitVec.ofNat 8 (x.2.2 / 2 ^ (8 * (a - x.1)))
        | none => (s.core e.core).sByte a) ∧
      ∀ g, (t.core e.core).full.getD g false = true ↔
        (s.core e.core).full.getD g false = true ∨ (w.ext.toNat % 8 = 1 ∧ touched (l.map fun x => (x.1, x.2.1)) g)) ∧
    (s.torn = true → w.ext.toNat % 8 = 0 → t.mem = s.mem ∧ sameRegisters s t ∧ (∀ c a, (t.core c).sByte a = (s.core c).sByte a) ∧
      (l ≠ [] → ∃ x, t.accs = s.accs ++ [x] ∧ x.kind = .store ∧ x.scratch = true ∧ x.core = e.core ∧ x.party = some e.party ∧
        x.lanes.map (fun y => (y.addr, y.size, y.data)) = l))
  let rows (op : Nat) (w : IWord) (e : Env) (q : Nat) : List (Nat × Nat) :=
    (e.memLanes op w).map fun i => (i, roundDown (e.uniformAddr w) 16 + (if e.view.inSlot then 128 else 512) * q + 16 * i)
  let number (e : Env) (s : State) (a n : Nat) : Nat := leNat ((List.range n).map fun j => (s.core e.core).sByte (base e s + a + j))
  (∀ w e s, stores w e s (stsEff w e s) ((e.memLanes 0x71 w).map fun i =>
    (base e s + e.scratchAddr w i, sizeBytes (w.ext.toNat / 8 % 8), e.storeData w (w.ext.toNat / 8 % 8) i))) ∧
  (∀ w e s, stores w e s (stsxEff w e s) ((List.range (2 ^ (w.ext.toNat / 16 % 4))).flatMap fun q => (rows 0x73 w e q).map fun x =>
    (base e s + x.2, 16, e.elem w .b128 false w.c q x.1 0))) ∧
  (∀ w e s, frame e s (feEff true w e s) ∧ (∀ a, ((feEff true w e s).core e.core).sByte a = (s.core e.core).sByte a) ∧
    ∀ g, ((feEff true w e s).core e.core).full.getD g false = true ↔
      (s.core e.core).full.getD g false = true ∨ touched ((feRange w e).map fun x => (base e s + x.1, x.2)) g) ∧
  (∀ w e s, frame e s (feEff false w e s) ∧ (∀ a, ((feEff false w e s).core e.core).sByte a = (s.core e.core).sByte a) ∧
    ∀ g, ((feEff false w e s).core e.core).full.getD g false = true ↔
      (s.core e.core).full.getD g false = true ∧ ¬ touched ((feRange w e).map fun x => (base e s + x.1, x.2)) g) ∧
  (∀ (w : IWord) (e : Env) (s : State) (x : Warp), (∀ c, e.party ≠ .seq c) → s.warps.get? e.key = some x → w.ext.toNat % 8 = 0 →
    let size := w.ext.toNat / 8 % 8
    let got (width i : Nat) : Nat := loadBits (sizeSigned size) (sizeBytes size) width (number e s (e.scratchAddr w i) (sizeBytes size))
    let t := ldsEff w e s
    (∀ k n, w.d = .vec k n → e.view.inSlot = true ∨ 32 * k.val + sizeRow size ≤ 128 →
      ∃ f, (t.warp e.key).inflight = x.inflight ++ [f] ∧ f.reg = .v (physRow e.w.vrot n.val) (dstWords e k.val size) ∧
        partsHeld f ((e.memLanes 0x70 w).map fun i => (e.unitOff true k.val i, sizeRow size, got (sizeRow size) i))) ∧
    (∀ n i, w.d = .sreg n → n.val ≠ 0 → e.memLanes 0x70 w = [i] →
      ∃ f, (t.warp e.key).inflight = x.inflight ++ [f] ∧ f.reg = .s n.val ∧ f.value = BitVec.ofNat 4096 (got 64 i) ∧ f.bits = BitVec.ofNat 4096 (2 ^ 64 - 1))) ∧
  (∀ (w : IWord) (e : Env) (s : State) (x : Warp) c n, (∀ c, e.party ≠ .seq c) → s.warps.get? e.key = some x → w.ext.toNat % 8 = 0 → w.d = .vec c n →
    ∃ l, ((ldsxEff w e s).warp e.key).inflight = x.inflight ++ l ∧ l.length = 2 ^ (w.ext.toNat / 16 % 4) ∧
      ∀ q f, l[q]? = some f → f.reg = .v (physRow e.w.vrot (n.val + q)) (if e.view.inSlot then 2 ^ c.val else 15) ∧
        partsHeld f ((rows 0x72 w e q).map fun y => (e.unitOff false c.val y.1, 128, number e s y.2 16))) ∧
  ∀ n width v, 0 < n → 8 * n ≤ width → v < 2 ^ (8 * n) →
    loadBits true n width v = ((BitVec.ofNat (8 * n) v).signExtend width).toNat ∧ loadBits false n width v = v

/-- The global forms that make an access complete when it may go on: the access enters the list of its core, its destination registers wait for it
(spec/07 R196, R197, R199, R200; spec/06 R182; spec/04 R115). A plain load that translates is the last in the list of accesses, under a new number, translated and
ready, and neither memory nor a register changes; an access with no lane leaves everything as it is (spec/07 R187; spec/11 R300); that is said where no log is
on, the replay buffer of the core is empty and its debugger is off. So `ld`, `st`, `ldb`, `stb`, `atom`, `cas` and `sftload` complete. -/
def Obligations.GlobalAccessesIssue : Prop :=
  CompletesWhen .ld 0x80 (fun w e s => accessReady e s (ldAccess w e s) = true) (fun w e s => s.issueAccess e (ldAccess w e s)) ∧
  CompletesWhen .st 0x81 (fun w e s => accessReady e s (stAccess w e s) = true) (fun w e s => s.issueAccess e (stAccess w e s)) ∧
  CompletesWhen .ldb 0x82 (fun w e s => accessReady e s (ldbAccess w e s) = true) (fun w e s => s.issueAccess e (ldbAccess w e s)) ∧
  CompletesWhen .stb 0x83 (fun w e s => accessReady e s (stbAccess w e s) = true) (fun w e s => s.issueAccess e (stbAccess w e s)) ∧
  CompletesWhen .atom 0x90
    (fun w e s => if bit w.ext.toNat 5 then accessReady e s (atomAcc w e s) = true
      else scratchReady e s ((e.memLanes 0x90 w).map fun t => (roundDown (e.scratchAddr w t) (if bit w.ext.toNat 4 then 8 else 4), if bit w.ext.toNat 4 then 8 else 4)) false true = true)
    (fun w e s => (s.issueAccess e (atomAcc w e s)).charge e (atomCost (atomAcc w e s))) ∧
  CompletesWhen .cas 0x91
    (fun w e s => if bit w.ext.toNat 5 then accessReady e s (casAcc w e s) = true
      else scratchReady e s ((e.memLanes 0x91 w).map fun t => (roundDown (e.scratchAddr w t) (if bit w.ext.toNat 4 then 8 else 4), if bit w.ext.toNat 4 then 8 else 4)) false true = true)
    (fun w e s => (s.issueAccess e (casAcc w e s)).charge e (atomCost (casAcc w e s))) ∧
  CompletesWhen .sftload 0x68 (fun w e s => accessReady e s (sftAccess w e s) = true) sftEff ∧
  (∀ (s : State) e (a : Access), a.lanes = [] → s.issueAccess e a = s) ∧
  ∀ (s : State) (e : Env) (a : Access) (signed : Bool) (pages : List TlbEntry), a.kind = .load signed → a.lanes ≠ [] → a.scratch = false → a.counted = false →
    a.reserved1 = false → logOn s a.partition 1 = false → logOn s a.partition 2 = false → (∀ c, s.attached c = false) → (s.core a.core).replay = [] →
    translate s a.core a.partition .read (a.spans.getD []) = .ok pages →
    (a.spans.getD []).findSome? (fun x => rangeTrap (s.routesAt s.serial) .ld pages x.1 x.2) = none →
    let u := s.issueAccess e a
    u.mem = s.mem ∧ sameRegisters s u ∧ u.serial = s.serial + 1 ∧
    ∃ x, u.accs = s.accs ++ [x] ∧ x.id = s.serial ∧ x.ready = true ∧ x.pages = pages ∧ x.kind = a.kind ∧ x.lanes = a.lanes ∧ x.dest = a.dest ∧
      x.pend = a.pend ∧ x.party = a.party

/-- `pref`, `cinvLine`, `cinvTiles`, `cinvAll` and `fence` complete: PREF when no bank it would read is in its refresh window, FENCE once nothing its kind and
scope wait for is left; a FENCE changes no register, no byte of memory
and no access but what it orders (spec/07 R198, R202; spec/10 R285; spec/11 R308). -/
def Obligations.CacheFormsAndFencesComplete : Prop :=
  CompletesWhen .pref 0x84 (fun w e s => bit w.ext.toNat 0 = true ∨ ∀ x ∈ cacheLanes 0x84 w e s, inRefresh s x.1 = false) prefEff ∧
  CompletesAlways .cinvLine 0x85 cinvLineEff ∧ CompletesAlways .cinvTiles 0x85 cinvTilesEff ∧
  CompletesAlways .cinvAll 0x85 cinvAllEff ∧
  CompletesWhen .fence 0x93 (fun w e s =>
    (bits w.ext.toNat 4 2 ≠ 1 → fenceWaits s e.party (bits w.ext.toNat 1 3 + 1) = false) ∧
    (bits w.ext.toNat 4 2 ≠ 0 → s.anyAcc e.party (·.returnsValue) = false)) fenceEff ∧
  (∀ w e s, let u := fenceEff w e s
    sameOutside { s with accs := u.accs, sched := { s.sched with blocks := u.sched.blocks } } u ∧ sameAccesses s u ∧ sameRegisters s u ∧
    ∀ n b, s.block? n = some b → ∃ k, u.block? n = some { b with acquired := k }) ∧
  (∀ w e s, (cinvTilesEff w e s).mem = s.mem ∧ (e.scalarPred w = true → ((cinvTilesEff w e s).core e.core).tiles = [])) ∧
  (∀ w e s, (cinvAllEff w e s).mem = s.mem ∧ (e.scalarPred w = true → ((cinvAllEff w e s).core e.core).tiles = [] ∧ ((cinvAllEff w e s).core e.core).l1 = []))

/-- What performs an access: the event of its kind, when nothing issued before it holds it, its bank is not in refresh and the key order lets it
(spec/04 R115; spec/07 R193, R203; spec/06 R183; spec/09 R268; spec/18 R415). An access that a home's error stops takes UE instead. At its table's write
the issuer of an SFTLOAD that waits for it goes on, or waits for the predicate of a watchpoint that fired on it (spec/20 R449). `variableLatencyResult`,
`asyncWritePerformed`, `fullEmptyWaitSatisfied`, `sftloadTableWrite`, `remoteAck` and `remoteTimeout` each complete. That a waiter woken by a store records CAUSE 5
is the model's choice (log entry 64), and CAUSE 5 at an SFTLOAD's table write its reading (log entry 57). -/
def Obligations.AccessEventsComplete : Prop :=
  let may (s : State) (a : Access) : Prop := a.sent = none ∧ a.performable s = true ∧ (s.part a.partition).discarding = none
  let bytes (a : Access) : List Nat := a.pas.flatMap fun x => (List.range x.2).map (x.1 + ·)
  let done (s t : State) (a : Access) : Prop :=
    (∃ u, performAccess s a = .ok u ∧ t = if a.kind.writes && !a.scratch then u.noteCode (some a.core) a.agent (bytes a) else u) ∨
    ∃ x, performAccess s a = .trap x ∧ t = s.accessTrap a x
  (∀ (s : State) n a t, s.acc? n = some a → a.returnsValue = true → a.special s = false → may s a → done s t a →
    exec (.variableLatencyResult n) s = .next (t.rouse a.core 5)) ∧
  (∀ (s : State) n a t, s.acc? n = some a → a.returnsValue = false → a.special s = false → may s a → done s t a →
    exec (.asyncWritePerformed n) s = .next (t.rouse a.core 5)) ∧
  (∀ (s : State) n a t, s.acc? n = some a → (∀ g ∈ granulesOf (a.spans.getD []), (s.core a.core).full.getD g false = true) → (∀ y ∈ s.accs, y.id < n → y.core = a.core → feFull s y = true → ∀ g ∈ granulesOf (y.spans.getD []), g ∉ granulesOf (a.spans.getD [])) →
    (∃ signed, a.kind = .take signed ∨ a.kind = .peek signed) → may s a → done s t a →
    exec (.fullEmptyWaitSatisfied a.core n) s = .next (t.rouse a.core 3)) ∧
  (∀ (s : State) core x a t, (s.core core).sft.find? (sftReady s core) = some x → (s.openSft core).acc? x.access = some a → may (s.openSft core) a →
    done (s.openSft core) t a →
    let u := t.modCore core fun c => { c with sft := c.sft.filter fun y => y.access != x.access }
    exec (.sftloadTableWrite core) s = .next ((if u.waitOf x.party = .table then
        u.setWait x.party (if (u.group (partyGroup x.party)).hits.any (fun h => h.access == x.access) then .watch else .none)
      else u).rouse core 5)) ∧
  (∀ (s : State) n a at' values, s.acc? n = some a → a.sent = some at' → s.ccnt < at' + 30000000 →
    let old := ((a.lanes.filter a.peerLane).zip values).map fun x => (x.1, x.2.toNat % 2 ^ (8 * x.1.size))
    let flags := orFlagsOf (old.map fun x => actNew a.kind x.2 x.1.data x.1.data2)
    exec (.remoteAck n values) s = .next (((s.remoteFlags a flags).complete a old).rouse a.core 5)) ∧
  (∀ (s : State) n a at' v m r, s.acc? n = some a → a.sent = some at' → at' + 30000000 ≤ s.ccnt → a.spans = some ((v, m) :: r) →
    exec (.remoteTimeout n) s = .next ((s.accessTrap a { cause := causeUE, info := 2 ^ 7, addr := v }).finish a))

/-- The value an ATOM leaves, as R199's table gives it for the patterns of its width, and that of a CAS (spec/07 R199, R200). -/
def Obligations.AtomicsFollowTheirTable : Prop :=
  ∀ (wide : Bool) (old c : BitVec (if wide then 64 else 32)),
    (atomNew 0 wide old.toNat c.toNat).1 = (old + c).toNat ∧
    (atomNew 1 wide old.toNat c.toNat).1 = (if c.slt old then c else old).toNat ∧
    (atomNew 2 wide old.toNat c.toNat).1 = (if old.slt c then c else old).toNat ∧
    (atomNew 3 wide old.toNat c.toNat).1 = (if c.ult old then c else old).toNat ∧
    (atomNew 4 wide old.toNat c.toNat).1 = (if old.ult c then c else old).toNat ∧
    (atomNew 5 wide old.toNat c.toNat).1 = (old &&& c).toNat ∧ (atomNew 6 wide old.toNat c.toNat).1 = (old ||| c).toNat ∧
    (atomNew 7 wide old.toNat c.toNat).1 = (old ^^^ c).toNat ∧ (atomNew 8 wide old.toNat c.toNat).1 = c.toNat ∧
    (∀ op, op < 9 → (atomNew op wide old.toNat c.toNat).2 = 0) ∧
    atomNew 9 wide old.toNat c.toNat = fAdd (if wide then .f64 else .f32) .rne 0 old.toNat c.toNat ∧
    (atomNew 10 wide old.toNat c.toNat).1 = fMinMax (if wide then .f64 else .f32) false old.toNat c.toNat ∧
    (atomNew 11 wide old.toNat c.toNat).1 = fMinMax (if wide then .f64 else .f32) true old.toNat c.toNat ∧
    (∀ nv : Nat, (actNew (.cas wide) old.toNat c.toNat nv).1 = if old = c then nv else old.toNat)

/-- A store writes the bytes of its data, little-endian, at the physical addresses of its lanes, the later lane last, and, like an atomic, no other byte of
memory, but for bytes that have been written already and lanes of a peer; performed, it leaves memory so. An atomic of one lane returns what the bytes held and
leaves the new value there. A load from the global space whose core sees memory as it is returns, for each lane, the little-endian number of the lane's bytes
extended to its destination, and an LDB of a plain record the elements of its record in their order; a load changes no memory (spec/07 R187, R188, R196, R197, R199;
spec/10 R291; spec/11 R300). Of what performs whole, said where no log is on. -/
def Obligations.GlobalAccessesMoveTheirBytes : Prop :=
  let quiet (s : State) : Prop := ∀ p k, logOn s p k = false
  let pas (a : Access) : List Nat := a.pas.flatMap fun x => (List.range x.2).map (x.1 + ·)
  (∀ (s : State) (core : Option Nat) (pas : List Nat) (vs : List Byte) (b : Nat),
    memGet (s.storeBytes core pas vs).mem b = match (pas.zip vs).reverse.find? fun x => x.1 == b with | some x => x.2 | none => memGet s.mem b) ∧
  (∀ (s : State) (a : Access) (b : Nat), (∀ l ∈ a.lanes, b ∉ pasVia a.pages l.bytes) → memGet (storeLanes a a.lanes s).mem b = memGet s.mem b) ∧
  (∀ (s : State) (a : Access) before l after i, a.lanes = before ++ l :: after → a.peerLane l = false → i < l.size →
    (l.addr + i) % 2 ^ 57 ∉ a.written → (∀ j, i < j → j < l.size → paVia a.pages ((l.addr + j) % 2 ^ 57) ≠ paVia a.pages ((l.addr + i) % 2 ^ 57)) →
    (∀ y ∈ after, paVia a.pages ((l.addr + i) % 2 ^ 57) ∉ pasVia a.pages y.bytes) →
    memGet (storeLanes a a.lanes s).mem (paVia a.pages ((l.addr + i) % 2 ^ 57)) = BitVec.ofNat 8 (l.data / 2 ^ (8 * i))) ∧
  (∀ (s : State) (a : Access), sameRegisters s (storeLanes a a.lanes s) ∧ (storeLanes a a.lanes s).accs = s.accs) ∧
  (∀ (s : State) (a : Access), a.kind = .store → a.scratch = false → quiet s → writeUe s (pas a) = none →
    ∃ t, performAccess s a = .ok t ∧ t.mem = (storeLanes a a.lanes s).mem) ∧
  (∀ (s : State) (a : Access) (b : Nat), a.scratch = false → (∀ l ∈ a.lanes, b ∉ pasVia a.pages l.bytes) → memGet (actLanes a 0 a.lanes s).1.mem b = memGet s.mem b) ∧
  (∀ (s : State) (a : Access) (l : LaneAcc) (pa : Nat), a.scratch = false → a.done = [] → a.lanes = [l] → l.size = 4 ∨ l.size = 8 →
    pasVia a.pages l.bytes = (List.range l.size).map (pa + ·) → (∀ x ∈ pasVia a.pages l.bytes, isPeer x = false) →
    (actLanes a 0 a.lanes s).2.1 = [(l, memNat s pa l.size)] ∧
    memNat (actLanes a 0 a.lanes s).1 pa l.size = (actNew a.kind (memNat s pa l.size) l.data l.data2).1 % 2 ^ (8 * l.size)) ∧
  (∀ (s : State) (a : Access) (signed : Bool), a.kind = .load signed → a.done = [] → quiet s → readUe s (pas a) = none → seesMemory s a.core →
    (∀ l ∈ a.lanes, ∀ pa ∈ pasVia a.pages l.bytes, l1Home s pa = true) →
    ∃ t, performAccess s a = .ok t ∧ t.mem = s.mem ∧
      lanesLand s t a fun l => loadBits signed l.size a.destBits (leNat (l.bytes.map fun va => memGet s.mem (paVia a.pages va)))) ∧
  ∀ (s : State) (a : Access) j word r, a.kind = .ldb j word → a.done = [] → a.recs = some r → (bufRec r.1).view = 0 → quiet s → readUe s (pas a) = none →
    seesMemory s a.core → ∃ t, performAccess s a = .ok t ∧ t.mem = s.mem ∧
      lanesLand s t a fun l =>
        let b := bufRec r.1
        ((laneCoords b word (coordsOf l.data2)).mapIdx fun i c =>
          (if word then plainElem b s.mem a.pages c % 2 ^ min 32 b.ew else plainElem b s.mem a.pages c) <<< (b.ew * i)).sum

/-! ### Barriers, copies and the matrix engine -/

/-- The barrier and ring forms complete when what they wait for has come and nothing traps: an arrival once SATURATE is not pending, the release has nothing
to wait for and its record has room; a wait once the phase differs; BARQ and WARPSYNC always. MBAR's forms are those of the matrix sequencer, whose releases
wait for nothing (spec/07 R203 to R209; spec/08 R232, R233; spec/02 R63). So `barArrive`, `barWait`, `barSync`, `mbarArrive`, `mbarWait`, `mbarSync`, `racqP`,
`racqC`, `mbarRacqP`, `mbarRacqC`, `rcommit`, `rrel`, `mbarRcommit`, `mbarRrel`, `barq` and `warpsync` complete. -/
def Obligations.BarrierFormsComplete : Prop :=
  let completes (e : Env) (s : State) (r : Option BarRef) : Bool := match r with
    | some r => (s.barrier r).completes (memberKey (e.w.bid, e.w.wid))
    | none => false
  let mayArrive (e : Env) (s : State) (level : Nat) (r : Option BarRef) : Prop :=
    (level = 0 → e.view ≠ .stream → satfArm e.w.csr.satf = false ∨ satfFlags e.w.csr.satf = 0) ∧
    (e.view ≠ .stream → releaseWaits s e.party (if level = 0 then 2 else if level = 1 then 3 else 5) = false) ∧ decisionRoom e s (b2n (completes e s r)) = true
  let passed (e : Env) (s : State) (r : Option BarRef) (ph : Nat) : Prop := s.syncedOf e.party = some 2 ∨ s.phaseOf r ≠ ph
  let arrives (mk : IWord → Instr) (op : Nat) (level : IWord → Nat) : Prop :=
    CompletesWhen mk op (fun w e s => mayArrive e s (level w) (s.barRef e.party (level w) (idxOf w)))
      fun w e s => arriveEff e s (level w) (s.barRef e.party (level w) (idxOf w))
  let waits (mk : IWord → Instr) (op : Nat) (level : IWord → Nat) : Prop :=
    CompletesWhen mk op (fun w e s => passed e s (s.barRef e.party (level w) (idxOf w)) (e.u64 w w.b % 2)) fun w e s => waitEff e s (level w)
  let syncs (mk : IWord → Instr) (op : Nat) (level : IWord → Nat) : Prop :=
    CompletesWhen mk op (fun w e s =>
      let r := s.barRef e.party (level w) (idxOf w)
      (∃ p, s.syncedOf e.party = some p ∧ passed e s r p) ∨ (s.syncedOf e.party = none ∧ mayArrive e s (level w) r ∧ completes e s r = true))
      fun w e s => syncEff e s (level w) (idxOf w)
  let acquires (mk : IWord → Instr) (op : Nat) (producer : Bool) : Prop :=
    CompletesWhen mk op (fun w e s => ∀ x, s.ringOf e.party (idxOf w) = some x → x.has producer e.w.wid = true →
      let c := s.cursorOf e.party (idxOf w)
      passed e s (s.barRef e.party 0 (x.bar (!producer) c)) (if producer then 1 - c.lap else c.lap)) (racqEff producer)
  let commits (mk : IWord → Instr) (op : Nat) (producer : Bool) : Prop :=
    CompletesWhen mk op (fun w e s => ∀ x, s.ringOf e.party (idxOf w) = some x → x.has producer e.w.wid = true →
      mayArrive e s 0 (s.barRef e.party 0 (x.bar producer (s.cursorOf e.party (idxOf w))))) (ringEff producer)
  arrives .barArrive 0xA0 barLevel ∧ waits .barWait 0xA0 barLevel ∧ syncs .barSync 0xA0 barLevel ∧
  arrives .mbarArrive 0xC8 (fun _ => 0) ∧ waits .mbarWait 0xC8 (fun _ => 0) ∧ syncs .mbarSync 0xC8 (fun _ => 0) ∧
  acquires .racqP 0xA2 true ∧ acquires .racqC 0xA2 false ∧ acquires .mbarRacqP 0xC8 true ∧ acquires .mbarRacqC 0xC8 false ∧
  commits .rcommit 0xA3 true ∧ commits .rrel 0xA4 false ∧ commits .mbarRcommit 0xC8 true ∧ commits .mbarRrel 0xC8 false ∧
  CompletesAlways .barq 0xA1 (fun w e s => s.commit e (wordLat e 0xA1 w) (e.sResult w (barqValue s (s.barRef e.party (barLevel w) (idxOf w))))) ∧
  CompletesAlways .warpsync 0xA5 (fun _ e s => warpsyncEff e s)

/-- An arrival at a block barrier sets the member's flag; the last member's clears every flag and inverts the phase; one by no member, or by a member already
arrived, changes nothing. Members, other barriers, memory and registers stay as they are (spec/07 R204). -/
def Obligations.ArrivalsCompleteThePhase : Prop :=
  ∀ (s : State) (n i m : Nat) (blk : Block), s.block? n = some blk →
    let r : BarRef := ⟨0, n, i⟩
    let b := s.barrier r
    let t := (s.arrive r m).1
    let all : Prop := ∀ x ∈ b.members, x = m ∨ x ∈ b.arrived
    t.mem = s.mem ∧ sameRegisters s t ∧ t.accs = s.accs ∧ (∀ j, j ≠ i → t.barrier ⟨0, n, j⟩ = s.barrier ⟨0, n, j⟩) ∧
    (m ∉ b.members ∨ m ∈ b.arrived → t = s) ∧
    (m ∈ b.members → m ∉ b.arrived → ¬ all → t.barrier r = { b with arrived := b.arrived ++ [m] }) ∧
    (m ∈ b.members → m ∉ b.arrived → all → t.barrier r = { b with arrived := [], phase := 1 - b.phase })

/-- CPY and CTABLE complete when their control block lies in the region and its command is well formed, the release at .die has nothing to wait for, a record
has room and the buffer has an entry; CSEAL and CQUERY always; CWAIT when no more sealed batches than it names are unfinished; and with a failing predicate
they have no effect (spec/07 R210 to R215; spec/12 R337). So `cpy`, `ctable`, `cseal`, `cwait` and `cquery` complete. -/
def Obligations.CopyFormsComplete : Prop :=
  let enters (e : Env) (s : State) : Prop := releaseWaits s e.party 4 = false ∧ decisionRoom e s 1 = true ∧ passes (copyRoom e s) = true
  CompletesWhen .cpy 0xB0 (fun w e s => e.scalarPred w = true → scratchReady e s [(cpyOffset e w, 256)] false false = true ∧ cpyTrap e s w = none ∧ enters e s)
    (fun w e s => if e.scalarPred w then s.enterCommand e (some (BitVec.ofNat 2048 (cpyBlock e s w))) 0 (e.u64 w w.b) else s) ∧
  CompletesWhen .ctable 0xB3 (fun w e s => e.scalarPred w = true → enters e s)
    (fun w e s => if e.scalarPred w then s.enterCommand e none (roundDown (e.globalAddr w 0) 1024) 0 else s) ∧
  CompletesAlways .cseal 0xB1 csealEff ∧
  CompletesWhen .cwait 0xB2 (fun w e s => e.scalarPred w = true → (unfinished e s).length ≤ min (e.u64 w w.a) 8) (fun _ _ s => s) ∧
  CompletesAlways .cquery 0xB4 (fun w e s => s.commit e (wordLat e 0xB4 w) (e.sResult w (cqueryValue w e s))) ∧
  (∀ (s : State) e b va time, (∀ k, (s.core k).copies.length ≤ Config.copyEntries) → (s.core e.core).copies.length < Config.copyEntries →
    let t := s.enterCommand e b va time
    (∃ x, (t.core e.core).copies = (s.core e.core).copies ++ [x] ∧ x.block = b ∧ x.arrival = (s.core e.core).arrivals ∧ x.moving = false) ∧
    ∀ k, (t.core k).copies.length ≤ Config.copyEntries)

/-- The matrix sequencer's operations complete when the engine queue has room, their scratchpad ranges lie in the region, a record has room and MDRAIN's kind
fits; MWAIT and MEND once the engine is idle (spec/08 R221 to R235; spec/13 R344 to R346). Each enters the queue behind those before it. So `mload`, `mperm`,
`mzero`, `mma`, `mladr`, `mscale`, `mscaleClr`, `mdrain`, `mwait` and `mend` complete. -/
def Obligations.MatrixFormsComplete : Prop :=
  let ready (op : EngOp) (e : Env) (s : State) : Prop :=
    (∀ m, op.mem = some m → m.global = false → ∀ x ∈ m.ranges, 0 < x.2 → x.1 + x.2 ≤ (s.region e.party).2) ∧
    decisionRoom e s (match op.mem with | some m => b2n m.global | none => 0) = true ∧ (s.core e.core).engine.queue.length < Config.engineQueue
  let enters (mk : IWord → Instr) (opc : Nat) (op : IWord → Env → EngOp) (also : IWord → Env → Prop) : Prop :=
    CompletesWhen mk opc (fun w e s => also w e ∧ ready (op w e) e s) (fun w e s => engEff (op w e) e s)
  enters .mload 0xC0 mloadOp (fun _ _ => True) ∧ enters .mperm 0xC1 mpermOp (fun _ _ => True) ∧ enters .mzero 0xC2 mzeroOp (fun _ _ => True) ∧
  enters .mma 0xC3 mmaOp (fun _ _ => True) ∧ enters .mladr 0xC4 mladrOp (fun _ _ => True) ∧ enters .mscale 0xC5 mscaleOp (fun _ _ => True) ∧
  enters .mscaleClr 0xC5 mscaleClrOp (fun _ _ => True) ∧
  enters .mdrain 0xC6 mdrainOp (fun w e => drainKindOk (w.ext.toNat % 16) (w.ext.getLsbD 4) (drainKind w e) = true) ∧
  CompletesWhen .mwait 0xC7 (fun _ e s => engIdle s e.core = true) (fun _ _ s => s) ∧
  CompletesWhen .mend 0xC9 (fun _ e s => engIdle s e.core = true ∧ decisionRoom e s (s.departRecords e) = true) (fun _ e s => s.endSeq e) ∧
  (∀ op (e : Env) (s : State), partyCore e.party = e.core → e.group / 2 = e.core →
    let t := engEff op e s
    t.mem = s.mem ∧ sameRegisters s t ∧ (∀ k, k ≠ e.core → t.core k = s.core k) ∧
    ∃ x, (t.core e.core).engine.queue = (s.core e.core).engine.queue ++ [x] ∧ x.op = op ∧ x.pc = e.pc ∧ x.id = (s.core e.core).engine.issued ∧
      (t.core e.core).engine.issued = (s.core e.core).engine.issued + 1)

/-- The copy engine: the command due begins to move, a command whose time has come moves its elements and ends once its writes are performed, and the first
that waits for an entry goes on when one is free. The matrix engine: the operation due on a path starts with those that join its pass, and what runs on a path
takes effect when its time has come and then frees the path ; its memory, scratchpad, slots and tiles are then those of what its entries do, in stream order (spec/12
R337, R338, R342; spec/07 R211; spec/13 R346). So `copyCommandStart`,
`copyCommandFinish`, `cpyWaitEnter`, `matrixOpStart` and `matrixOpComplete` complete. -/
def Obligations.EnginesComplete : Prop :=
  (∀ (s : State) core c, s.copyDue core = some c →
    exec (.copyCommandStart core c.arrival) s =
      .next (((s.modCore core fun x => { x with copyStart := s.ccnt + 1 }).modCopy core c.arrival fun c => { c with moving := true }).prepareCopy core c.arrival)) ∧
  (∀ (s : State) core n c, (s.core core).copy? n = some c → copyTimed s core c = true → copyTable s c = false → copyBlocked s c = false →
    c.moved = false → (c.put = [] → homesTrap s c.pages c.wpages c.ranges.1 c.ranges.2 = none) →
    ∀ d, ((s.moveCopy core c).core core).copy? n = some d → (∀ j ∈ d.remote, (s.moveCopy core c).acc? j = none) →
    exec (.copyCommandFinish core n) s = .next ((s.moveCopy core c).endCopy core d)) ∧
  (∀ (s : State) core n c, (s.core core).copy? n = some c → copyTimed s core c = true → copyTable s c = false → c.moved = true →
    exec (.copyCommandFinish core n) s = .next (s.endCopy core c)) ∧
  (∀ (s : State) core x r, s.copyWaiters core = x :: r → (s.core core).copies.length < Config.copyEntries →
    exec (.cpyWaitEnter core) s = .next ((if s.waitOf (x.party s) = .copyBuffer then s.setWait (x.party s) .none else s).rouse core 4)) ∧
  (∀ (s : State) core path e pages, engDue s core path = some e → engReach s core (s.partyPart (.seq core)) e.op = .ok pages →
    ∃ t r, exec (.matrixOpStart core path) s = .next t ∧ t.mem = s.mem ∧ sameRegisters s t ∧ (t.core core).engine.run path = some r ∧
      r.entries = passOf (s.learn core pages) core (s.partyPart (.seq core)) ((s.learn core pages).core core).engine e ∧ r.pages = pages ∧ r.moved = false ∧
      r.ends = s.ecyc core + (engCycles (s.core core).engine (s.ecyc core) e.op).1) ∧
  (∀ (s : State) core path r, path < 3 → engTimed s core path = true → (s.core core).engine.run path = some r → engBlocked s core r = false → r.moved = false →
    (r.done = [] → engHomes s (r.entries.headD { id := 0, pc := 0, op := .mscale none, key := none, reserved1 := false }).op r.pages = none) →
    let x := s.engAll core r (r.entries.zip r.images)
    let u := x.1.modEngine core fun g => g.setRun path (some { r with moved := true, remote := x.2 })
    ∃ t, exec (.matrixOpComplete core path) s = .next t ∧ t.mem = x.1.mem ∧ (∀ c, (t.core c).scratch = (x.1.core c).scratch) ∧
      (∀ c, (t.core c).engine.tiles = (x.1.core c).engine.tiles ∧ (t.core c).engine.slots = (x.1.core c).engine.slots ∧
        (t.core c).engine.panels = (x.1.core c).engine.panels ∧ (t.core c).engine.scale = (x.1.core c).engine.scale) ∧
      t = if x.2.all fun i => (u.acc? i).isNone then
          (r.entries.foldl (fun v e => v.engRelease core e) (u.modEngine core fun g => g.setRun path none)).rouse core 4
        else u) ∧
  (∀ (s : State) core path r, path < 3 → engTimed s core path = true → (s.core core).engine.run path = some r → r.moved = true →
    ∃ t, exec (.matrixOpComplete core path) s = .next t ∧ t.mem = s.mem ∧ (t.core core).engine.run path = none)

/-! ### Control -/

/-- The branches, CALL, RET, JOIN and EXIT complete when the trace records they write have room (spec/05 R133 to R140; spec/20 R451; spec/22 R474). So `bra`,
`brx`, `call`, `ret`, `join` and `exit` complete. -/
def Obligations.BranchesComplete : Prop :=
  let moves (e : Env) (s : State) (n : Nat) : Prop := e.view ≠ .stream → traceRoom e s n = true
  let branch (mk : IWord → Instr) (op : Nat) : Prop :=
    CompletesWhen mk op (fun w e s => moves e s (if e.view = .simt then e.branchRecords w (e.target w w.a) else b2n (e.scalarPred w)))
      fun w e s =>
        if e.view = .simt then branchSimt e w (e.target w w.a) s
        else if e.view = .stream ∨ e.scalarPred w = true then s.goto e (e.target w w.a)
        else s
  branch .bra 0xD0 ∧ branch .brx 0xD1 ∧
  CompletesWhen .call 0xD2 (fun _ e s => moves e s 1) (fun w e s => (s.sendS e w 1 e.next).goto e (e.target w w.a)) ∧
  CompletesWhen .ret 0xD3 (fun _ e s => moves e s 1) (fun w e s => s.goto e (e.target w w.a)) ∧
  CompletesWhen .join 0xD4 (fun w e s => e.rejoins = true → traceRoom e s (e.w.atJoin e.pathNo e.pc e.next (joinRpc e w)).mergeRecords.length = true)
    (semJoin · |>.eff) ∧
  CompletesWhen .exit 0xD5 (fun w e s =>
    if e.exitsAll w then decisionRoom e s (s.departRecords e) = true
    else e.view = .simt → e.survivors w = 0 → traceRoom e s (e.w.dropPath e.pathNo).mergeRecords.length = true) (semExit · |>.eff) ∧
  (∀ (e : Env) w, (∀ n, w.a = .small n → e.target w w.a = wrap 57 ((e.pc : Int) + 8 * smallInt n)) ∧
    (∀ n, w.a = .sreg n → e.target w w.a = ((e.w.sreg n.val).toNat % 2 ^ 57) - (e.w.sreg n.val).toNat % 2 ^ 57 % 8))

/-- A SIMT branch that some threads take and some do not splits the path: the issuing entry keeps the threads that fall through, a free entry takes the rest
to the target, each with the RPC the branch names; together they are the threads of the path, and no thread is in both. A branch that all take moves the
path, one that none takes does not (spec/05 R135, R136). Said where the core does not trace and, for a branch that names an RPC, where no path of the warp waits at
a JOIN: such paths may then merge (spec/05 R137). -/
def Obligations.BranchesSplitPaths : Prop :=
  ∀ (s : State) (e : Env) (w : IWord) (target g sl i : Nat) (x : Warp) (p : Path), e.view = .simt → e.party = .path g sl i → e.key = warpKey g sl →
    e.traced s = false → s.warps.get? e.key = some x → x.paths.get? i = some p → p.mask = e.mask →
    let taken := e.takenSet w
    let t := branchSimt e w target s
    let y := t.warp e.key
    (∀ k, taken.getLsbD k = true → e.mask.getLsbD k = true) ∧ sameOutside s t ∧ sameRegisters s t ∧ (∀ k, k ≠ e.key → t.warps.get? k = s.warps.get? k) ∧
    (taken = 0 → t = s) ∧
    (taken = e.mask → taken ≠ 0 → y.paths.get? i = some { p with pc := target } ∧ ∀ j, j ≠ i → y.paths.get? j = x.paths.get? j) ∧
    (taken ≠ 0 → taken ≠ e.mask →
      (w.ext.getLsbD 0 = true → ∀ k q, x.paths.get? k = some q → (match q.wait with | .join _ _ => False | _ => True)) → ∀ j, x.freePath = some j →
      ∃ a b, y.paths.get? i = some a ∧ y.paths.get? j = some b ∧ a.mask ||| b.mask = e.mask ∧ a.mask &&& b.mask = 0 ∧ b.mask = taken ∧ b.pc = target ∧
        a.pc = p.pc ∧ a.rpc = b.rpc ∧ a.rpc = (if w.ext.getLsbD 0 then some (e.target w w.b) else p.rpc) ∧
        ∀ k, k ≠ i → k ≠ j → y.paths.get? k = x.paths.get? k)

/-- The loop forms complete: LOOP.dec counts its register down, with a latency of 1 (DESIGN CHOICE, log entry 66), and branches while it was above 1, LOOP.push enters a loop or passes one of no run, LBREAK leaves
one, LBREAK.z and .nz branch on their register. A logit program's limits and the eight-deep stack stand before them (spec/05 R142, R143, R147; spec/14 R366).
So `loopDec`, `loopPush`, `lbreak`, `lbreakZ` and `lbreakNz` complete. -/
def Obligations.LoopFormsComplete : Prop :=
  let moves (e : Env) (s : State) (n : Nat) : Prop := e.view ≠ .stream → traceRoom e s n = true
  CompletesWhen .loopDec 0xD6
    (fun w e s => (∀ m, e.lpMode = some m → loopCount e w ≤ 4096 ∧ (1 < loopCount e w → m.taken < 2 ^ 20)) ∧ moves e s (if 1 < loopCount e w then 1 else 0))
    (fun w e s =>
      let s := s.sendS e w 1 (loopCount e w - 1)
      if 1 < loopCount e w then (s.countTaken e).goto e (e.target w w.a) else s) ∧
  CompletesWhen .loopPush 0xD6
    (fun w e s => (e.lpMode.isSome = true → pushCount e w ≤ 4096) ∧
      if pushCount e w = 0 then (∃ t va, e.afterEnd s (e.target w w.b) = .at t va) ∧ traceRoom e s 1 = true else e.depth < 8)
    (semLoopPush · |>.eff) ∧
  CompletesWhen .lbreak 0xD7 (fun w e s => ∀ l, e.breaks w = some l → (∃ t va, e.afterEnd s l.last = .at t va) ∧ traceRoom e s 1 = true) (semLbreak · |>.eff) ∧
  CompletesWhen .lbreakZ 0xD7
    (fun w e s => (e.lpMode.isSome = true → e.pc < e.target w w.b) ∧ moves e s (if e.u64 w w.a = 0 then 1 else 0))
    (fun w e s => if e.u64 w w.a = 0 then s.goto e (e.target w w.b) else s) ∧
  CompletesWhen .lbreakNz 0xD7
    (fun w e s => (e.lpMode.isSome = true → e.pc < e.target w w.b) ∧ moves e s (if e.u64 w w.a = 0 then 0 else 1))
    (fun w e s => if e.u64 w w.a = 0 then s else s.goto e (e.target w w.b)) ∧
  (∀ (w : IWord) (e : Env) (s : State) (x : Warp) (v : Vliw), pushCount e w ≠ 0 → s.warps.get? e.key = some x → x.vliw = some v →
    let t := ((semLoopPush w).eff e s).warp e.key
    let k := bits w.ext.toNat 2 4
    t.vliw = some { v with loops := { start := e.next, last := e.target w w.b, count := pushCount e w, pro := k, epi := k, stages := k + 1, iter := 0 } :: v.loops } ∧
    t.mask 8 = BitVec.allOnes 1024 ∧ (∀ n, 9 ≤ n → n < 16 → t.mask n = 0) ∧ (∀ n, n < 8 → t.mask n = x.mask n) ∧ t.v = x.v ∧ t.s = x.s)

/-- MODE.vliw and MODE.simt complete under their conditions, a thread without a context takes the first free one when it is the oldest that waits, NOP
always, SLEEP once its limit is reached, and a sleeper goes on when ccnt reaches its limit (spec/05 R141, R148 to R150). So `modeVliwContextTaken`,
`sleepExpiry`, `modeVliw`, `modeSimt`, `nop` and `sleep` complete. -/
def Obligations.ModesAndSleepComplete : Prop :=
  CompletesWhen .modeVliw 0xD8 (fun _ e s => e.w.inflight = [] ∧ (s.group e.group).mode = .dual ∧ e.w.paths.length = 1 ∧ e.mask = 0xFFFFFFFF ∧ s.pending e.key = [])
    (fun _ e s => modeVliwEff e s) ∧
  CompletesWhen .modeSimt 0xD8 (fun _ e s => (s.group e.group).mode = .dual ∧ s.pending e.key = [] ∧ (headerOf e.header).yield = true ∧ e.depth = 0)
    (fun _ e s => modeSimtEff e s) ∧
  (∀ (s : State) g sl c, s.freeContext g = some c → s.contextWaiter g = some (warpKey g sl) →
    exec (.modeVliwContextTaken g sl) s =
      .next ((s.modWarp (warpKey g sl) fun w => { w with vliw := w.vliw.map fun x => { x with ctx := some c, wait := .none } }).rouse (g / 2) 1)) ∧
  CompletesAlways .nop 0xD9 (fun _ _ s => s) ∧
  CompletesWhen .sleep 0xDA (fun w e s => s.sleptOf e.party = true ∨ e.scalarPred w = false ∨ sleepLimit e w ≤ e.ccnt) (fun _ e s => s.setSlept e.party false) ∧
  (∀ (s : State) p n, s.waitOf p = .sleep n → n ≤ s.ccnt →
    exec (.sleepExpiry p) s = .next (((s.setWait p .none).setSlept p true).rouse (partyCore p) 7)) ∧
  (∀ (s : State) (e : Env) x, s.warps.get? e.key = some x →
    let y := (modeVliwEff e s).warp e.key
    let z := (modeSimtEff e s).warp e.key
    y.paths = [] ∧ (∃ v, y.vliw = some v ∧ v.pc = e.next ∧ v.ctx = s.freeContext e.group ∧ v.loops = []) ∧ y.v = x.v ∧ y.s = x.s ∧ y.m = x.m ∧
    z.vliw = none ∧ (∃ p, z.paths = [(0, p)] ∧ p.pc = e.next ∧ p.mask = 0xFFFFFFFF ∧ p.rpc = none) ∧ z.v = x.v ∧ z.s = x.s ∧ z.m = x.m)

/-! ### System forms -/

/-- GETSR, SETSR and CLK complete: GETSR of SATF once the issuer's float atomics are performed, SETSR unless it gives RMODE.MODE 5 to 7. SETSR clears the flags
of SATF by ones, and writes no register but the one it names, whatever its number. A LOGW that writes completes when its record has room, a LAUNCH when the partition has a queue
with a free entry and its record can be read; the scheduler takes the oldest tail notify once the entries it names can be read (spec/08 R237 to R239, R242, R243; spec/01 R35, R36; spec/09 R265 to
R267; spec/22 R474). So `tailNotify`, `getsr`, `setsr`, `clk`, `logw` and `launch` complete. -/
def Obligations.SystemFormsComplete : Prop :=
  CompletesWhen .getsr 0xE0 (fun w e s => csrNo w ≠ 0 ∨ s.satfBusy e.party = false)
    (fun w e s => s.commit e (wordLat e 0xE0 w) (e.sResult w (csrRead s e.core e.group (s.partyPart e.party) e.w (csrNo w)))) ∧
  CompletesWhen .setsr 0xE1 (fun w e _ => e.scalarPred w = true → csrNo w = 1 → (setsrValue e w).toNat % 8 ≤ 4)
    (fun w e s => if e.scalarPred w then
        (s.openSft e.core).modWarp e.key fun x => { x with csr := csrWrite x.csr (logOn s (s.partyPart e.party) 0) (csrNo w) (setsrValue e w) }
      else s) ∧
  CompletesAlways .clk 0xE7 (fun w e s => s.commit e (wordLat e 0xE7 w) (e.sResult w (match w.ext.toNat with | 0 => e.ccnt | 1 => e.acyc | _ => e.w.committed))) ∧
  (∀ old v : Word64, ∀ i, (satfWrite old v).getLsbD i = (decide (i < 4) && old.getLsbD i && !v.getLsbD i || decide (i = 63) && v.getLsbD i)) ∧
  (∀ (c : Csrs) log n v, let d := csrWrite c log n v
    d.rec0 = c.rec0 ∧ d.rec1 = c.rec1 ∧ d.rec2 = c.rec2 ∧ d.rec3 = c.rec3 ∧
    d.satf = (if n = 0 then satfWrite c.satf v else c.satf) ∧
    d.rmode = (if n = 1 ∧ v.toNat % 8 ≤ 4 then v.toNat % 8 else c.rmode) ∧
    d.scbchk = (if n = 2 then v.getLsbD 0 else c.scbchk) ∧
    d.sfbank = (if n = 9 then v.toNat % 2 else c.sfbank) ∧
    (d.logTag, d.logEn) = (if n = 11 then (v.toNat / 2 ^ 8 % 2 ^ 8, v.getLsbD 0 && log) else (c.logTag, c.logEn)) ∧
    d.stallcnt = (if n = 12 then v.toNat % 2 ^ 48 else c.stallcnt)) ∧
  CompletesWhen .logw 0xE6 (fun w e s => logwOn e w s = true → logFits s (s.partyPart e.party) 0 1 = true) (semLogw · |>.eff) ∧
  CompletesWhen .launch 0xE8 (fun w e s => e.scalarPred w = true → ∃ q, (s.part (s.partyPart e.party)).device = some q ∧
    (q.rsv + 2 ^ 32 - q.head) % 2 ^ 32 < 2 ^ q.dlog ∧ (∀ i < 128, unitOnly s (entryPa q q.rsv + i) = false) ∧ accessReady e s (launchAccess w q.rsv e s) = true) (fun w e s => launchEff w e s) ∧
  (∀ (s : State) part q n r, (s.part part).device = some q → q.notes = n :: r → notifies s q = true →
    exec (.tailNotify part) s = .next (consumeDevice part (2 ^ q.dlog + 1) (s.modPart part fun p =>
      { p with device := some { q with notes := r, tmax := if (n + 2 ^ 32 - q.tmax) % 2 ^ 32 < 2 ^ 31 then n else q.tmax } })))

/-- The forms over sequence records complete: ULA, SQREC and SQACC as one action that may go on, SQREC.wchk, SQBIND and LPCALL when the record is reached at
their issue and their checks pass, LPRET in LP mode. That the last three reach it at issue, and that SQREC.hist has bytes 64 to 255, is the model's reading
(DEDUCED, log entry 34). A logit program reaches the record it was called with alone (spec/07 R201; spec/08 R244 to R248;
spec/14 R363 to R367). So `ula`, `sqrecLd`, `sqrecSt`, `sqrecHist`, `sqrecCinc`, `sqrecCget`, `sqacc`, `sqrecWchk`, `sqbind`, `lpcall` and `lpret` complete. -/
def Obligations.RecordFormsComplete : Prop :=
  let own (w : IWord) (e : Env) (store : Bool) : Prop :=
    ∀ m, e.lpMode = some m → recordVa e w = roundDown m.record 256 ∧ (store = true → recordOff e w ≠ 8)
  let unit (mk : IWord → Instr) (op : Nat) (pre : IWord → Env → Prop) (a : IWord → Env → State → Access) : Prop :=
    CompletesWhen mk op (fun w e s => e.scalarPred w = true → pre w e ∧ accessReady e s (a w e s) = true)
      fun w e s => if !e.scalarPred w then s else s.issueAccess e (a w e s)
  unit .ula 0x92 (fun _ _ => True) ulaAccess ∧
  unit .sqrecLd 0xE9 (own · · false) (fun w e => unitAccess w (.sqLd (recordOff e w)) 0xE9 (recordOff e w) 8 0 e) ∧
  unit .sqrecSt 0xE9 (own · · true) (fun w e => unitAccess w (.sqSt (recordOff e w)) 0xE9 (recordOff e w) 8 (e.u64 w w.c) e) ∧
  unit .sqrecHist 0xE9 (own · · false) (fun w e => unitAccess w .sqHist 0xE9 64 192 (e.u64 w w.c) e) ∧
  unit .sqrecCinc 0xE9 (own · · false) (fun w e => unitAccess w .sqCinc 0xE9 16 8 (e.u64 w w.c) e) ∧
  unit .sqrecCget 0xE9 (own · · false) (fun w e => unitAccess w .sqCget 0xE9 16 8 (e.u64 w w.c) e) ∧
  unit .sqacc 0xEA (fun _ _ => True) (fun w e => unitAccess w (.sqAcc w.ext.toNat) 0xEA (if w.ext.toNat = 2 then 64 else 56) 8 (e.uniform w .n32 w.c) e) ∧
  CompletesWhen .sqrecWchk 0xE9
    (fun w e s => e.scalarPred w = true → own w e false ∧ ∃ t a base slot, atUnit e s (wchkAccess w e s) = .at t a base slot ∧ wchkOk s base slot (e.u64 w w.c) = true)
    (fun w e s => wchkEff w e s) ∧
  CompletesWhen .sqbind 0xEB (fun w e s => e.scalarPred w = true → ∃ t a base slot, bindCheck w e s = .at t a base slot) (semSqbind · |>.eff) ∧
  CompletesWhen .lpcall 0xEC (fun w e s => ∃ t a base slot, atUnit e s (callAccess w e s) = .at t a base slot ∧
    (bits (callHandle t a).2 54 9 = 0 ∨ (callFits e (callHandle t a).2 = true ∧ (e.view ≠ .stream → traceRoom e s 1 = true)))) (fun w e s => callEff w e s) ∧
  CompletesWhen .lpret 0xED (fun _ e s => (∃ m, e.w.lp = some m) ∧ (e.view ≠ .stream → traceRoom e s 1 = true))
    (fun _ e s => match e.w.lp with | none => s | some m => (s.modWarp e.key fun x => { x with lp := none }).goto e m.ret)

/-! ### Events of the part: launches, host, partitions, upkeep -/

/-- The scheduler's events take place under their conditions: the head record of a queue is admitted, ages, has a block placed and completes; a partition that
takes a discarding trap loses its work and its launches end with status 4, the first trap's launch with its record; an entry of the replay buffer whose REV has
changed walks again (spec/09 R253 to R255, R269, R271, R274; spec/19 R420, R421, R429). So `launchAdmission`, `recordAging`, `blockPlace`, `launchComplete`,
`discard` and `replayRetry` complete. -/
def Obligations.SchedulerEventsComplete : Prop :=
  (∀ (s : State) q p r, s.sched.queues.getD (queueKey q) [] = p :: r → p.launch = none → (∀ v, p.blocked = some v → s.counter (s.part p.partition).rev ≠ v) →
    membWaits s p = false → exec (.launchAdmission q) s = .next (s.admission q p)) ∧
  (∀ (s : State) q p r m, s.sched.queues.get? (queueKey q) = some (p :: r) → p.metAt = some m → p.aged = none → (s.part p.partition).state ≠ .saved →
    max p.arrived m + p.idle + s.boot.ageLimit ≤ s.ccnt →
    exec (.recordAging q) s =
      .next { s with sched := { s.sched with queues := s.sched.queues.set (queueKey q) ({ p with aged := some s.ccnt } :: r) } }) ∧
  (∀ (s : State) n cores k p t l, s.heads.find? (fun x => x.2.launch == some n) = some (k, p) → placement s k p cores = some t → servedNext s k p = true →
    t.launch? n = some l →
    let u : State := { t with sched := { t.sched with served := t.sched.served.set (recPrio p.record) k } }
    exec (.blockPlace n cores) s = .next (if recGrid l.record ≤ l.nextBid then u.popRecord k else u)) ∧
  (∀ (s : State) n l, s.launch? n = some l →
    (l.ended.isSome = true ∨ (l.nextBid = recGrid l.record ∧ l.retired = recGrid l.record ∧ (∀ kv ∈ s.cores, kv.2.launches.getD n 0 = 0) ∧
      ∀ x, (s.part l.partition).shadow = some x → ∀ kv ∈ x.cores, kv.2.launches.getD n 0 = 0)) →
    (∀ v, l.blocked = some v → s.counter (s.part l.partition).rev ≠ v) →
    exec (.launchComplete n) s = .next (s.completeLaunch n)) ∧
  (∀ (s : State) n first record, (s.part n).discarding = some (first, record) →
    ∃ t, exec (.discard n) s = .next t ∧ t.mem = s.mem ∧ (t.part n).discarding = none ∧ (∀ a ∈ t.accs, a.partition ≠ n) ∧ (∀ a ∈ s.accs, a.partition ≠ n → a ∈ t.accs) ∧
      (∀ k w, t.warps.get? k = some w → k < Config.groups * Config.warpSlots → (s.part n).set.testBit (k / Config.warpSlots / 2 / 18) = false) ∧
      (∀ k l, s.launch? k = some l → l.partition = n → 0 < l.nextBid → launchOver s k l = false →
        t.launch? k = some { l with ended := some { status := 4, detail := (if k = first then 0 else 1), trap := (if k = first then record else 0) } }) ∧
      ∀ k, (∀ l, (k, l) ∈ s.sched.launches → ¬ (l.partition = n ∧ 0 < l.nextBid ∧ launchOver s k l = false)) → t.launch? k = s.launch? k) ∧
  (∀ (s : State) core i e, retryDue s core = some (i, e) → ∃ t, exec (.replayRetry core i) s = .next t ∧
    t = let u := (((s.request (itemParty s core e.item).1 0).retryRecord core i e).modCore core fun c => { c with replay := c.replay.eraseIdx i }).retryItem core i { e with room := false }
        State.fillReplay (u.core core).replayWait.length core u)

/-- The host queues take place under their conditions (that LOGCTL starts a buffer at WP 0, and what BIND is refused for, is log entry 46, DEDUCED): QTAIL moves the tail of the lease's owner forward, an entry in sequence is consumed, and each command
completes when what it waits for has come (spec/18 R404 to R408; spec/10 R283, R284; spec/21 R456; spec/22 R473). So `qtail`, `hostQueueConsume`,
`launchCommand`, `hcopy`, `hcopyDone`, `signal`, `wait`, `bind`, `wsmode`, `wsmodeApply` and `logctl` complete. -/
def Obligations.HostQueuesComplete : Prop :=
  let performs (s : State) (q cmd : Nat) (e : BitVec 2048) : Prop := (s.queue q).current = some e ∧ cmdOf e = cmd
  (∀ (s : State) port q (v : Word64), s.ready = true → port = s.host.owner → q < Config.hostQueues →
    (v.toNat % 2 ^ 32 + 2 ^ 32 - (s.queue q).tail) % 2 ^ 32 < 2 ^ 31 →
    exec (.qtail port q v) s = .next (s.modQueue q fun x => { x with tail := v.toNat % 2 ^ 32 })) ∧
  (∀ (s : State) q, consumes s q = true → ((s.queue q).tail + 2 ^ 32 - (s.queue q).head) % 2 ^ 32 ≤ 2 ^ (s.queue q).dlog →
    let e := entryAt s (s.queue q)
    vbits e 32 32 = ((s.queue q).consumed + 1) % 2 ^ 32 → malformed (s.modQueue q fun y =>
      { y with consumed := vbits e 32 32, head := (y.head + 1) % 2 ^ 32, current := some e, serves := y.part, arrived := s.ccnt, mark := none, copying := false, moved := false, remote := [], ahead := [] }) (s.queue q).part e = false →
    ∃ t, exec (.hostQueueConsume q) s = .next t ∧ t.mem = s.mem ∧ (t.queue q).current = some e ∧ (t.queue q).consumed = vbits e 32 32 ∧ (t.queue q).arrived = s.ccnt ∧
      (t.queue q).head = ((s.queue q).head + 1) % 2 ^ 32) ∧
  (∀ (s : State) q e, performs s q 1 e → s.sched.queues.getD q [] = [] →
    ∃ p, exec (.launchCommand q) s = .next (s.enqueue q p) ∧ p.record = BitVec.ofNat 1024 (vbits e 1024 1024) ∧ p.qseq = vbits e 32 32 ∧
      p.partition = (s.queue q).serves ∧ p.arrived = (s.queue q).arrived) ∧
  (∀ (s : State) q e, performs s q 2 e → exec (.hcopy q) s = .next (s.modQueue q fun x => { x with copying := true })) ∧
  (∀ (s : State) q e, performs s q 2 e → (s.queue q).copying = true → (s.queue q).moved = false → hcopyRefused s (s.queue q) (opWord e 3) (opWord e 4) = false →
    rangeRefresh s (opWord e 2) (opWord e 4) = false → rangeRefresh s (opWord e 3) (opWord e 4) = false →
    slicesBlocked s (hcopyLines (opWord e 2) (opWord e 3) (opWord e 4)) (hostCode s.host.owner) none = false →
    let u := s.moveHcopy q (opWord e 2) (opWord e 3) (opWord e 4)
    exec (.hcopyDone q) s = .next (if (u.queue q).remote.isEmpty then u.completeCommand q 0 0 else u)) ∧
  (∀ (s : State) q e, performs s q 3 e → tevParts s (opWord e 2) = [] →
    exec (.signal q) s = .next ((s.addCounter (opWord e 2) (opWord e 3)).completeCommand q 0 0)) ∧
  (∀ (s : State) q e, performs s q 4 e → counterMet s (opWord e 2) (opWord e 3) = true → exec (.wait q) s = .next (s.completeCommand q 0 0)) ∧
  (∀ (s : State) q e, performs s q 5 e → bindRefused s (opWord e 2) = false →
    exec (.bind q) s = .next ((s.bind (opWord e 2) (opWord e 3) (opWord e 4)).completeCommand q 0 0)) ∧
  (∀ (s : State) q e, performs s q 6 e → (∀ d, ∀ x ∈ (s.die d).wsReq, x.1 ≠ q) → s.wsBehind q (opWord e 2) = false →
    exec (.wsmode q) s = .next (if (s.die (opWord e 2)).wsReq = [] ∧ (s.die (opWord e 2)).wsWrite = (opWord e 3 == 1) then s.completeCommand q 0 0
      else s.modDie (opWord e 2) fun x => { x with wsReq := x.wsReq ++ [(q, opWord e 3 == 1)] })) ∧
  (∀ (s : State) d q w r, (s.die d).wsReq = (q, w) :: r → (s.die d).wsWrite = w ∨ dieClear s d = true →
    exec (.wsmodeApply d) s = .next ((s.modDie d fun x => { x with wsWrite := w, wsReq := r }).completeCommand q 0 0)) ∧
  (∀ (s : State) q e, performs s q 7 e →
    exec (.logctl q) s = .next ((s.modPart (opWord e 2) fun p =>
      { p with logs := if opWord e 5 = 0 then p.logs.erase (opWord e 3)
                       else p.logs.set (opWord e 3) { pa := opWord e 4, bytes := opWord e 5, wp := 0, reserved := 0, wanted := 0 } }).completeCommand q 0 0))

/-- The PARTITION command's operations and the lease's events take place under their conditions: create on free quarters with a well-formed descriptor and a
share of its own, destroy of a partition at rest or saved, save, save with resume, resume; a claim of a lapsed lease, with which the host range passes to the memory of the
claiming port's host (the model keeps the other host's memory 2^50 higher, log entry 64), its renewal, warning and expiry
(spec/19 R430 to R434; spec/18 R400 to R402, R412). So `partitionCreate`, `partitionDestroy`, `partitionSave`, `partitionResume`, `partitionSaveResume`,
`partitionHaltComplete`, `claim`, `leaseWrite`, `leaseWarning` and `leaseExpiry` complete. -/
def Obligations.PartitionsAndLeaseComplete : Prop :=
  let performs (s : State) (q op : Nat) (e : BitVec 2048) : Prop := (s.queue q).current = some e ∧ cmdOf e = 8 ∧ opWord e 3 = op
  (∀ (s : State) q e, performs s q 0 e →
    let p := opWord e 2
    let set := opWord e 4
    let d := descOf s p
    (s.part p).state = .none → setFree s p set = true → descBad s d = false → shareTaken s p d = false →
    let x : Partition := { State.part0 with state := .active, set := set, desc := d, detmode := bit (opWord e 5) 0, cgate := bit (opWord e 5) 1 }
    let t : State := { s with parts := Tbl.set s.parts p x }
    exec (.partitionCreate q) s = .next (State.completeCommand ((setCores set).foldl (fun u c => u.modCore c (·.forPartition (lockedImage s d))) t) q 0 0)) ∧
  (∀ (s : State) q e, performs s q 1 e → (s.part (opWord e 2)).state = .active → partBusy s (opWord e 2) = false → (s.part (opWord e 2)).halting = false →
    exec (.partitionDestroy q) s = .next ((s.removePart (opWord e 2)).completeCommand q 0 0)) ∧
  (∀ (s : State) q e, performs s q 1 e → (s.part (opWord e 2)).state = .saved →
    let p := opWord e 2
    let u := s.endLaunches p fun _ => { status := 5, detail := 0, trap := 0 }
    exec (.partitionDestroy q) s = .next ((((u.endOver p).completeEnded p).removePart p).completeCommand q 0 0) ∧
    ∀ k l, s.launch? k = some l → l.partition = p → 0 < l.nextBid → launchOver s k l = false →
      u.launch? k = some { l with ended := some { status := 5, detail := 0, trap := 0 } }) ∧
  (∀ (s : State) p, (s.removePart p).part p = State.part0) ∧
  (∀ (s : State) q e, performs s q 2 e → (s.part (opWord e 2)).state = .active → (s.part (opWord e 2)).halting = false → shadowRoom s (s.part (opWord e 2)).set = true →
    exec (.partitionSave q) s = .next (s.startHalt (opWord e 2) q none)) ∧
  (∀ (s : State) q lost e, performs s q 3 e → resumeCheck s (opWord e 2) (opWord e 4) = none →
    exec (.partitionResume q lost) s = .next ((s.resume (opWord e 2) (opWord e 4) lost).completeCommand q 0 0)) ∧
  (∀ (s : State) q e, performs s q 4 e →
    let p := opWord e 2
    let x := s.part p
    x.state = .active → x.halting = false → shadowRoom s x.set = true → x.set &&& opWord e 4 = 0 → setFree s p (opWord e 4) = true → setFits x.set (opWord e 4) = true →
    descBad s (descOf s p) = false → shareTaken s p (descOf s p) = false →
    exec (.partitionSaveResume q) s = .next (s.startHalt p q (some (opWord e 4)))) ∧
  (∀ (s : State) p loss, (s.part p).halting = true → (s.part p).discarding = none → haltingYields s p = [] → halted s p = true →
    ((s.part p).target = none → exec (.partitionHaltComplete p loss) s = .next ((s.save p (loss == .saving)).completeCommand (s.part p).byQueue 0 0)) ∧
    ∀ new, (s.part p).target = some new → resumeRefused s p new = none → loss ≠ .saving →
      exec (.partitionHaltComplete p loss) s = .next (((s.save p false).resume p new (loss == .resuming)).completeCommand (s.part p).byQueue 0 0)) ∧
  (∀ (s : State) port (v : Word64), s.ready = true → port < 2 → v.toNat % 2 ^ 16 = 0xC1A1 → s.host.expiry ≤ s.ccnt →
    ∃ t, exec (.claim port v) s = .next t ∧ t.host.owner = port ∧ t.host.expiry = s.ccnt + 300000000 ∧ t.live = true ∧ (∀ q, (t.queue q).en = false) ∧
      (port = s.host.owner → t.mem = s.mem) ∧
      (port ≠ s.host.owner → ∀ a, memGet t.mem a =
        if 2 ^ 44 ≤ a ∧ a < 2 ^ 45 then memGet s.mem (a + 2 ^ 50)
        else if 2 ^ 44 + 2 ^ 50 ≤ a ∧ a < 2 ^ 45 + 2 ^ 50 then memGet s.mem (a - 2 ^ 50) else memGet s.mem a)) ∧
  (∀ (s : State) port (v : Word64), s.ready = true → port = s.host.owner → s.ccnt < s.host.expiry →
    exec (.leaseWrite port v) s = .next { s with host := { s.host with expiry := min (v.toNat % 2 ^ 62) (s.ccnt + 30000000000), warned := false } }) ∧
  (∀ (s : State), leaseWarns s = true → exec .leaseWarning s = .next (({ s with host := { s.host with warned := true } } : State).sendVector 65).heartbeat) ∧
  (∀ (s : State), s.host.leased = true → s.host.expiry ≤ s.ccnt → exec .leaseExpiry s = .next { s with host := { s.host with leased := false } })

/-- The host's accesses and registers, and a peer's operations: a BAR2 write through either port changes its bytes alone, those for a peer leave
for it, unless it touches a weight store in READ state, when it is dropped whole; a host atomic, a peer's operation, and the register commands have their effect (spec/18 R397, R402, R413 to R415; spec/22
R468 to R472). That LIVE reads 1 once written is log entry 64, and the DETAIL of a replaced core's record log entry 53. So `hostBar2Write`, `hostAtomic`, `remoteOpArrive`, `registerWrite`, `corespareGo`, `fmctlDrain`, `fmctlRestore`, `tdctlSnap`, `tdctlLive` and
`tdctlClear` complete. -/
def Obligations.HostAccessesComplete : Prop :=
  let owns (s : State) (port : Nat) : Prop := s.ready = true ∧ port = s.host.owner
  (∀ (s : State) port offset bytes, s.ready = true → offset + bytes.length ≤ s.host.bar2Bytes → readDies s (bar2Pa s offset) bytes.length = [] →
    let l := ((List.range bytes.length).map (bar2Pa s offset + ·)).zip bytes
    hostBlocked s (hostCode port) ((l.map (·.1)).filter (hostServed s)) = false → (∀ x ∈ l, inRefresh s x.1 = false) →
    exec (.hostBar2Write port offset bytes) s = .next ((s.hostStore (hostCode port) 6 l).sendBytes l).1 ∧
    ((∀ p k, logOn s p k = false) →
      let t := ((s.hostStore (hostCode port) 6 l).sendBytes l).1
      (∀ a, (∀ i < bytes.length, a ≠ bar2Pa s offset + i) → memGet t.mem a = memGet s.mem a) ∧
      ((∀ a, writeUe s [a] = none) → s.ras.poison = [] → ∀ i < bytes.length, hostServed s (bar2Pa s offset + i) = true →
        memGet t.mem (bar2Pa s offset + i) = bytes.getD i 0))) ∧
  (∀ (s : State) port offset bytes d r, s.ready = true → offset + bytes.length ≤ s.host.bar2Bytes → readDies s (bar2Pa s offset) bytes.length = d :: r →
    ∃ t, exec (.hostBar2Write port offset bytes) s = .next t ∧ t.mem = s.mem ∧ t.host.wsdrop.testBit d = true) ∧
  (∀ (s : State) port offset op wide operand, s.ready = true →
    let n := if wide then 8 else 4
    let pa := bar2Pa s offset
    pa % n = 0 → offset + n ≤ s.host.bar2Bytes → atomicHome s pa = true → hostBlocked s (hostCode port) [pa] = false → readUe s ((List.range n).map (pa + ·)) = none →
    s.ras.lastParty.get? (pa / 64) = none →
    ∃ t, exec (.hostAtomic port offset op wide operand) s = .next t ∧ (∀ a, a < pa ∨ pa + n ≤ a → memGet t.mem a = memGet s.mem a) ∧
      memNat t pa n = (match op with
        | .fetchAdd => (memNat s pa n + operand.toNat) % 2 ^ (8 * n)
        | .swap => operand.toNat % 2 ^ (8 * n)
        | .cas c => if memNat s pa n = c.toNat % 2 ^ (8 * n) then operand.toNat % 2 ^ (8 * n) else memNat s pa n)) ∧
  (∀ (s : State) port peer op, s.ready = true → inbound s peer = true → (remoteSpan op).1 + (remoteSpan op).2 ≤ windowBytes →
    (match op with | .store _ _ => True | .signal c _ => tevBusy s c none = false | _ => (remoteSpan op).1 % (remoteSpan op).2 = 0) →
    hostBlocked s (peerCode peer) ((List.range (remoteSpan op).2).map ((remoteSpan op).1 + ·)) = false →
    exec (.remoteOpArrive port peer op) s = .next (s.remoteOp peer op)) ∧
  (∀ (s : State) port offset (v : Word64), owns s port → exec (.registerWrite port offset v) s = .next (s.regWrite offset v.toNat)) ∧
  (∀ (s : State) port d (v : Word64), owns s port → d < Config.dies → v.getLsbD 63 = true →
    let logical := vbits v 48 7
    let phys := vbits v 32 7
    let u := s.modDie d fun x => { x with spareLogical := logical, sparePhys := phys }
    exec (.corespareGo port d v) s = .next (if spareOk u d logical phys then
        (u.modDie d fun x => { x with spareErr := false, spares := x.spares.set logical phys }).rasAdd 0 phys logical 4 0 d
      else u.modDie d fun x => { x with spareErr := true })) ∧
  (∀ (s : State) port n, owns s port → n < farPairs → (∀ k, k < farPairs → k ≠ n → s.far k = 0) →
    (s.far n = 0 → exec (.fmctlDrain port n) s = .next (s.setFar n 1 0)) ∧
    (s.far n = 2 → s.ras.farAbsent.getD n false = false → exec (.fmctlRestore port n) s = .next (s.setFar n 3 0))) ∧
  (∀ (s : State) port, owns s port →
    let snap := (List.range Config.groups).map (fun g => (g, (List.range 16).map (fun j => (j, leafNow s g j))))
    exec (.tdctlSnap port) s = .next { s with ras := { s.ras with snap := true, tdCycles := s.tdNow, snapshot := snap } } ∧
    exec (.tdctlLive port) s = .next { s with ras := { s.ras with snap := false, live := true } } ∧
    exec (.tdctlClear port) s = .next { s with groups := s.groups.mapVals (fun _ x => { x with leaves := [] }), ras := { s.ras with tdStart := s.ccnt } })

/-- Module reset, service runs, wake-ups, refresh windows, thermal windows and samples take place under their conditions (spec/21 R452 to R460; spec/19 R431,
R437 to R439; spec/10 R285; spec/20 R451). The UE record of a service run past its limit has CLASS 0 (DESIGN CHOICE, log entry 65). After a module reset ccnt is 0, and either the image has been taken or its code says why not. So `moduleReset`,
`serviceRunStart`, `serviceRunLimit`, `deadlineExpiry`, `coreWake`, `refreshWindowOpen`, `refreshWindowEnd`, `windowBoundary` and `samplePeriod` complete. -/
def Obligations.TimersAndServiceComplete : Prop :=
  (∀ (s : State) readable, ∃ t, exec (.moduleReset readable) s = .next t ∧ t.ccnt = 0 ∧ t.warps = [] ∧ t.accs = [] ∧ t.boot.code = imageCode s readable ∧
    (readable = false ∨ s.boot.flash = [] → t.boot.code = 5)) ∧
  (∀ (s : State) g k, serviceDue s g = some k → (s.group g).running = none → (s.part (s.corePartition (g / 2))).discarding = none →
    ∃ t, exec (.serviceRunStart g) s = .next t ∧ t.mem = s.mem ∧ (t.group g).service = some 0 ∧
      ∃ v, (t.warp (serviceKey g)).vliw = some v ∧ v.locked = true ∧ v.pc = lockedNat (s.core (g / 2)) (0xC0 + 8 * k) 8 / 2 ^ 32 % 2 ^ 14) ∧
  (∀ (s : State) g n, (s.group g).service = some n → 4096 ≤ n →
    exec (.serviceRunLimit g) s = .next (((s.endRun g).rasAdd 0 ((s.endRun g).physCore (g / 2)) 0 2 0 (dieOf (g / 2))).startDiscard (s.corePartition (g / 2)) noLaunch
      (recordOf { cause := causeUE, info := 2 ^ 11, addr := 0 } 0 true (s.pcOf (.service g)) s.ccnt))) ∧
  (∀ (s : State) g, (s.group g).deadline = some 0 → (s.group g).running.isSome = true → (s.group g).forced = false →
    exec (.deadlineExpiry g) s = .next (s.modGroup g fun y => { y with forced := true })) ∧
  (∀ (s : State) c cause, (s.core c).gated = true → cause ∈ (s.core c).woken →
    exec (.coreWake c cause) s = .next (s.modCore c fun x =>
      { x with gated := false, woken := [], wakeAt := s.acyc c + 40, wakeStamp := s.ccnt, wakeCause := cause })) ∧
  (∀ (s : State) d, s.ready = true → d < Config.dies → s.ccnt % 16384 < 512 → (s.die d).refreshing ≠ some (s.ccnt % 2 ^ 20 / 16384) →
    let b := s.ccnt % 2 ^ 20 / 16384
    exec (.refreshWindowOpen d) s = .next ((List.range 32).foldl (fun u i => u.scrub (bankLine d b (32 * (s.ccnt / 2 ^ 20 % 2 ^ 14) + i)))
      (s.modDie d fun x => { x with refreshing := some b }))) ∧
  (∀ (s : State) d b, d < Config.dies → (s.die d).refreshing = some b → refreshBank s ≠ some b →
    exec (.refreshWindowEnd d) s = .next ((State.flushLate s.late.length s).modDie d fun x => { x with refreshing := none })) ∧
  (∀ (s : State) d temperature energy, s.ready = true → d < Config.dies → (s.die d).window < s.ccnt / 3000000 →
    ∃ t, exec (.windowBoundary d temperature energy) s = .next t ∧ t.mem = s.mem ∧ (t.die d).temperature = temperature ∧ (t.die d).energy = energy ∧
      (t.die d).window = (s.die d).window + 1 ∧ (t.die d).thermal = (windowState s d temperature energy).1) ∧
  (∀ (s : State) core, sampleDue s core = true → ∃ t, exec (.samplePeriod core) s = .next t ∧ sampleDue t core = false)

/-- Scrubs, repairs, far-memory moves, evictions, room in a log buffer, and stores into the debug window with the command they give take place under their
conditions (spec/22 R464 to R469, R474; spec/18 R414; spec/20 R443, R444; spec/10 R294). The UNIT of a record and the spare row as an input are log entry 53, the
debugger's commands log entry 44 (both DEDUCED). So `patrolScrub`, `dramRowRepair`, `weightStoreBankRepair`,
`runnerLaneSpare`, `flitReplay`, `farMemoryUnitMove`, `farMemoryModuleRemoved`, `farMemoryModuleSeated`, `eviction`, `logBufferRoom`, `debugWindowWrite`,
`dcmdHalt`, `dcmdRelease`, `dcmdStep1` and `dcmdStepy` complete. -/
def Obligations.UpkeepAndDebugComplete : Prop :=
  let opens (i : Instr) (n op : Nat) : Prop := ∀ (s : State) a, s.acc? n = some a → a.window s = true → a.dcmd s = op → a.sent = none → a.performable s = true →
    (s.part a.partition).discarding = none → exec i s = .next ((s.performWindow a).rouse a.core 5)
  (∀ n, opens (.debugWindowWrite n) n 0 ∧ opens (.dcmdHalt n) n 1 ∧ opens (.dcmdRelease n) n 2 ∧ opens (.dcmdStep1 n) n 3 ∧ opens (.dcmdStepy n) n 4) ∧
  (∀ (s : State) line, (∃ d, homeOf s (64 * line) = .near d) ∨ homeOf s (64 * line) = .far → exec (.patrolScrub line) s = .next (s.scrub line)) ∧
  (∀ (s : State) line r cls, (homeOf s (64 * line) = .far ∧ cls = 6) ∨ ((∃ d, homeOf s (64 * line) = .near d) ∧ cls = 5) ∨
      ((∃ d, homeOf s (64 * line) = .weights d) ∧ cls = 4) → rowDue s line = true →
    let d := errDie s (64 * line)
    let u := ((s.ras.upsets.map (·.1)).filter (sameRow line)).foldl State.scrub s
    (s.die d).rows.contains r = false →
    exec (.dramRowRepair line (some r)) s =
      .next (((u.rowDone line).modDie d fun x => { x with rows := r :: x.rows }).rasAdd (64 * line) (unitOf s (64 * line)) r 5 cls d) ∧
    ∃ t, exec (.dramRowRepair line none) s = .next t ∧ t.mem = s.mem ∧ (cls = 4 → unitOf s (64 * line) ∈ (t.die d).worn)) ∧
  (∀ (s : State) d bank, d < Config.dies → bank ∈ (s.die d).worn → (s.die d).banks.length < 2 →
    let n := (s.die d).bankMoved.getD bank 0 + 1
    exec (.weightStoreBankRepair d bank) s = .next (if n < bankUnits then s.modDie d fun x => { x with bankMoved := x.bankMoved.set bank n }
      else (s.modDie d fun x => { x with banks := bank :: x.banks, worn := x.worn.filter (· != bank), bankMoved := x.bankMoved.erase bank }).rasAdd 0 bank
        (s.die d).banks.length 6 4 d)) ∧
  (∀ (s : State) port lane, port < runnerPorts → lane < 9 →
    ∃ t, exec (.runnerLaneSpare port lane) s = .next t ∧ t.mem = s.mem ∧ t.host.lanes.getD port 0 = min 2 (s.host.lanes.getD port 0 + 1)) ∧
  (∀ (s : State) port, port < runnerPorts → exec (.flitReplay port) s = .next (s.countCe (port % 4) 7 0 port)) ∧
  (∀ (s : State) n, s.far n = 1 ∨ s.far n = 3 →
    let k := s.ras.farMoved.getD n 0 + 1
    exec (.farMemoryUnitMove n) s = .next (if pairUnits n ≤ k then s.setFar n (if s.far n = 1 then 2 else 0) k
      else { s with ras := { s.ras with farMoved := s.ras.farMoved.set n k } })) ∧
  (∀ (s : State) n, n < farPairs →
    (∃ t, exec (.farMemoryModuleRemoved n) s = .next t ∧ t.mem = s.mem ∧ t.ras.farAbsent.getD n false = true ∧
      t.ras.farLost.getD n false = (if s.far n = 2 then s.ras.farLost.getD n false else true)) ∧
    exec (.farMemoryModuleSeated n) s = .next { s with ras := { s.ras with farAbsent := s.ras.farAbsent.set n false } }) ∧
  (∀ (s : State) c i, exec (.eviction (.tile c i)) s = .next (s.modCore c fun x => { x with tiles := x.tiles.eraseIdx i })) ∧
  (∀ (s : State) c line, ∃ t, exec (.eviction (.l1 c line)) s = .next t ∧ t.mem = s.mem ∧ (t.core c).l1.get? line = none) ∧
  (∀ (s : State) line, ∃ t, exec (.eviction (.l2 line)) s = .next t ∧ t.mem = s.mem ∧ t.cores = s.cores ∧ t.warps = s.warps) ∧
  (∀ (s : State) p kind, roomFound s p kind = true →
    exec (.logBufferRoom p kind) s = .next (s.modPart p fun x => { x with logs := x.logs.modify kind fun b => { b with wanted := 0 } }))
end

