-- ==== Sys2Proof/Laws/Tbl.lean ====
section
/-!
SUPPORT. Reading a table after a write, an erasure, a change, or a change of every entry.
-/
namespace Sys2Proof.Machine.Tbl

variable {α : Type}

@[simp] theorem get?_nil (k : Nat) : get? ([] : Tbl α) k = none := rfl

theorem get?_cons (j k : Nat) (x : α) (r : Tbl α) : get? ((j, x) :: r) k = if j = k then some x else get? r k := rfl

theorem get?_set (t : Tbl α) (k l : Nat) (v : α) : (t.set k v).get? l = if k = l then some v else t.get? l := by
  induction t with
  | nil => rfl
  | cons p r ih =>
    obtain ⟨j, x⟩ := p
    simp only [set]
    split
    · simp only [get?_cons]
    · split
      · subst j; simp only [get?_cons]; split <;> rfl
      · simp only [get?_cons, ih]
        split
        · subst j
          split
          · subst k; simp_all
          · rfl
        · rfl

@[simp] theorem get?_set_self (t : Tbl α) (k : Nat) (v : α) : (t.set k v).get? k = some v := by simp [get?_set]

theorem get?_set_ne (t : Tbl α) {k l : Nat} (v : α) (h : k ≠ l) : (t.set k v).get? l = t.get? l := by simp [get?_set, h]

theorem getD_set (t : Tbl α) (k l : Nat) (v d : α) : (t.set k v).getD l d = if k = l then v else t.getD l d := by
  simp only [getD, get?_set]; split <;> rfl

@[simp] theorem getD_set_self (t : Tbl α) (k : Nat) (v d : α) : (t.set k v).getD k d = v := by simp [getD_set]

theorem getD_set_ne (t : Tbl α) {k l : Nat} (v d : α) (h : k ≠ l) : (t.set k v).getD l d = t.getD l d := by simp [getD_set, h]

theorem get?_erase (t : Tbl α) (k l : Nat) : (t.erase k).get? l = if k = l then none else t.get? l := by
  induction t with
  | nil => simp [erase]
  | cons p r ih =>
    obtain ⟨j, x⟩ := p
    simp only [erase]
    split
    · subst j; simp only [ih, get?_cons]; split <;> simp_all
    · simp only [get?_cons, ih]; split
      · subst j; simp_all [eq_comm]
      · rfl

theorem get?_modify (t : Tbl α) (k l : Nat) (f : α → α) : (t.modify k f).get? l = if k = l then (t.get? l).map f else t.get? l := by
  simp only [modify]
  cases h : t.get? k with
  | none => simp only; split
            · subst k; simp [h]
            · rfl
  | some x => simp only [get?_set]; split
              · subst k; simp [h]
              · rfl

@[simp] theorem get?_modify_self (t : Tbl α) (k : Nat) (f : α → α) : (t.modify k f).get? k = (t.get? k).map f := by simp [get?_modify]

theorem get?_modify_ne (t : Tbl α) {k l : Nat} (f : α → α) (h : k ≠ l) : (t.modify k f).get? l = t.get? l := by simp [get?_modify, h]

theorem get?_mapVals (t : Tbl α) (f : Nat → α → α) (k : Nat) : (t.mapVals f).get? k = (t.get? k).map (f k) := by
  induction t with
  | nil => rfl
  | cons p r ih =>
    obtain ⟨j, x⟩ := p
    simp only [mapVals, List.map_cons] at ih ⊢
    simp only [get?_cons, ih]
    split
    · subst j; rfl
    · rfl

end Sys2Proof.Machine.Tbl
end

