-- ==== Sys2Proof/Laws/State.lean ====
section
/-!
SUPPORT. What the named updates of the state change, and that they change nothing else.
-/
namespace Sys2Proof.Machine.State

open Sys2Proof

@[simp] theorem setWarp_ccnt (s : State) (k : Nat) (w : Warp) : (s.setWarp k w).ccnt = s.ccnt := rfl
@[simp] theorem setWarp_boot (s : State) (k : Nat) (w : Warp) : (s.setWarp k w).boot = s.boot := rfl
@[simp] theorem setWarp_mem (s : State) (k : Nat) (w : Warp) : (s.setWarp k w).mem = s.mem := rfl
@[simp] theorem setWarp_groups (s : State) (k : Nat) (w : Warp) : (s.setWarp k w).groups = s.groups := rfl
@[simp] theorem setWarp_cores (s : State) (k : Nat) (w : Warp) : (s.setWarp k w).cores = s.cores := rfl
@[simp] theorem setWarp_sched (s : State) (k : Nat) (w : Warp) : (s.setWarp k w).sched = s.sched := rfl
@[simp] theorem setWarp_parts (s : State) (k : Nat) (w : Warp) : (s.setWarp k w).parts = s.parts := rfl
@[simp] theorem setWarp_dies (s : State) (k : Nat) (w : Warp) : (s.setWarp k w).dies = s.dies := rfl
@[simp] theorem setWarp_host (s : State) (k : Nat) (w : Warp) : (s.setWarp k w).host = s.host := rfl
@[simp] theorem setWarp_ras (s : State) (k : Nat) (w : Warp) : (s.setWarp k w).ras = s.ras := rfl
@[simp] theorem setWarp_accs (s : State) (k : Nat) (w : Warp) : (s.setWarp k w).accs = s.accs := rfl
@[simp] theorem setWarp_serial (s : State) (k : Nat) (w : Warp) : (s.setWarp k w).serial = s.serial := rfl
@[simp] theorem setWarp_agenda (s : State) (k : Nat) (w : Warp) : (s.setWarp k w).agenda = s.agenda := rfl
@[simp] theorem setWarp_cur (s : State) (k : Nat) (w : Warp) : (s.setWarp k w).cur = s.cur := rfl

@[simp] theorem modWarp_ccnt (s : State) (k : Nat) (f : Warp → Warp) : (s.modWarp k f).ccnt = s.ccnt := rfl
@[simp] theorem modWarp_boot (s : State) (k : Nat) (f : Warp → Warp) : (s.modWarp k f).boot = s.boot := rfl
@[simp] theorem modWarp_mem (s : State) (k : Nat) (f : Warp → Warp) : (s.modWarp k f).mem = s.mem := rfl
@[simp] theorem modWarp_groups (s : State) (k : Nat) (f : Warp → Warp) : (s.modWarp k f).groups = s.groups := rfl
@[simp] theorem modWarp_cores (s : State) (k : Nat) (f : Warp → Warp) : (s.modWarp k f).cores = s.cores := rfl
@[simp] theorem modWarp_sched (s : State) (k : Nat) (f : Warp → Warp) : (s.modWarp k f).sched = s.sched := rfl
@[simp] theorem modWarp_parts (s : State) (k : Nat) (f : Warp → Warp) : (s.modWarp k f).parts = s.parts := rfl
@[simp] theorem modWarp_dies (s : State) (k : Nat) (f : Warp → Warp) : (s.modWarp k f).dies = s.dies := rfl
@[simp] theorem modWarp_host (s : State) (k : Nat) (f : Warp → Warp) : (s.modWarp k f).host = s.host := rfl
@[simp] theorem modWarp_ras (s : State) (k : Nat) (f : Warp → Warp) : (s.modWarp k f).ras = s.ras := rfl
@[simp] theorem modWarp_accs (s : State) (k : Nat) (f : Warp → Warp) : (s.modWarp k f).accs = s.accs := rfl
@[simp] theorem modWarp_serial (s : State) (k : Nat) (f : Warp → Warp) : (s.modWarp k f).serial = s.serial := rfl
@[simp] theorem modWarp_agenda (s : State) (k : Nat) (f : Warp → Warp) : (s.modWarp k f).agenda = s.agenda := rfl
@[simp] theorem modWarp_cur (s : State) (k : Nat) (f : Warp → Warp) : (s.modWarp k f).cur = s.cur := rfl

@[simp] theorem setGroup_ccnt (s : State) (g : Nat) (x : Group) : (s.setGroup g x).ccnt = s.ccnt := rfl
@[simp] theorem setGroup_boot (s : State) (g : Nat) (x : Group) : (s.setGroup g x).boot = s.boot := rfl
@[simp] theorem setGroup_mem (s : State) (g : Nat) (x : Group) : (s.setGroup g x).mem = s.mem := rfl
@[simp] theorem setGroup_warps (s : State) (g : Nat) (x : Group) : (s.setGroup g x).warps = s.warps := rfl
@[simp] theorem setGroup_cores (s : State) (g : Nat) (x : Group) : (s.setGroup g x).cores = s.cores := rfl
@[simp] theorem setGroup_sched (s : State) (g : Nat) (x : Group) : (s.setGroup g x).sched = s.sched := rfl
@[simp] theorem setGroup_parts (s : State) (g : Nat) (x : Group) : (s.setGroup g x).parts = s.parts := rfl
@[simp] theorem setGroup_dies (s : State) (g : Nat) (x : Group) : (s.setGroup g x).dies = s.dies := rfl
@[simp] theorem setGroup_host (s : State) (g : Nat) (x : Group) : (s.setGroup g x).host = s.host := rfl
@[simp] theorem setGroup_ras (s : State) (g : Nat) (x : Group) : (s.setGroup g x).ras = s.ras := rfl
@[simp] theorem setGroup_accs (s : State) (g : Nat) (x : Group) : (s.setGroup g x).accs = s.accs := rfl
@[simp] theorem setGroup_serial (s : State) (g : Nat) (x : Group) : (s.setGroup g x).serial = s.serial := rfl
@[simp] theorem setGroup_agenda (s : State) (g : Nat) (x : Group) : (s.setGroup g x).agenda = s.agenda := rfl
@[simp] theorem setGroup_cur (s : State) (g : Nat) (x : Group) : (s.setGroup g x).cur = s.cur := rfl

@[simp] theorem modGroup_ccnt (s : State) (g : Nat) (f : Group → Group) : (s.modGroup g f).ccnt = s.ccnt := rfl
@[simp] theorem modGroup_boot (s : State) (g : Nat) (f : Group → Group) : (s.modGroup g f).boot = s.boot := rfl
@[simp] theorem modGroup_mem (s : State) (g : Nat) (f : Group → Group) : (s.modGroup g f).mem = s.mem := rfl
@[simp] theorem modGroup_warps (s : State) (g : Nat) (f : Group → Group) : (s.modGroup g f).warps = s.warps := rfl
@[simp] theorem modGroup_cores (s : State) (g : Nat) (f : Group → Group) : (s.modGroup g f).cores = s.cores := rfl
@[simp] theorem modGroup_sched (s : State) (g : Nat) (f : Group → Group) : (s.modGroup g f).sched = s.sched := rfl
@[simp] theorem modGroup_parts (s : State) (g : Nat) (f : Group → Group) : (s.modGroup g f).parts = s.parts := rfl
@[simp] theorem modGroup_dies (s : State) (g : Nat) (f : Group → Group) : (s.modGroup g f).dies = s.dies := rfl
@[simp] theorem modGroup_host (s : State) (g : Nat) (f : Group → Group) : (s.modGroup g f).host = s.host := rfl
@[simp] theorem modGroup_ras (s : State) (g : Nat) (f : Group → Group) : (s.modGroup g f).ras = s.ras := rfl
@[simp] theorem modGroup_accs (s : State) (g : Nat) (f : Group → Group) : (s.modGroup g f).accs = s.accs := rfl
@[simp] theorem modGroup_serial (s : State) (g : Nat) (f : Group → Group) : (s.modGroup g f).serial = s.serial := rfl
@[simp] theorem modGroup_agenda (s : State) (g : Nat) (f : Group → Group) : (s.modGroup g f).agenda = s.agenda := rfl
@[simp] theorem modGroup_cur (s : State) (g : Nat) (f : Group → Group) : (s.modGroup g f).cur = s.cur := rfl

@[simp] theorem setCore_ccnt (s : State) (c : Nat) (x : Core) : (s.setCore c x).ccnt = s.ccnt := rfl
@[simp] theorem setCore_boot (s : State) (c : Nat) (x : Core) : (s.setCore c x).boot = s.boot := rfl
@[simp] theorem setCore_mem (s : State) (c : Nat) (x : Core) : (s.setCore c x).mem = s.mem := rfl
@[simp] theorem setCore_warps (s : State) (c : Nat) (x : Core) : (s.setCore c x).warps = s.warps := rfl
@[simp] theorem setCore_groups (s : State) (c : Nat) (x : Core) : (s.setCore c x).groups = s.groups := rfl
@[simp] theorem setCore_sched (s : State) (c : Nat) (x : Core) : (s.setCore c x).sched = s.sched := rfl
@[simp] theorem setCore_parts (s : State) (c : Nat) (x : Core) : (s.setCore c x).parts = s.parts := rfl
@[simp] theorem setCore_dies (s : State) (c : Nat) (x : Core) : (s.setCore c x).dies = s.dies := rfl
@[simp] theorem setCore_host (s : State) (c : Nat) (x : Core) : (s.setCore c x).host = s.host := rfl
@[simp] theorem setCore_ras (s : State) (c : Nat) (x : Core) : (s.setCore c x).ras = s.ras := rfl
@[simp] theorem setCore_accs (s : State) (c : Nat) (x : Core) : (s.setCore c x).accs = s.accs := rfl
@[simp] theorem setCore_serial (s : State) (c : Nat) (x : Core) : (s.setCore c x).serial = s.serial := rfl
@[simp] theorem setCore_agenda (s : State) (c : Nat) (x : Core) : (s.setCore c x).agenda = s.agenda := rfl
@[simp] theorem setCore_cur (s : State) (c : Nat) (x : Core) : (s.setCore c x).cur = s.cur := rfl

@[simp] theorem modCore_ccnt (s : State) (c : Nat) (f : Core → Core) : (s.modCore c f).ccnt = s.ccnt := rfl
@[simp] theorem modCore_boot (s : State) (c : Nat) (f : Core → Core) : (s.modCore c f).boot = s.boot := rfl
@[simp] theorem modCore_mem (s : State) (c : Nat) (f : Core → Core) : (s.modCore c f).mem = s.mem := rfl
@[simp] theorem modCore_warps (s : State) (c : Nat) (f : Core → Core) : (s.modCore c f).warps = s.warps := rfl
@[simp] theorem modCore_groups (s : State) (c : Nat) (f : Core → Core) : (s.modCore c f).groups = s.groups := rfl
@[simp] theorem modCore_sched (s : State) (c : Nat) (f : Core → Core) : (s.modCore c f).sched = s.sched := rfl
@[simp] theorem modCore_parts (s : State) (c : Nat) (f : Core → Core) : (s.modCore c f).parts = s.parts := rfl
@[simp] theorem modCore_dies (s : State) (c : Nat) (f : Core → Core) : (s.modCore c f).dies = s.dies := rfl
@[simp] theorem modCore_host (s : State) (c : Nat) (f : Core → Core) : (s.modCore c f).host = s.host := rfl
@[simp] theorem modCore_ras (s : State) (c : Nat) (f : Core → Core) : (s.modCore c f).ras = s.ras := rfl
@[simp] theorem modCore_accs (s : State) (c : Nat) (f : Core → Core) : (s.modCore c f).accs = s.accs := rfl
@[simp] theorem modCore_serial (s : State) (c : Nat) (f : Core → Core) : (s.modCore c f).serial = s.serial := rfl
@[simp] theorem modCore_agenda (s : State) (c : Nat) (f : Core → Core) : (s.modCore c f).agenda = s.agenda := rfl
@[simp] theorem modCore_cur (s : State) (c : Nat) (f : Core → Core) : (s.modCore c f).cur = s.cur := rfl

@[simp] theorem modDie_ccnt (s : State) (d : Nat) (f : Die → Die) : (s.modDie d f).ccnt = s.ccnt := rfl
@[simp] theorem modDie_boot (s : State) (d : Nat) (f : Die → Die) : (s.modDie d f).boot = s.boot := rfl
@[simp] theorem modDie_mem (s : State) (d : Nat) (f : Die → Die) : (s.modDie d f).mem = s.mem := rfl
@[simp] theorem modDie_warps (s : State) (d : Nat) (f : Die → Die) : (s.modDie d f).warps = s.warps := rfl
@[simp] theorem modDie_groups (s : State) (d : Nat) (f : Die → Die) : (s.modDie d f).groups = s.groups := rfl
@[simp] theorem modDie_cores (s : State) (d : Nat) (f : Die → Die) : (s.modDie d f).cores = s.cores := rfl
@[simp] theorem modDie_sched (s : State) (d : Nat) (f : Die → Die) : (s.modDie d f).sched = s.sched := rfl
@[simp] theorem modDie_parts (s : State) (d : Nat) (f : Die → Die) : (s.modDie d f).parts = s.parts := rfl
@[simp] theorem modDie_host (s : State) (d : Nat) (f : Die → Die) : (s.modDie d f).host = s.host := rfl
@[simp] theorem modDie_ras (s : State) (d : Nat) (f : Die → Die) : (s.modDie d f).ras = s.ras := rfl
@[simp] theorem modDie_accs (s : State) (d : Nat) (f : Die → Die) : (s.modDie d f).accs = s.accs := rfl
@[simp] theorem modDie_serial (s : State) (d : Nat) (f : Die → Die) : (s.modDie d f).serial = s.serial := rfl
@[simp] theorem modDie_agenda (s : State) (d : Nat) (f : Die → Die) : (s.modDie d f).agenda = s.agenda := rfl
@[simp] theorem modDie_cur (s : State) (d : Nat) (f : Die → Die) : (s.modDie d f).cur = s.cur := rfl

@[simp] theorem modPart_ccnt (s : State) (p : Nat) (f : Partition → Partition) : (s.modPart p f).ccnt = s.ccnt := rfl
@[simp] theorem modPart_boot (s : State) (p : Nat) (f : Partition → Partition) : (s.modPart p f).boot = s.boot := rfl
@[simp] theorem modPart_mem (s : State) (p : Nat) (f : Partition → Partition) : (s.modPart p f).mem = s.mem := rfl
@[simp] theorem modPart_warps (s : State) (p : Nat) (f : Partition → Partition) : (s.modPart p f).warps = s.warps := rfl
@[simp] theorem modPart_groups (s : State) (p : Nat) (f : Partition → Partition) : (s.modPart p f).groups = s.groups := rfl
@[simp] theorem modPart_cores (s : State) (p : Nat) (f : Partition → Partition) : (s.modPart p f).cores = s.cores := rfl
@[simp] theorem modPart_sched (s : State) (p : Nat) (f : Partition → Partition) : (s.modPart p f).sched = s.sched := rfl
@[simp] theorem modPart_dies (s : State) (p : Nat) (f : Partition → Partition) : (s.modPart p f).dies = s.dies := rfl
@[simp] theorem modPart_host (s : State) (p : Nat) (f : Partition → Partition) : (s.modPart p f).host = s.host := rfl
@[simp] theorem modPart_ras (s : State) (p : Nat) (f : Partition → Partition) : (s.modPart p f).ras = s.ras := rfl
@[simp] theorem modPart_accs (s : State) (p : Nat) (f : Partition → Partition) : (s.modPart p f).accs = s.accs := rfl
@[simp] theorem modPart_serial (s : State) (p : Nat) (f : Partition → Partition) : (s.modPart p f).serial = s.serial := rfl
@[simp] theorem modPart_agenda (s : State) (p : Nat) (f : Partition → Partition) : (s.modPart p f).agenda = s.agenda := rfl
@[simp] theorem modPart_cur (s : State) (p : Nat) (f : Partition → Partition) : (s.modPart p f).cur = s.cur := rfl

@[simp] theorem modLaunch_ccnt (s : State) (l : Nat) (f : Launch → Launch) : (s.modLaunch l f).ccnt = s.ccnt := rfl
@[simp] theorem modLaunch_boot (s : State) (l : Nat) (f : Launch → Launch) : (s.modLaunch l f).boot = s.boot := rfl
@[simp] theorem modLaunch_mem (s : State) (l : Nat) (f : Launch → Launch) : (s.modLaunch l f).mem = s.mem := rfl
@[simp] theorem modLaunch_warps (s : State) (l : Nat) (f : Launch → Launch) : (s.modLaunch l f).warps = s.warps := rfl
@[simp] theorem modLaunch_groups (s : State) (l : Nat) (f : Launch → Launch) : (s.modLaunch l f).groups = s.groups := rfl
@[simp] theorem modLaunch_cores (s : State) (l : Nat) (f : Launch → Launch) : (s.modLaunch l f).cores = s.cores := rfl
@[simp] theorem modLaunch_parts (s : State) (l : Nat) (f : Launch → Launch) : (s.modLaunch l f).parts = s.parts := rfl
@[simp] theorem modLaunch_dies (s : State) (l : Nat) (f : Launch → Launch) : (s.modLaunch l f).dies = s.dies := rfl
@[simp] theorem modLaunch_host (s : State) (l : Nat) (f : Launch → Launch) : (s.modLaunch l f).host = s.host := rfl
@[simp] theorem modLaunch_ras (s : State) (l : Nat) (f : Launch → Launch) : (s.modLaunch l f).ras = s.ras := rfl
@[simp] theorem modLaunch_accs (s : State) (l : Nat) (f : Launch → Launch) : (s.modLaunch l f).accs = s.accs := rfl
@[simp] theorem modLaunch_serial (s : State) (l : Nat) (f : Launch → Launch) : (s.modLaunch l f).serial = s.serial := rfl
@[simp] theorem modLaunch_agenda (s : State) (l : Nat) (f : Launch → Launch) : (s.modLaunch l f).agenda = s.agenda := rfl
@[simp] theorem modLaunch_cur (s : State) (l : Nat) (f : Launch → Launch) : (s.modLaunch l f).cur = s.cur := rfl

@[simp] theorem modBlock_ccnt (s : State) (b : Nat) (f : Block → Block) : (s.modBlock b f).ccnt = s.ccnt := rfl
@[simp] theorem modBlock_boot (s : State) (b : Nat) (f : Block → Block) : (s.modBlock b f).boot = s.boot := rfl
@[simp] theorem modBlock_mem (s : State) (b : Nat) (f : Block → Block) : (s.modBlock b f).mem = s.mem := rfl
@[simp] theorem modBlock_warps (s : State) (b : Nat) (f : Block → Block) : (s.modBlock b f).warps = s.warps := rfl
@[simp] theorem modBlock_groups (s : State) (b : Nat) (f : Block → Block) : (s.modBlock b f).groups = s.groups := rfl
@[simp] theorem modBlock_cores (s : State) (b : Nat) (f : Block → Block) : (s.modBlock b f).cores = s.cores := rfl
@[simp] theorem modBlock_parts (s : State) (b : Nat) (f : Block → Block) : (s.modBlock b f).parts = s.parts := rfl
@[simp] theorem modBlock_dies (s : State) (b : Nat) (f : Block → Block) : (s.modBlock b f).dies = s.dies := rfl
@[simp] theorem modBlock_host (s : State) (b : Nat) (f : Block → Block) : (s.modBlock b f).host = s.host := rfl
@[simp] theorem modBlock_ras (s : State) (b : Nat) (f : Block → Block) : (s.modBlock b f).ras = s.ras := rfl
@[simp] theorem modBlock_accs (s : State) (b : Nat) (f : Block → Block) : (s.modBlock b f).accs = s.accs := rfl
@[simp] theorem modBlock_serial (s : State) (b : Nat) (f : Block → Block) : (s.modBlock b f).serial = s.serial := rfl
@[simp] theorem modBlock_agenda (s : State) (b : Nat) (f : Block → Block) : (s.modBlock b f).agenda = s.agenda := rfl
@[simp] theorem modBlock_cur (s : State) (b : Nat) (f : Block → Block) : (s.modBlock b f).cur = s.cur := rfl

@[simp] theorem poke_ccnt (s : State) (pa n v : Nat) : (s.poke pa n v).ccnt = s.ccnt := rfl
@[simp] theorem poke_boot (s : State) (pa n v : Nat) : (s.poke pa n v).boot = s.boot := rfl
@[simp] theorem poke_warps (s : State) (pa n v : Nat) : (s.poke pa n v).warps = s.warps := rfl
@[simp] theorem poke_groups (s : State) (pa n v : Nat) : (s.poke pa n v).groups = s.groups := rfl
@[simp] theorem poke_cores (s : State) (pa n v : Nat) : (s.poke pa n v).cores = s.cores := rfl
@[simp] theorem poke_sched (s : State) (pa n v : Nat) : (s.poke pa n v).sched = s.sched := rfl
@[simp] theorem poke_parts (s : State) (pa n v : Nat) : (s.poke pa n v).parts = s.parts := rfl
@[simp] theorem poke_dies (s : State) (pa n v : Nat) : (s.poke pa n v).dies = s.dies := rfl
@[simp] theorem poke_host (s : State) (pa n v : Nat) : (s.poke pa n v).host = s.host := rfl
@[simp] theorem poke_ras (s : State) (pa n v : Nat) : (s.poke pa n v).ras = s.ras := rfl
@[simp] theorem poke_accs (s : State) (pa n v : Nat) : (s.poke pa n v).accs = s.accs := rfl
@[simp] theorem poke_serial (s : State) (pa n v : Nat) : (s.poke pa n v).serial = s.serial := rfl
@[simp] theorem poke_agenda (s : State) (pa n v : Nat) : (s.poke pa n v).agenda = s.agenda := rfl
@[simp] theorem poke_cur (s : State) (pa n v : Nat) : (s.poke pa n v).cur = s.cur := rfl

@[simp] theorem pokeBytes_ccnt (s : State) (pa : Nat) (l : List Byte) : (s.pokeBytes pa l).ccnt = s.ccnt := rfl
@[simp] theorem pokeBytes_boot (s : State) (pa : Nat) (l : List Byte) : (s.pokeBytes pa l).boot = s.boot := rfl
@[simp] theorem pokeBytes_warps (s : State) (pa : Nat) (l : List Byte) : (s.pokeBytes pa l).warps = s.warps := rfl
@[simp] theorem pokeBytes_groups (s : State) (pa : Nat) (l : List Byte) : (s.pokeBytes pa l).groups = s.groups := rfl
@[simp] theorem pokeBytes_cores (s : State) (pa : Nat) (l : List Byte) : (s.pokeBytes pa l).cores = s.cores := rfl
@[simp] theorem pokeBytes_sched (s : State) (pa : Nat) (l : List Byte) : (s.pokeBytes pa l).sched = s.sched := rfl
@[simp] theorem pokeBytes_parts (s : State) (pa : Nat) (l : List Byte) : (s.pokeBytes pa l).parts = s.parts := rfl
@[simp] theorem pokeBytes_dies (s : State) (pa : Nat) (l : List Byte) : (s.pokeBytes pa l).dies = s.dies := rfl
@[simp] theorem pokeBytes_host (s : State) (pa : Nat) (l : List Byte) : (s.pokeBytes pa l).host = s.host := rfl
@[simp] theorem pokeBytes_ras (s : State) (pa : Nat) (l : List Byte) : (s.pokeBytes pa l).ras = s.ras := rfl
@[simp] theorem pokeBytes_accs (s : State) (pa : Nat) (l : List Byte) : (s.pokeBytes pa l).accs = s.accs := rfl
@[simp] theorem pokeBytes_serial (s : State) (pa : Nat) (l : List Byte) : (s.pokeBytes pa l).serial = s.serial := rfl
@[simp] theorem pokeBytes_agenda (s : State) (pa : Nat) (l : List Byte) : (s.pokeBytes pa l).agenda = s.agenda := rfl
@[simp] theorem pokeBytes_cur (s : State) (pa : Nat) (l : List Byte) : (s.pokeBytes pa l).cur = s.cur := rfl

theorem setWarp_warps (s : State) (k : Nat) (w : Warp) : (s.setWarp k w).warps = s.warps.set k w := rfl
theorem modWarp_warps (s : State) (k : Nat) (f : Warp → Warp) : (s.modWarp k f).warps = s.warps.modify k f := rfl
theorem setGroup_groups (s : State) (g : Nat) (x : Group) : (s.setGroup g x).groups = s.groups.set g x := rfl
theorem setCore_cores (s : State) (c : Nat) (x : Core) : (s.setCore c x).cores = s.cores.set c x := rfl
theorem modDie_dies (s : State) (d : Nat) (f : Die → Die) : (s.modDie d f).dies = s.dies.set d (f (s.die d)) := rfl
theorem modPart_parts (s : State) (p : Nat) (f : Partition → Partition) : (s.modPart p f).parts = s.parts.set p (f (s.part p)) := rfl
theorem poke_mem (s : State) (pa n v : Nat) : (s.poke pa n v).mem = memWrite s.mem pa (natLe n v) := rfl
theorem pokeBytes_mem (s : State) (pa : Nat) (l : List Byte) : (s.pokeBytes pa l).mem = memWrite s.mem pa l := rfl

/-- The warp under a changed key: an absent warp stays absent. -/
theorem modWarp_get? (s : State) (k l : Nat) (f : Warp → Warp) : (s.modWarp k f).warps.get? l = if k = l then (s.warps.get? l).map f else s.warps.get? l :=
  Tbl.get?_modify _ _ _ _

@[simp] theorem setWarp_warp (s : State) (k : Nat) (w : Warp) : (s.setWarp k w).warp k = w := Tbl.getD_set_self _ _ _ _
@[simp] theorem setGroup_group (s : State) (g : Nat) (x : Group) : (s.setGroup g x).group g = x := Tbl.getD_set_self _ _ _ _
@[simp] theorem modGroup_group (s : State) (g : Nat) (f : Group → Group) : (s.modGroup g f).group g = f (s.group g) := Tbl.getD_set_self _ _ _ _
@[simp] theorem setCore_core (s : State) (c : Nat) (x : Core) : (s.setCore c x).core c = x := Tbl.getD_set_self _ _ _ _
@[simp] theorem modCore_core (s : State) (c : Nat) (f : Core → Core) : (s.modCore c f).core c = f (s.core c) := Tbl.getD_set_self _ _ _ _
@[simp] theorem modDie_die (s : State) (d : Nat) (f : Die → Die) : (s.modDie d f).die d = f (s.die d) := Tbl.getD_set_self _ _ _ _
@[simp] theorem modPart_part (s : State) (p : Nat) (f : Partition → Partition) : (s.modPart p f).part p = f (s.part p) := Tbl.getD_set_self _ _ _ _

theorem setWarp_warp_ne (s : State) {k l : Nat} (w : Warp) (h : k ≠ l) : (s.setWarp k w).warp l = s.warp l := Tbl.getD_set_ne _ _ _ h
theorem modWarp_warp_ne (s : State) {k l : Nat} (f : Warp → Warp) (h : k ≠ l) : (s.modWarp k f).warp l = s.warp l := by
  simp only [State.warp, Tbl.getD, modWarp_warps, Tbl.get?_modify_ne _ _ h]
theorem modGroup_group_ne (s : State) {g l : Nat} (f : Group → Group) (h : g ≠ l) : (s.modGroup g f).group l = s.group l := Tbl.getD_set_ne _ _ _ h
theorem modCore_core_ne (s : State) {c l : Nat} (f : Core → Core) (h : c ≠ l) : (s.modCore c f).core l = s.core l := Tbl.getD_set_ne _ _ _ h
theorem modPart_part_ne (s : State) {p l : Nat} (f : Partition → Partition) (h : p ≠ l) : (s.modPart p f).part l = s.part l := Tbl.getD_set_ne _ _ _ h

/-- A warp that is present changes as the update says. -/
theorem modWarp_warp (s : State) (k : Nat) (f : Warp → Warp) (h : (s.warps.get? k).isSome) : (s.modWarp k f).warp k = f (s.warp k) := by
  obtain ⟨w, hw⟩ := Option.isSome_iff_exists.mp h
  simp [State.warp, Tbl.getD, modWarp_warps, hw]

/-- A field that an update of a warp keeps reads as before, whether or not the warp is present. -/
theorem modWarp_keeps {β : Type} (s : State) (k l : Nat) (f : Warp → Warp) (p : Warp → β) (h : ∀ w, p (f w) = p w) : p ((s.modWarp k f).warp l) = p (s.warp l) := by
  simp only [State.warp, Tbl.getD, modWarp_warps, Tbl.get?_modify]
  split
  · cases s.warps.get? l <;> simp [h]
  · rfl

@[simp] theorem modWarp_group (s : State) (k g : Nat) (f : Warp → Warp) : (s.modWarp k f).group g = s.group g := rfl
@[simp] theorem modWarp_core (s : State) (k c : Nat) (f : Warp → Warp) : (s.modWarp k f).core c = s.core c := rfl
@[simp] theorem modWarp_part (s : State) (k p : Nat) (f : Warp → Warp) : (s.modWarp k f).part p = s.part p := rfl
@[simp] theorem modGroup_warp (s : State) (g k : Nat) (f : Group → Group) : (s.modGroup g f).warp k = s.warp k := rfl
@[simp] theorem modGroup_core (s : State) (g c : Nat) (f : Group → Group) : (s.modGroup g f).core c = s.core c := rfl
@[simp] theorem modGroup_part (s : State) (g p : Nat) (f : Group → Group) : (s.modGroup g f).part p = s.part p := rfl
@[simp] theorem modCore_warp (s : State) (c k : Nat) (f : Core → Core) : (s.modCore c f).warp k = s.warp k := rfl
@[simp] theorem modCore_group (s : State) (c g : Nat) (f : Core → Core) : (s.modCore c f).group g = s.group g := rfl
@[simp] theorem modCore_part (s : State) (c p : Nat) (f : Core → Core) : (s.modCore c f).part p = s.part p := rfl
@[simp] theorem modPart_warp (s : State) (p k : Nat) (f : Partition → Partition) : (s.modPart p f).warp k = s.warp k := rfl
@[simp] theorem modPart_group (s : State) (p g : Nat) (f : Partition → Partition) : (s.modPart p f).group g = s.group g := rfl
@[simp] theorem modPart_core (s : State) (p c : Nat) (f : Partition → Partition) : (s.modPart p f).core c = s.core c := rfl

end Sys2Proof.Machine.State
end

