-- ==== Sys2Proof/Laws/Issue.lean ====
section
/-!
SUPPORT. What the issue of one instruction word does when nothing stands before it.
-/
namespace Sys2Proof.Laws

open Sys2Proof Sys2Proof.Machine

theorem passes_ok {g : Gate} (h : passes g = true) : g = .ok := by
  cases g <;> simp_all [passes]

@[simp] theorem forOp_party (e : Env) (op : Nat) (w : IWord) : (e.forOp op w).party = e.party := rfl
@[simp] theorem forOp_w (e : Env) (op : Nat) (w : IWord) : (e.forOp op w).w = e.w := rfl
@[simp] theorem forOp_key (e : Env) (op : Nat) (w : IWord) : (e.forOp op w).key = e.key := rfl
@[simp] theorem forOp_view (e : Env) (op : Nat) (w : IWord) : (e.forOp op w).view = e.view := rfl
@[simp] theorem forOp_core (e : Env) (op : Nat) (w : IWord) : (e.forOp op w).core = e.core := rfl
@[simp] theorem forOp_pc (e : Env) (op : Nat) (w : IWord) : (e.forOp op w).pc = e.pc := rfl
@[simp] theorem forOp_next (e : Env) (op : Nat) (w : IWord) : (e.forOp op w).next = e.next := rfl
@[simp] theorem forOp_locked (e : Env) (op : Nat) (w : IWord) : (e.forOp op w).locked = e.locked := rfl
@[simp] theorem forOp_decisions (e : Env) (op : Nat) (w : IWord) (s : State) : (e.forOp op w).decisions s = e.decisions s := rfl

@[simp] theorem account_warps (s : State) (p : Party) (pc : Nat) (l : List (Slot × Nat)) : (s.account p pc l).warps = s.warps := by
  unfold State.account; split <;> rfl

@[simp] theorem takePorts_warps (s : State) (p : Party) (x : Ports) : (s.takePorts p x).warps = s.warps := by
  unfold State.takePorts; split <;> rfl

@[simp] theorem serviceSlot_warps (s : State) (p : Party) (b : Bool) : (s.serviceSlot p b).warps = s.warps := by
  unfold State.serviceSlot; split <;> rfl

/-- A word that issues by itself, with nothing before it, has its effect. -/
theorem runSem_alone {sem : Sem} {c : Cur} {s : State} (hs : c.slot = none) (h : free sem.op sem.w c s = true)
    (g : sem.gate (opEnv sem.op sem.w c s) s = .ok) :
    runSem sem s = .next (ended c s (sem.eff (opEnv sem.op sem.w c s) (begun sem.op sem.w c s))) := by
  simp only [free, Bool.and_eq_true, beq_iff_eq, hs] at h
  obtain ⟨⟨⟨⟨⟨hc, hp⟩, hm⟩, hr⟩, hd⟩, -⟩ := h
  have hm := passes_ok hm
  simp only [opEnv] at g hm hr hd ⊢
  simp only [runSem, hc, hs, runWord, ended, begun, opEnv]
  rcases hcp : c.party with ⟨gr, sl, i⟩ | ⟨gr, sl⟩ | gr | n
  · have hv : (s.env c).view = .simt := by simp [State.env, hcp, hs]
    simp only [registersFree, hs, hcp, opEnv] at hr
    have hr := passes_ok hr
    simp only [hm, forOp_view, hv, hr, hd, bne_self_eq_false, Bool.false_and, g]
    rfl
  · simp [standsRight, hs, hcp] at hp
  · simp [standsRight, hs, hcp] at hp
  · have hv : (s.env c).view = .stream := by simp [State.env, hcp]
    simp only [hm, forOp_view, hv, hd, bne_self_eq_false, Bool.false_and, g]
    rfl

/-- A single operation is in its own order. -/
theorem effectOrder_one (x : SlotOp × Env) : effectOrder [x] = [x] := by
  have : x.1.rank = 0 ∨ x.1.rank = 1 ∨ x.1.rank = 2 ∨ x.1.rank = 3 := by
    unfold SlotOp.rank
    split <;> split <;> simp
  rcases this with h | h | h | h <;> simp [effectOrder, h]

/-- An operation that is alone needs no room beside what its gate has tested, when its issue writes no record. -/
theorem bundleRoom_one (x : SlotOp) (c : Cur) (s : State) : bundleRoom [x] c s 0 = none := by simp [bundleRoom]

/-- An operation that is alone in its bundle, with nothing before it, has its effect, and the end of the item follows. -/
theorem runSem_slot {sem : Sem} {c : Cur} {s : State} {sl : Slot} (hs : c.slot = some sl) (h : free sem.op sem.w c s = true)
    (g : sem.gate (opEnv sem.op sem.w c s) s = .ok) :
    runSem sem s = .next (ended c s (sem.eff (opEnv sem.op sem.w c s) (begun sem.op sem.w c s))) := by
  simp only [free, Bool.and_eq_true, beq_iff_eq, hs] at h
  obtain ⟨⟨⟨⟨⟨hc, hp⟩, hm⟩, hr⟩, hd⟩, hmis, hlp⟩ := h
  have hm := passes_ok hm
  have hsl : ({ c with slot := some sl } : Cur) = c := by rw [← hs]
  have henv : s.slotEnv c ⟨sl, sem⟩ = opEnv sem.op sem.w c s := by simp only [State.slotEnv, hsl, opEnv]
  have hgates : bundleGates [⟨sl, sem⟩] c s = [(sl, .ok)] := by
    have hkey : (opEnv sem.op sem.w c s).key = (partyKey c.party).getD 0 := rfl
    simp only [registersFree, hs, Bool.and_eq_true, Bool.not_eq_true', hkey] at hr
    obtain ⟨hr1, hr2⟩ := hr
    simp only [bundleGates, List.map_cons, List.map_nil, henv, hm, List.filter_cons, List.filter_nil, List.isEmpty_nil, Bool.not_true, Bool.false_eq_true,
      if_false, mergeTraps, Option.isSome_none, List.any_cons, List.any_nil, Bool.or_false, hr1, g, List.filterMap_cons, List.filterMap_nil]
    cases hb : (opEnv sem.op sem.w c s).w.csr.scbchk
    · simp
    · have : collision (opEnv sem.op sem.w c s) sem.op sem.w = none := by simpa [hb] using hr2
      simp [this]
  have hd' : (s.env c).decisions s = 0 := hd
  have hmis : s.misfit c.party ⟨slotBit sl, 0, []⟩ = false := by simpa using hmis
  have hlog : s.logDecisions (s.env c) = s := by
    have hparty : (s.env c).party = c.party := rfl
    rcases hcp : c.party with ⟨gr, sl', i⟩ | ⟨gr, sl'⟩ | gr | n
    · simp [standsRight, hs, hcp] at hp
    · simp [State.logDecisions, hparty, hcp, hd']
    · simp [State.logDecisions, hparty, hcp]
    · simp [standsRight, hs, hcp] at hp
  have hsr : ((begun sem.op sem.w c s).warp (opEnv sem.op sem.w c s).key).srseq = (opEnv sem.op sem.w c s).w.srseq := by
    have hkey : (opEnv sem.op sem.w c s).key = (partyKey c.party).getD 0 := rfl
    have hw : (opEnv sem.op sem.w c s).w = s.warp ((partyKey c.party).getD 0) := by
      rcases hcp : c.party with ⟨gr, sl', i⟩ | ⟨gr, sl'⟩ | gr | n
      · simp [standsRight, hs, hcp] at hp
      · simp [opEnv, State.env, hcp]
      · simp [opEnv, State.env, hcp]
      · simp [standsRight, hs, hcp] at hp
    rw [hw, hkey]
    simp only [begun, hs]
    refine Eq.trans (State.modWarp_keeps _ _ _ _ Warp.srseq fun _ => rfl) ?_
    simp only [State.warp, serviceSlot_warps, takePorts_warps, account_warps]
  simp only [runSem, hc, hs, runBundle, hgates, mergeTraps, firstWait, firstHold, hmis, hd', bundleRoom_one, Bool.false_eq_true,
    if_false, List.map_cons, List.map_nil, henv, hlog, effectOrder_one, bundleEffects]
  have hend : ∀ t, ∃ u, endItem (s.env c) c.next t = some u := by
    intro t
    have : (s.env c).lpMode = (opEnv sem.op sem.w c s).lpMode := rfl
    simp only [endItem, this]
    cases hm : (opEnv sem.op sem.w c s).lpMode with
    | none => exact ⟨_, rfl⟩
    | some m =>
      simp only [hm, decide_eq_true_eq] at hlp
      simp only
      split
      · exact ⟨_, rfl⟩
      · rw [if_neg (by omega)]; exact ⟨_, rfl⟩
  have hb : (((s.account c.party c.pc [(sl, (opEnv sem.op sem.w c s).leaf sem.op sem.w)]).takePorts c.party ⟨slotBit sl, 0, []⟩).advanceBundle c
      (headerOf c.header)) = begun sem.op sem.w c s := by simp only [begun, hs]
  simp only [hb, hsr]
  obtain ⟨u, hu⟩ := hend (sem.eff (opEnv sem.op sem.w c s) (begun sem.op sem.w c s))
  simp only [ended, hs, hu, Option.getD_some]

/-- A word with nothing before it and nothing of its own to wait for has its effect, in every view. -/
theorem runSem_free {sem : Sem} {c : Cur} {s : State} (h : free sem.op sem.w c s = true) (g : sem.gate (opEnv sem.op sem.w c s) s = .ok) :
    runSem sem s = .next (ended c s (sem.eff (opEnv sem.op sem.w c s) (begun sem.op sem.w c s))) := by
  cases hs : c.slot with
  | none => exact runSem_alone hs h g
  | some sl => exact runSem_slot hs h g

/-- The same for a form that only computes. -/
theorem runSem_compute {op : Nat} {w : IWord} {out : Env → Out} {c : Cur} {s : State} (h : free op w c s = true) :
    runSem (computeSem op w out) s = .next (ended c s (computing op w out (opEnv op w c s) (begun op w c s))) :=
  runSem_free (sem := computeSem op w out) h rfl

/-- A form that only computes completes: its meaning is `computeSem`, and `f` says what it sends. -/
theorem completes_compute {mk : IWord → Instr} {op : Nat} {f : IWord → Env → State → State} {out : IWord → Env → Out}
    (hx : ∀ w s, exec (mk w) s = runSem (computeSem op w (out w)) s) (h : ∀ w, f w = computing op w (out w)) : CompletesAlways mk op f := by
  intro w c s hf
  unfold Completes
  rw [hx, h]
  exact runSem_compute hf

/-- The same for a form whose elements are computed one by one. -/
theorem completes_elementwise {mk : IWord → Instr} {op : Nat} {f g : IWord → Ty → Nat → Nat → Nat → Nat → Nat × Nat}
    (hx : ∀ w s, exec (mk w) s = runSem (computeSem op w (intOut w (g w))) s) (h : f = g) : elementwise mk op f := by
  subst h
  exact completes_compute hx fun _ => rfl

/-- A form with a condition of its own completes when the condition opens its gate. -/
theorem completes_when {mk : IWord → Instr} {sem : IWord → Sem} {op : Nat} {ready : IWord → Env → State → Prop} {f : IWord → Env → State → State}
    (hx : ∀ w s, exec (mk w) s = runSem (sem w) s) (hop : ∀ w, (sem w).op = op) (hw : ∀ w, (sem w).w = w)
    (hg : ∀ w e s, ready w e s → (sem w).gate e s = .ok) (he : ∀ w, (sem w).eff = f w) : CompletesWhen mk op ready f := by
  intro w c s hf hr
  unfold Completes
  rw [hx]
  have h1 := hop w
  have h2 := hw w
  have hf' : free (sem w).op (sem w).w c s = true := by rw [h1, h2]; exact hf
  rw [runSem_free hf' (by rw [h1, h2]; exact hg w _ s hr), he, h1, h2]

end Sys2Proof.Laws
end

