-- ==== Sys2Proof/Laws/Gates.lean ====
section
/-!
SUPPORT. When the gates of the shared operations let an item pass.
-/
namespace Sys2Proof.Laws

open Sys2Proof Sys2Proof.Machine

/-- Room for decision records opens their gate. -/
theorem decisionGate_ok {e : Env} {s : State} {n : Nat} (h : decisionRoom e s n = true) : e.decisionGate s n = .ok := by
  simp only [decisionRoom] at h
  unfold Env.decisionGate
  rw [if_pos]
  simpa using h

/-- Room for trace records opens theirs. -/
theorem traceGate_ok {e : Env} {s : State} {n : Nat} (h : traceRoom e s n = true) : e.traceGate s n = .ok := by
  simp only [traceRoom, Bool.or_eq_true, beq_iff_eq, Bool.not_eq_true'] at h
  unfold Env.traceGate
  rw [if_neg]
  intro h2
  simp only [Bool.and_eq_true, bne_iff_ne, ne_eq, Bool.not_eq_true'] at h2
  obtain ⟨⟨h3, h4⟩, h5⟩ := h2
  rcases h with (h | h) | h
  · exact h3 h
  · rw [h] at h4; cases h4
  · rw [h] at h5; cases h5

/-- The transfers of a stream write no record. -/
theorem moveGate_ok {e : Env} {s : State} {n : Nat} (h : e.view ≠ .stream → traceRoom e s n = true) : e.moveGate s n = .ok := by
  unfold Env.moveGate
  split
  · rfl
  · rename_i hv; exact traceGate_ok (h hv)

theorem beyond_none {size : Nat} {l : List (Nat × Nat)} (h : ∀ x ∈ l, 0 < x.2 → x.1 + x.2 ≤ size) : beyond size l = none := by
  have : l.filterMap (fun x => if size < x.1 + x.2 ∧ 0 < x.2 then some (max x.1 size) else none) = [] := by
    rw [List.filterMap_eq_nil_iff]
    intro x hx
    rw [if_neg]
    rintro ⟨a, b⟩
    have := h x hx b
    omega
  simp only [beyond, this]

theorem lpWindow_none {e : Env} {l : List (Nat × Nat)} (h : inLpWindow e l = true) : lpWindow e l = none := by
  unfold inLpWindow Env.lpMode at h
  unfold lpWindow
  cases hl : e.w.lp with
  | none => rfl
  | some m =>
    simp only [hl] at h ⊢
    split
    · rfl
    · rename_i hh
      rw [if_neg hh] at h
      simp only [List.all_eq_true, Bool.or_eq_true, beq_iff_eq, Bool.and_eq_true, decide_eq_true_eq] at h
      have : l.filterMap (fun x => if x.2 = 0 then none else if x.1 < m.window then some x.1
          else if m.window + m.windowLen < x.1 + x.2 then some (max x.1 (m.window + m.windowLen)) else none) = [] := by
        rw [List.filterMap_eq_nil_iff]
        intro x hx
        rcases h x hx with h | ⟨h1, h2⟩
        · rw [if_pos h]
        · by_cases h0 : x.2 = 0
          · rw [if_pos h0]
          · rw [if_neg h0, if_neg (by omega), if_neg (by omega)]
      simp only [this]

/-- What a scratchpad form asks for opens its gate. -/
theorem scratchGate_ok {e : Env} {s : State} {l : List (Nat × Nat)} {window write : Bool} (h : scratchReady e s l window write = true) :
    scratchGate e s l window write = .ok := by
  simp only [scratchReady, Bool.and_eq_true, Bool.not_eq_true', Bool.or_eq_true] at h
  obtain ⟨⟨h1, h2⟩, h3⟩ := h
  have w1 : (if window = true then lpWindow e l else none) = none := by
    cases window
    · rfl
    · rw [if_pos rfl]
      rcases h1 with h1 | h1
      · cases h1
      · exact lpWindow_none h1
  have w2 : beyond (s.region e.party).2 l = none := by
    refine beyond_none fun x hx h0 => ?_
    simp only [inRegion, List.all_eq_true, Bool.or_eq_true, beq_iff_eq, decide_eq_true_eq] at h2
    rcases h2 x hx with h | h
    · omega
    · exact h
  simp only [scratchGate, w1, w2, h3]
  rfl

/-- Room for the records of an access opens the last of its gates. -/
theorem roomGate_ok {e : Env} {s : State} {a : Access} (h : orderRoom e s a (roomLines s a) = true) (hd : decisionRoom e s (b2n (replaysNow s a)) = true) :
    roomGate e s a = .ok := by
  unfold roomGate
  rw [if_neg (by simp [h]), decisionGate_ok hd]

/-- What a global access asks for opens its gate. -/
theorem globalGate_ok {e : Env} {s : State} {a : Access} (h : accessReady e s a = true) : globalGate e s a = .ok := by
  unfold globalGate
  simp only [accessReady, Bool.or_eq_true, Bool.and_eq_true, Bool.not_eq_true'] at h
  split
  · rfl
  · rename_i hl
    rcases h with h | ⟨h1, h2⟩
    · exact absurd h hl
    · rw [if_neg (by rw [h1]; simp)]
      cases hr : resolve s a with
      | trap t => simp [hr] at h2
      | fault _ _ _ => simp only [hr, Bool.and_eq_true] at h2; exact roomGate_ok h2.1 h2.2
      | ok _ _ => simp only [hr, Bool.and_eq_true] at h2; exact roomGate_ok h2.1 h2.2

/-- A wait whose phase has passed goes on. -/
theorem phaseGate_ok {e : Env} {s : State} {r : Option BarRef} {ph : Nat} {w : Wait} (h : s.syncedOf e.party = some 2 ∨ s.phaseOf r ≠ ph) :
    phaseGate e s r ph w = .ok := by
  unfold phaseGate
  rw [if_pos]
  simpa using h

/-- What stands before an engine operation's entry, when nothing does. -/
theorem engGate_ok {op : EngOp} {pre : Option Trap} {e : Env} {s : State} (hp : pre = none)
    (hr : ∀ m, op.mem = some m → m.global = false → ∀ x ∈ m.ranges, 0 < x.2 → x.1 + x.2 ≤ (s.region e.party).2)
    (hd : decisionRoom e s (match op.mem with | some m => b2n m.global | none => 0) = true)
    (hq : (s.core e.core).engine.queue.length < Config.engineQueue) : engGate op pre e s = .ok := by
  subst hp
  unfold engGate
  cases hm : op.mem with
  | none =>
    simp only [hm] at hd
    simp only [decisionGate_ok hd]
    rw [if_neg (by omega)]
  | some m =>
    simp only [hm] at hd
    simp only [decisionGate_ok hd]
    cases hg : m.global with
    | true => simp only [if_true]; rw [if_neg (by omega)]
    | false =>
      simp only [Bool.false_eq_true, if_false, beyond_none (hr m hm hg)]
      rw [if_neg (by omega)]

end Sys2Proof.Laws
end

