-- ==== Sys2Proof/Laws/Memory.lean ====
section
/-!
SUPPORT. What the operations over memory do: what a byte reads as after each of them, and that each keeps the canonical form.
-/
namespace Sys2Proof.Laws

open Sys2Proof Sys2Proof.Machine

/-! ### Reading after writing -/

theorem memGet_memErase (m : List Host.Cell) (a b : Nat) : memGet (memErase m a) b = if b = a then memDefault else memGet m b := by
  induction m with
  | nil => simp [memErase, memGet]
  | cons c r ih =>
    obtain ⟨k, x⟩ := c
    simp only [memErase]
    split
    · rw [ih]; split
      · rfl
      · simp only [memGet]; rw [if_neg (by omega)]
    · simp only [memGet, ih]; split
      · rw [if_neg (by omega)]
      · rfl

theorem memGet_memInsert (m : List Host.Cell) (a : Nat) (v : Byte) (b : Nat) : memGet (memInsert m a v) b = if b = a then v else memGet m b := by
  induction m with
  | nil => simp [memInsert, memGet, eq_comm]
  | cons c r ih =>
    obtain ⟨k, x⟩ := c
    simp only [memInsert]
    split
    · have e : memGet ((a, v) :: (k, x) :: r) b = if a = b then v else memGet ((k, x) :: r) b := rfl
      rw [e]; split
      · rw [if_pos (by omega)]
      · rw [if_neg (by omega)]
    · split
      · simp only [memGet]; split
        · rw [if_pos (by omega)]
        · rw [if_neg (by omega), if_neg (by omega)]
      · simp only [memGet, ih]; split
        · rw [if_neg (by omega)]
        · rfl

/-- A byte written reads back, and no other byte changes. -/
theorem memGet_memPut (m : List Host.Cell) (a : Nat) (v : Byte) (b : Nat) : memGet (memPut m a v) b = if b = a then v else memGet m b := by
  unfold memPut
  split
  · rw [memGet_memErase]; split
    · simp_all
    · rfl
  · exact memGet_memInsert m a v b

/-! ### The canonical form -/

/-- Every address of the cells lies above one given. -/
def above (a : Nat) (m : List Host.Cell) : Prop := ∀ c ∈ m, a < c.1

theorem wf_cons (a : Nat) (v : Byte) (m : List Host.Cell) : Memory.wf ((a, v) :: m) = true ↔ v ≠ memDefault ∧ above a m ∧ Memory.wf m = true := by
  induction m generalizing a v with
  | nil => simp [Memory.wf, above]
  | cons c r ih =>
    obtain ⟨b, x⟩ := c
    simp only [Memory.wf, Bool.and_eq_true, decide_eq_true_eq, above, List.mem_cons]
    constructor
    · rintro ⟨⟨hv, hab⟩, hw⟩
      refine ⟨hv, ?_, hw⟩
      rintro c (rfl | hc)
      · exact hab
      · exact Nat.lt_trans hab (((ih b x).mp hw).2.1 c hc)
    · rintro ⟨hv, ha, hw⟩
      exact ⟨⟨hv, ha _ (.inl rfl)⟩, hw⟩

theorem memErase_above {m : List Host.Cell} {k : Nat} (a : Nat) (h : above k m) : above k (memErase m a) := by
  induction m with
  | nil => exact h
  | cons c r ih =>
    obtain ⟨b, x⟩ := c
    have hr : above k r := fun c hc => h c (List.mem_cons_of_mem _ hc)
    simp only [memErase]
    split
    · exact ih hr
    · intro c hc
      rcases List.mem_cons.mp hc with rfl | hc
      · exact h _ List.mem_cons_self
      · exact ih hr c hc

theorem memInsert_above {m : List Host.Cell} {k a : Nat} (v : Byte) (h : above k m) (ha : k < a) : above k (memInsert m a v) := by
  induction m with
  | nil => intro c hc; simp only [memInsert, List.mem_singleton] at hc; subst hc; exact ha
  | cons c r ih =>
    obtain ⟨b, x⟩ := c
    have hr : above k r := fun c hc => h c (List.mem_cons_of_mem _ hc)
    simp only [memInsert]
    split
    · intro c hc
      rcases List.mem_cons.mp hc with rfl | hc
      · exact ha
      · exact h c hc
    · split
      · intro c hc
        rcases List.mem_cons.mp hc with rfl | hc
        · exact ha
        · exact hr c hc
      · intro c hc
        rcases List.mem_cons.mp hc with rfl | hc
        · exact h _ List.mem_cons_self
        · exact ih hr c hc

theorem memErase_wf {m : List Host.Cell} (a : Nat) (h : Memory.wf m = true) : Memory.wf (memErase m a) = true := by
  induction m with
  | nil => rfl
  | cons c r ih =>
    obtain ⟨b, x⟩ := c
    obtain ⟨hv, hb, hr⟩ := (wf_cons b x r).mp h
    simp only [memErase]
    split
    · exact ih hr
    · exact (wf_cons _ _ _).mpr ⟨hv, memErase_above a hb, ih hr⟩

theorem memInsert_wf {m : List Host.Cell} (a : Nat) {v : Byte} (hv : v ≠ memDefault) (h : Memory.wf m = true) : Memory.wf (memInsert m a v) = true := by
  induction m with
  | nil => simp [memInsert, Memory.wf, hv]
  | cons c r ih =>
    obtain ⟨b, x⟩ := c
    obtain ⟨hx, hb, hr⟩ := (wf_cons b x r).mp h
    simp only [memInsert]
    split
    · rename_i hab
      refine (wf_cons _ _ _).mpr ⟨hv, ?_, h⟩
      intro c hc
      rcases List.mem_cons.mp hc with rfl | hc
      · exact hab
      · exact Nat.lt_trans hab (hb c hc)
    · split
      · rename_i e; subst e; exact (wf_cons _ _ _).mpr ⟨hv, hb, hr⟩
      · exact (wf_cons _ _ _).mpr ⟨hx, memInsert_above v hb (by omega), ih hr⟩

/-- Writing a byte keeps the canonical form. -/
theorem memPut_wf {m : List Host.Cell} (a : Nat) (v : Byte) (h : Memory.wf m = true) : Memory.wf (memPut m a v) = true := by
  unfold memPut
  split
  · exact memErase_wf a h
  · exact memInsert_wf a ‹_› h

/-- So does writing bytes. -/
theorem memWrite_wf {m : List Host.Cell} (a : Nat) (l : List Byte) (h : Memory.wf m = true) : Memory.wf (memWrite m a l) = true := by
  induction l generalizing m a with
  | nil => exact h
  | cons v r ih => exact ih (a + 1) (memPut_wf a v h)

/-- After the lease has passed to the other port each byte stands in its other place, in canonical form. -/
theorem memGet_swapHosts (m : List Host.Cell) (b : Nat) : memGet (swapHosts m) b = memGet m (otherPlace b) := by
  induction m with
  | nil => rfl
  | cons c r ih =>
    obtain ⟨a, v⟩ := c
    have : (b = otherPlace a) = (a = otherPlace b) := by
      unfold otherPlace otherHost
      apply propext
      constructor <;> intro h <;> (repeat' split at h) <;> (repeat' split) <;> omega
    change memGet (memPut (swapHosts r) (otherPlace a) v) b = _
    rw [memGet_memPut, ih]
    simp only [memGet, this]

theorem swapHosts_wf (m : List Host.Cell) : Memory.wf (swapHosts m) = true := by
  induction m with
  | nil => rfl
  | cons c r ih => exact memPut_wf _ _ ih

/-- So does leaving cells out. -/
theorem filter_wf {m : List Host.Cell} (p : Host.Cell → Bool) (h : Memory.wf m = true) : Memory.wf (m.filter p) = true := by
  induction m with
  | nil => rfl
  | cons c r ih =>
    obtain ⟨b, x⟩ := c
    obtain ⟨hx, hb, hr⟩ := (wf_cons b x r).mp h
    simp only [List.filter_cons]
    split
    · exact (wf_cons _ _ _).mpr ⟨hx, fun c hc => hb c (List.mem_filter.mp hc).1, ih hr⟩
    · exact ih hr

/-- So does reset, which clears the weight stores and the Pantry. -/
theorem bootMem_wf {m : List Host.Cell} (h : Memory.wf m = true) : Memory.wf (bootMem m) = true := filter_wf _ h

theorem poke_wf {s : State} (pa n v : Nat) (h : Memory.wf s.mem = true) : Memory.wf (s.poke pa n v).mem = true := memWrite_wf _ _ h

theorem pokeBytes_wf {s : State} (pa : Nat) (l : List Byte) (h : Memory.wf s.mem = true) : Memory.wf (s.pokeBytes pa l).mem = true := memWrite_wf _ _ h

/-! ### Stores at physical addresses -/

/-- A store of one byte changes memory at its address. -/
@[simp] theorem storeByte_mem (s : State) (core : Option Nat) (pa : Nat) (v : Byte) : (s.storeByte core pa v).mem = memPut s.mem pa v := by
  cases core <;> rfl

theorem storeByte_wf {s : State} (core : Option Nat) (pa : Nat) (v : Byte) (h : Memory.wf s.mem = true) : Memory.wf (s.storeByte core pa v).mem = true := by
  rw [storeByte_mem]; exact memPut_wf pa v h

theorem storeBytes_wf {s : State} (core : Option Nat) (pas : List Nat) (vs : List Byte) (h : Memory.wf s.mem = true) :
    Memory.wf (s.storeBytes core pas vs).mem = true := by
  induction pas generalizing s vs with
  | nil => exact h
  | cons pa ps ih =>
    cases vs with
    | nil => exact h
    | cons v vs => exact ih vs (storeByte_wf core pa v h)

/-- A store changes no byte outside its addresses. -/
theorem storeBytes_other {s : State} (core : Option Nat) {pas : List Nat} (vs : List Byte) {b : Nat} (h : b ∉ pas) :
    memGet (s.storeBytes core pas vs).mem b = memGet s.mem b := by
  induction pas generalizing s vs with
  | nil => rfl
  | cons pa ps ih =>
    cases vs with
    | nil => rfl
    | cons v vs =>
      have h1 : b ≠ pa := fun e => h (e ▸ List.mem_cons_self)
      have h2 : b ∉ ps := fun m => h (List.mem_cons_of_mem _ m)
      show memGet ((s.storeByte core pa v).storeBytes core ps vs).mem b = _
      rw [ih vs h2, storeByte_mem, memGet_memPut, if_neg h1]

/-- A store to distinct addresses leaves each byte at its own. -/
theorem storeBytes_get {s : State} (core : Option Nat) (pa : Nat) (vs : List Byte) {n i : Nat} (hn : n = vs.length) (hi : i < n) :
    memGet (s.storeBytes core ((List.range n).map (pa + ·)) vs).mem (pa + i) = vs.getD i 0 := by
  subst hn
  induction vs generalizing s pa i with
  | nil => simp at hi
  | cons v vs ih =>
    have hl : (List.range (v :: vs).length).map (pa + ·) = pa :: (List.range vs.length).map (pa + 1 + ·) := by
      simp only [List.length_cons, List.range_succ_eq_map, List.map_cons, List.map_map, Nat.add_zero, List.cons.injEq, true_and]
      apply List.map_congr_left
      intro x _; simp; omega
    rw [hl]
    show memGet ((s.storeByte core pa v).storeBytes core _ vs).mem (pa + i) = _
    cases i with
    | zero =>
      rw [storeBytes_other, storeByte_mem, memGet_memPut]
      · simp
      · simp only [List.mem_map, List.mem_range, not_exists, not_and]; intro x _; omega
    | succ i =>
      have : pa + (i + 1) = (pa + 1) + i := by omega
      rw [this, ih (pa + 1) (by simpa using hi)]
      simp

/-! ### Numbers -/

theorem memRead_eq (m : List Host.Cell) (a n : Nat) : memRead m a n = (List.range n).map fun i => memGet m (a + i) := by
  induction n generalizing a with
  | zero => rfl
  | succ n ih =>
    simp only [memRead, List.range_succ_eq_map, List.map_cons, List.map_map, Nat.add_zero, ih]
    congr 1
    apply List.map_congr_left
    intro x _; simp; congr 1; omega

@[simp] theorem length_natLe (n v : Nat) : (natLe n v).length = n := by
  induction n generalizing v with
  | zero => rfl
  | succ n ih => simp [natLe, ih]

/-- A number of `n` bytes, taken apart and put together. -/
theorem leNat_natLe (n v : Nat) : leNat (natLe n v) = v % 2 ^ (8 * n) := by
  induction n generalizing v with
  | zero => simp [natLe, leNat, Nat.mod_one]
  | succ n ih =>
    simp only [natLe, leNat, ih, BitVec.toNat_ofNat]
    have : 2 ^ (8 * (n + 1)) = 2 ^ 8 * 2 ^ (8 * n) := by rw [← Nat.pow_add]; congr 1; omega
    rw [this, Nat.mod_mul]; rfl

end Sys2Proof.Laws
end

