-- ==== Sys2Proof/Laws/PerInstr.lean ====
section
/-!
SUPPORT. Laws said of every constructor of Instr.
-/
namespace Sys2Proof.Laws.Form

set_option Elab.async false

open Sys2Proof Sys2Proof.Machine

/-- The meaning of an instruction is that of its own opcode and word; an event of the part is no form of the instruction word. -/
def Statement (i : Instr) : Prop := (semOf i).map (fun m => (m.op, m.w)) = instrParts i

theorem moduleReset : ∀ x, Statement (.moduleReset x) := fun _ => rfl
theorem iadd : ∀ x, Statement (.iadd x) := fun _ => rfl
theorem isub : ∀ x, Statement (.isub x) := fun _ => rfl
theorem imul : ∀ x, Statement (.imul x) := fun _ => rfl
theorem imulh : ∀ x, Statement (.imulh x) := fun _ => rfl
theorem imad : ∀ x, Statement (.imad x) := fun _ => rfl
theorem idiv : ∀ x, Statement (.idiv x) := fun _ => rfl
theorem irem : ∀ x, Statement (.irem x) := fun _ => rfl
theorem imin : ∀ x, Statement (.imin x) := fun _ => rfl
theorem imax : ∀ x, Statement (.imax x) := fun _ => rfl
theorem iabs : ∀ x, Statement (.iabs x) := fun _ => rfl
theorem isat : ∀ x, Statement (.isat x) := fun _ => rfl
theorem and : ∀ x, Statement (.and x) := fun _ => rfl
theorem or : ∀ x, Statement (.or x) := fun _ => rfl
theorem xor : ∀ x, Statement (.xor x) := fun _ => rfl
theorem andn : ∀ x, Statement (.andn x) := fun _ => rfl
theorem shl : ∀ x, Statement (.shl x) := fun _ => rfl
theorem shr : ∀ x, Statement (.shr x) := fun _ => rfl
theorem sar : ∀ x, Statement (.sar x) := fun _ => rfl
theorem rotl : ∀ x, Statement (.rotl x) := fun _ => rfl
theorem clz : ∀ x, Statement (.clz x) := fun _ => rfl
theorem popc : ∀ x, Statement (.popc x) := fun _ => rfl
theorem brev : ∀ x, Statement (.brev x) := fun _ => rfl
theorem bfx : ∀ x, Statement (.bfx x) := fun _ => rfl
theorem bfi : ∀ x, Statement (.bfi x) := fun _ => rfl
theorem lea : ∀ x, Statement (.lea x) := fun _ => rfl
theorem mov : ∀ x, Statement (.mov x) := fun _ => rfl
theorem movl : ∀ x, Statement (.movl x) := fun _ => rfl
theorem rshr : ∀ x, Statement (.rshr x) := fun _ => rfl
theorem icmp : ∀ x, Statement (.icmp x) := fun _ => rfl
theorem fcmp : ∀ x, Statement (.fcmp x) := fun _ => rfl
theorem fclass : ∀ x, Statement (.fclass x) := fun _ => rfl
theorem sel : ∀ x, Statement (.sel x) := fun _ => rfl
theorem plog : ∀ x, Statement (.plog x) := fun _ => rfl
theorem pmovMm : ∀ x, Statement (.pmovMm x) := fun _ => rfl
theorem pmovMv : ∀ x, Statement (.pmovMv x) := fun _ => rfl
theorem pmovVm : ∀ x, Statement (.pmovVm x) := fun _ => rfl
theorem pcnt : ∀ x, Statement (.pcnt x) := fun _ => rfl
theorem pfirst : ∀ x, Statement (.pfirst x) := fun _ => rfl
theorem fadd : ∀ x, Statement (.fadd x) := fun _ => rfl
theorem fsub : ∀ x, Statement (.fsub x) := fun _ => rfl
theorem fmul : ∀ x, Statement (.fmul x) := fun _ => rfl
theorem ffma : ∀ x, Statement (.ffma x) := fun _ => rfl
theorem fmin : ∀ x, Statement (.fmin x) := fun _ => rfl
theorem fmax : ∀ x, Statement (.fmax x) := fun _ => rfl
theorem fneg : ∀ x, Statement (.fneg x) := fun _ => rfl
theorem fabs : ∀ x, Statement (.fabs x) := fun _ => rfl
theorem frnd : ∀ x, Statement (.frnd x) := fun _ => rfl
theorem fscale : ∀ x, Statement (.fscale x) := fun _ => rfl
theorem fdot2 : ∀ x, Statement (.fdot2 x) := fun _ => rfl
theorem fdot4 : ∀ x, Statement (.fdot4 x) := fun _ => rfl
theorem fcvt : ∀ x, Statement (.fcvt x) := fun _ => rfl
theorem icvt : ∀ x, Statement (.icvt x) := fun _ => rfl
theorem pack : ∀ x, Statement (.pack x) := fun _ => rfl
theorem unpk : ∀ x, Statement (.unpk x) := fun _ => rfl
theorem bscale : ∀ x, Statement (.bscale x) := fun _ => rfl
theorem perm : ∀ x, Statement (.perm x) := fun _ => rfl
theorem shuf : ∀ x, Statement (.shuf x) := fun _ => rfl
theorem bcast : ∀ x, Statement (.bcast x) := fun _ => rfl
theorem ballot : ∀ x, Statement (.ballot x) := fun _ => rfl
theorem vote : ∀ x, Statement (.vote x) := fun _ => rfl
theorem redx : ∀ x, Statement (.redx x) := fun _ => rfl
theorem maxi : ∀ x, Statement (.maxi x) := fun _ => rfl
theorem mini : ∀ x, Statement (.mini x) := fun _ => rfl
theorem scanx : ∀ x, Statement (.scanx x) := fun _ => rfl
theorem xmov : ∀ x, Statement (.xmov x) := fun _ => rfl
theorem exp2 : ∀ x, Statement (.exp2 x) := fun _ => rfl
theorem log2 : ∀ x, Statement (.log2 x) := fun _ => rfl
theorem rcp : ∀ x, Statement (.rcp x) := fun _ => rfl
theorem rsq : ∀ x, Statement (.rsq x) := fun _ => rfl
theorem sqrt : ∀ x, Statement (.sqrt x) := fun _ => rfl
theorem sinp : ∀ x, Statement (.sinp x) := fun _ => rfl
theorem cosp : ∀ x, Statement (.cosp x) := fun _ => rfl
theorem act : ∀ x, Statement (.act x) := fun _ => rfl
theorem sftload : ∀ x, Statement (.sftload x) := fun _ => rfl
theorem sftloadTableWrite : ∀ x, Statement (.sftloadTableWrite x) := fun _ => rfl
theorem rndw : ∀ x, Statement (.rndw x) := fun _ => rfl
theorem lds : ∀ x, Statement (.lds x) := fun _ => rfl
theorem sts : ∀ x, Statement (.sts x) := fun _ => rfl
theorem ldsx : ∀ x, Statement (.ldsx x) := fun _ => rfl
theorem stsx : ∀ x, Statement (.stsx x) := fun _ => rfl
theorem fullEmptyWaitSatisfied : ∀ x y, Statement (.fullEmptyWaitSatisfied x y) := fun _ _ => rfl
theorem feset : ∀ x, Statement (.feset x) := fun _ => rfl
theorem feclr : ∀ x, Statement (.feclr x) := fun _ => rfl
theorem ld : ∀ x, Statement (.ld x) := fun _ => rfl
theorem st : ∀ x, Statement (.st x) := fun _ => rfl
theorem ldb : ∀ x, Statement (.ldb x) := fun _ => rfl
theorem stb : ∀ x, Statement (.stb x) := fun _ => rfl
theorem pref : ∀ x, Statement (.pref x) := fun _ => rfl
theorem cinvLine : ∀ x, Statement (.cinvLine x) := fun _ => rfl
theorem cinvTiles : ∀ x, Statement (.cinvTiles x) := fun _ => rfl
theorem cinvAll : ∀ x, Statement (.cinvAll x) := fun _ => rfl
theorem atom : ∀ x, Statement (.atom x) := fun _ => rfl
theorem cas : ∀ x, Statement (.cas x) := fun _ => rfl
theorem ula : ∀ x, Statement (.ula x) := fun _ => rfl
theorem fence : ∀ x, Statement (.fence x) := fun _ => rfl
theorem variableLatencyResult : ∀ x, Statement (.variableLatencyResult x) := fun _ => rfl
theorem asyncWritePerformed : ∀ x, Statement (.asyncWritePerformed x) := fun _ => rfl
theorem barArrive : ∀ x, Statement (.barArrive x) := fun _ => rfl
theorem barWait : ∀ x, Statement (.barWait x) := fun _ => rfl
theorem barSync : ∀ x, Statement (.barSync x) := fun _ => rfl
theorem barq : ∀ x, Statement (.barq x) := fun _ => rfl
theorem racqP : ∀ x, Statement (.racqP x) := fun _ => rfl
theorem racqC : ∀ x, Statement (.racqC x) := fun _ => rfl
theorem rcommit : ∀ x, Statement (.rcommit x) := fun _ => rfl
theorem rrel : ∀ x, Statement (.rrel x) := fun _ => rfl
theorem warpsync : ∀ x, Statement (.warpsync x) := fun _ => rfl
theorem cpy : ∀ x, Statement (.cpy x) := fun _ => rfl
theorem cpyWaitEnter : ∀ x, Statement (.cpyWaitEnter x) := fun _ => rfl
theorem cseal : ∀ x, Statement (.cseal x) := fun _ => rfl
theorem cwait : ∀ x, Statement (.cwait x) := fun _ => rfl
theorem ctable : ∀ x, Statement (.ctable x) := fun _ => rfl
theorem cquery : ∀ x, Statement (.cquery x) := fun _ => rfl
theorem copyCommandStart : ∀ x y, Statement (.copyCommandStart x y) := fun _ _ => rfl
theorem copyCommandFinish : ∀ x y, Statement (.copyCommandFinish x y) := fun _ _ => rfl
theorem mload : ∀ x, Statement (.mload x) := fun _ => rfl
theorem mperm : ∀ x, Statement (.mperm x) := fun _ => rfl
theorem mzero : ∀ x, Statement (.mzero x) := fun _ => rfl
theorem mma : ∀ x, Statement (.mma x) := fun _ => rfl
theorem mladr : ∀ x, Statement (.mladr x) := fun _ => rfl
theorem mscale : ∀ x, Statement (.mscale x) := fun _ => rfl
theorem mscaleClr : ∀ x, Statement (.mscaleClr x) := fun _ => rfl
theorem mdrain : ∀ x, Statement (.mdrain x) := fun _ => rfl
theorem matrixOpStart : ∀ x y, Statement (.matrixOpStart x y) := fun _ _ => rfl
theorem matrixOpComplete : ∀ x y, Statement (.matrixOpComplete x y) := fun _ _ => rfl
theorem mwait : ∀ x, Statement (.mwait x) := fun _ => rfl
theorem mbarArrive : ∀ x, Statement (.mbarArrive x) := fun _ => rfl
theorem mbarWait : ∀ x, Statement (.mbarWait x) := fun _ => rfl
theorem mbarSync : ∀ x, Statement (.mbarSync x) := fun _ => rfl
theorem mbarRacqP : ∀ x, Statement (.mbarRacqP x) := fun _ => rfl
theorem mbarRacqC : ∀ x, Statement (.mbarRacqC x) := fun _ => rfl
theorem mbarRcommit : ∀ x, Statement (.mbarRcommit x) := fun _ => rfl
theorem mbarRrel : ∀ x, Statement (.mbarRrel x) := fun _ => rfl
theorem mend : ∀ x, Statement (.mend x) := fun _ => rfl
theorem trn : ∀ x, Statement (.trn x) := fun _ => rfl
theorem trnw : ∀ x, Statement (.trnw x) := fun _ => rfl
theorem bra : ∀ x, Statement (.bra x) := fun _ => rfl
theorem brx : ∀ x, Statement (.brx x) := fun _ => rfl
theorem call : ∀ x, Statement (.call x) := fun _ => rfl
theorem ret : ∀ x, Statement (.ret x) := fun _ => rfl
theorem join : ∀ x, Statement (.join x) := fun _ => rfl
theorem exit : ∀ x, Statement (.exit x) := fun _ => rfl
theorem loopDec : ∀ x, Statement (.loopDec x) := fun _ => rfl
theorem loopPush : ∀ x, Statement (.loopPush x) := fun _ => rfl
theorem lbreak : ∀ x, Statement (.lbreak x) := fun _ => rfl
theorem lbreakZ : ∀ x, Statement (.lbreakZ x) := fun _ => rfl
theorem lbreakNz : ∀ x, Statement (.lbreakNz x) := fun _ => rfl
theorem modeVliw : ∀ x, Statement (.modeVliw x) := fun _ => rfl
theorem modeVliwContextTaken : ∀ x y, Statement (.modeVliwContextTaken x y) := fun _ _ => rfl
theorem modeSimt : ∀ x, Statement (.modeSimt x) := fun _ => rfl
theorem nop : ∀ x, Statement (.nop x) := fun _ => rfl
theorem sleep : ∀ x, Statement (.sleep x) := fun _ => rfl
theorem sleepExpiry : ∀ x, Statement (.sleepExpiry x) := fun _ => rfl
theorem getsr : ∀ x, Statement (.getsr x) := fun _ => rfl
theorem setsr : ∀ x, Statement (.setsr x) := fun _ => rfl
theorem trap : ∀ x, Statement (.trap x) := fun _ => rfl
theorem svc : ∀ x, Statement (.svc x) := fun _ => rfl
theorem bkpt : ∀ x, Statement (.bkpt x) := fun _ => rfl
theorem tretRetry : ∀ x, Statement (.tretRetry x) := fun _ => rfl
theorem tretNext : ∀ x, Statement (.tretNext x) := fun _ => rfl
theorem logw : ∀ x, Statement (.logw x) := fun _ => rfl
theorem clk : ∀ x, Statement (.clk x) := fun _ => rfl
theorem launch : ∀ x, Statement (.launch x) := fun _ => rfl
theorem tailNotify : ∀ x, Statement (.tailNotify x) := fun _ => rfl
theorem sqrecLd : ∀ x, Statement (.sqrecLd x) := fun _ => rfl
theorem sqrecSt : ∀ x, Statement (.sqrecSt x) := fun _ => rfl
theorem sqrecHist : ∀ x, Statement (.sqrecHist x) := fun _ => rfl
theorem sqrecCinc : ∀ x, Statement (.sqrecCinc x) := fun _ => rfl
theorem sqrecCget : ∀ x, Statement (.sqrecCget x) := fun _ => rfl
theorem sqrecWchk : ∀ x, Statement (.sqrecWchk x) := fun _ => rfl
theorem sqacc : ∀ x, Statement (.sqacc x) := fun _ => rfl
theorem sqbind : ∀ x, Statement (.sqbind x) := fun _ => rfl
theorem lpcall : ∀ x, Statement (.lpcall x) := fun _ => rfl
theorem lpret : ∀ x, Statement (.lpret x) := fun _ => rfl
theorem bundleIssue : ∀ x y z, Statement (.bundleIssue x y z) := fun _ _ _ => rfl
theorem emptyRun : ∀ x, Statement (.emptyRun x) := fun _ => rfl
theorem replayRetry : ∀ x y, Statement (.replayRetry x y) := fun _ _ => rfl
theorem discard : ∀ x, Statement (.discard x) := fun _ => rfl
theorem blockPlace : ∀ x y, Statement (.blockPlace x y) := fun _ _ => rfl
theorem launchAdmission : ∀ x, Statement (.launchAdmission x) := fun _ => rfl
theorem recordAging : ∀ x, Statement (.recordAging x) := fun _ => rfl
theorem launchComplete : ∀ x, Statement (.launchComplete x) := fun _ => rfl
theorem qtail : ∀ x y z, Statement (.qtail x y z) := fun _ _ _ => rfl
theorem hostQueueConsume : ∀ x, Statement (.hostQueueConsume x) := fun _ => rfl
theorem launchCommand : ∀ x, Statement (.launchCommand x) := fun _ => rfl
theorem hcopy : ∀ x, Statement (.hcopy x) := fun _ => rfl
theorem hcopyDone : ∀ x, Statement (.hcopyDone x) := fun _ => rfl
theorem signal : ∀ x, Statement (.signal x) := fun _ => rfl
theorem wait : ∀ x, Statement (.wait x) := fun _ => rfl
theorem bind : ∀ x, Statement (.bind x) := fun _ => rfl
theorem wsmode : ∀ x, Statement (.wsmode x) := fun _ => rfl
theorem wsmodeApply : ∀ x, Statement (.wsmodeApply x) := fun _ => rfl
theorem logctl : ∀ x, Statement (.logctl x) := fun _ => rfl
theorem partitionCreate : ∀ x, Statement (.partitionCreate x) := fun _ => rfl
theorem partitionDestroy : ∀ x, Statement (.partitionDestroy x) := fun _ => rfl
theorem partitionSave : ∀ x, Statement (.partitionSave x) := fun _ => rfl
theorem partitionResume : ∀ x y, Statement (.partitionResume x y) := fun _ _ => rfl
theorem partitionSaveResume : ∀ x, Statement (.partitionSaveResume x) := fun _ => rfl
theorem partitionHaltComplete : ∀ x y, Statement (.partitionHaltComplete x y) := fun _ _ => rfl
theorem claim : ∀ x y, Statement (.claim x y) := fun _ _ => rfl
theorem leaseWrite : ∀ x y, Statement (.leaseWrite x y) := fun _ _ => rfl
theorem leaseWarning : Statement (.leaseWarning) := rfl
theorem leaseExpiry : Statement (.leaseExpiry) := rfl
theorem hostBar2Write : ∀ x y z, Statement (.hostBar2Write x y z) := fun _ _ _ => rfl
theorem hostAtomic : ∀ x y z u v, Statement (.hostAtomic x y z u v) := fun _ _ _ _ _ => rfl
theorem remoteOpArrive : ∀ x y z, Statement (.remoteOpArrive x y z) := fun _ _ _ => rfl
theorem remoteAck : ∀ x y, Statement (.remoteAck x y) := fun _ _ => rfl
theorem remoteTimeout : ∀ x, Statement (.remoteTimeout x) := fun _ => rfl
theorem serviceRunStart : ∀ x, Statement (.serviceRunStart x) := fun _ => rfl
theorem serviceRunLimit : ∀ x, Statement (.serviceRunLimit x) := fun _ => rfl
theorem deadlineExpiry : ∀ x, Statement (.deadlineExpiry x) := fun _ => rfl
theorem coreWake : ∀ x y, Statement (.coreWake x y) := fun _ _ => rfl
theorem refreshWindowOpen : ∀ x, Statement (.refreshWindowOpen x) := fun _ => rfl
theorem refreshWindowEnd : ∀ x, Statement (.refreshWindowEnd x) := fun _ => rfl
theorem patrolScrub : ∀ x, Statement (.patrolScrub x) := fun _ => rfl
theorem dramRowRepair : ∀ x y, Statement (.dramRowRepair x y) := fun _ _ => rfl
theorem weightStoreBankRepair : ∀ x y, Statement (.weightStoreBankRepair x y) := fun _ _ => rfl
theorem runnerLaneSpare : ∀ x y, Statement (.runnerLaneSpare x y) := fun _ _ => rfl
theorem windowBoundary : ∀ x y z, Statement (.windowBoundary x y z) := fun _ _ _ => rfl
theorem samplePeriod : ∀ x, Statement (.samplePeriod x) := fun _ => rfl
theorem dcmdHalt : ∀ x, Statement (.dcmdHalt x) := fun _ => rfl
theorem dcmdRelease : ∀ x, Statement (.dcmdRelease x) := fun _ => rfl
theorem dcmdStep1 : ∀ x, Statement (.dcmdStep1 x) := fun _ => rfl
theorem dcmdStepy : ∀ x, Statement (.dcmdStepy x) := fun _ => rfl
theorem debugWindowWrite : ∀ x, Statement (.debugWindowWrite x) := fun _ => rfl
theorem corespareGo : ∀ x y z, Statement (.corespareGo x y z) := fun _ _ _ => rfl
theorem fmctlDrain : ∀ x y, Statement (.fmctlDrain x y) := fun _ _ => rfl
theorem fmctlRestore : ∀ x y, Statement (.fmctlRestore x y) := fun _ _ => rfl
theorem farMemoryUnitMove : ∀ x, Statement (.farMemoryUnitMove x) := fun _ => rfl
theorem farMemoryModuleRemoved : ∀ x, Statement (.farMemoryModuleRemoved x) := fun _ => rfl
theorem tdctlSnap : ∀ x, Statement (.tdctlSnap x) := fun _ => rfl
theorem tdctlLive : ∀ x, Statement (.tdctlLive x) := fun _ => rfl
theorem tdctlClear : ∀ x, Statement (.tdctlClear x) := fun _ => rfl
theorem registerWrite : ∀ x y z, Statement (.registerWrite x y z) := fun _ _ _ => rfl
theorem fixedLatencyResult : ∀ x y, Statement (.fixedLatencyResult x y) := fun _ _ => rfl
theorem eviction : ∀ x, Statement (.eviction x) := fun _ => rfl
theorem farMemoryModuleSeated : ∀ x, Statement (.farMemoryModuleSeated x) := fun _ => rfl
theorem logBufferRoom : ∀ x y, Statement (.logBufferRoom x y) := fun _ _ => rfl
theorem flitReplay : ∀ x, Statement (.flitReplay x) := fun _ => rfl

end Sys2Proof.Laws.Form
end

