-- ==== Sys2Proof/Tests/Slice0.lean ====
section
/-!
SUPPORT. The model's own tests: words written out from the spec's encodings, ill-formed terms, worked values, and a witness for the hypotheses of
every statement.
-/
namespace Sys2Proof.Tests

open Sys2Proof Sys2Proof.Machine

set_option Elab.async false

/-! ### Words written out from the spec's encodings -/

/-- The word whose fields are those of spec/03 R72: OP 63:56, EXT 55:50, STALL 49:46, PRED 45:41, D 40:31, A 30:21, B 20:11, C 10:1, W 0. -/
def word (op ext stall pred d a b c w : Nat) : Word64 :=
  BitVec.ofNat 64 (op * 2 ^ 56 + ext * 2 ^ 50 + stall * 2 ^ 46 + pred * 2 ^ 41 + d * 2 ^ 31 + a * 2 ^ 21 + b * 2 ^ 11 + c * 2 + w)

/-! Specifiers as spec/03 R79 numbers them. -/
def qV (k n : Nat) : Nat := 64 * k + n
def qS (n : Nat) : Nat := 0x100 + n
def qM (i : Nat) : Nat := 0x200 + i
def qSp (i : Nat) : Nat := 0x210 + i
def qI (n : Nat) : Nat := 0x300 + n

/-- A row: the view, the opcode, EXT, the specifiers D, A, B and C, and the instruction that the spec's tables name. -/
structure Written where
  v : View
  op : Nat
  ext : Nat
  d : Nat
  a : Nat
  b : Nat
  c : Nat
  i : Instr

/-- The decoder reads a row's word as its instruction, and the encoder writes the word. -/
def Written.right (r : Written) : Bool :=
  let x := word r.op r.ext 0 0 r.d r.a r.b r.c 0
  (match r.v with
   | .slot sl => decide (decodeSlot sl 64 x [] = .ok r.i) && decide (encodeSlot r.i = some x)
   | v => decide (decodeWord v 64 x 0 = .ok r.i) && decide (encode r.i = [x])) && legalIn r.v 64 r.i

/-- Operands of D, A, B and C without STALL, PRED or literal. -/
def wd (ext : BitVec 6) (d a b c : Operand) : IWord := ⟨ext, 0, 0, d, a, b, c, []⟩

/-- spec/05 R121, R122: the opcodes 0x00 to 0x1B, in a lane, of type i32 (code 9), n32 (0x0E) or n64 (0x0D). -/
def integerRows : List Written :=
  let z := Operand.vec 0 0
  let r (op : Nat) (mk : IWord → Instr) : Written := ⟨.simt, op, 0x09, qV 0 8, qV 0 9, qV 0 10, 0, mk (wd 9 (.vec 0 8) (.vec 0 9) (.vec 0 10) z)⟩
  let one (op : Nat) (mk : IWord → Instr) : Written := ⟨.simt, op, 0x09, qV 0 8, qV 0 9, 0, 0, mk (wd 9 (.vec 0 8) (.vec 0 9) z z)⟩
  let three (op : Nat) (mk : IWord → Instr) : Written :=
    ⟨.simt, op, 0x09, qV 0 8, qV 0 9, qV 0 10, qV 0 11, mk (wd 9 (.vec 0 8) (.vec 0 9) (.vec 0 10) (.vec 0 11))⟩
  [r 0x00 .iadd, r 0x01 .isub, r 0x02 .imul, r 0x03 .imulh, three 0x04 .imad, r 0x05 .idiv, r 0x06 .irem, r 0x07 .imin, r 0x08 .imax, one 0x09 .iabs,
   r 0x0A .isat, r 0x0B .and, r 0x0C .or, r 0x0D .xor, r 0x0E .andn, r 0x0F .shl, r 0x10 .shr, r 0x11 .sar, r 0x12 .rotl, one 0x13 .clz, one 0x14 .popc,
   one 0x15 .brev, r 0x16 .bfx, three 0x17 .bfi, r 0x1A .movl, r 0x1B .rshr,
   ⟨.simt, 0x18, 0x0D, qS 5, qS 6, qS 7, qI 3, .lea (wd 0x0D (.sreg 5) (.sreg 6) (.sreg 7) (.small 3))⟩,
   ⟨.stream, 0x19, 0x0D, qS 5, qI 3, 0, 0, .mov (wd 0x0D (.sreg 5) (.small 3) z z)⟩]

theorem test_decode_integer : integerRows.all Written.right = true := by decide +kernel

/-- spec/05 R126 to R132: compares, selects and masks. -/
def maskRows : List Written :=
  let z := Operand.vec 0 0
  [⟨.simt, 0x20, 0x2E, qM 1, qV 0 0, qI 8, qI 2, .icmp (wd 0x2E (.mask 1) (.vec 0 0) (.small 8) (.small 2))⟩,
   ⟨.simt, 0x21, 0x01, qM 2, qV 0 4, qV 0 5, qI 7, .fcmp (wd 1 (.mask 2) (.vec 0 4) (.vec 0 5) (.small 7))⟩,
   ⟨.simt, 0x22, 0x01, qM 2, qV 0 4, qI 3, 0, .fclass (wd 1 (.mask 2) (.vec 0 4) (.small 3) z)⟩,
   ⟨.simt, 0x23, 0x0E, qV 0 4, qV 0 5, qV 0 6, qM 1, .sel (wd 0x0E (.vec 0 4) (.vec 0 5) (.vec 0 6) (.mask 1))⟩,
   ⟨.simt, 0x24, 0, qM 3, qM 1, qM 2, qI 8, .plog (wd 0 (.mask 3) (.mask 1) (.mask 2) (.small 8))⟩,
   ⟨.simt, 0x25, 0, qM 3, qM 1, 0, 0, .pmovMm (wd 0 (.mask 3) (.mask 1) z z)⟩,
   ⟨.simt, 0x25, 1, qV 0 3, qM 1, 0, 0, .pmovMv (wd 1 (.vec 0 3) (.mask 1) z z)⟩,
   ⟨.simt, 0x25, 2, qM 3, qV 0 1, 0, 0, .pmovVm (wd 2 (.mask 3) (.vec 0 1) z z)⟩,
   ⟨.simt, 0x26, 0, qS 3, qM 1, 0, 0, .pcnt (wd 0 (.sreg 3) (.mask 1) z z)⟩,
   ⟨.simt, 0x27, 1, qS 3, qM 1, 0, 0, .pfirst (wd 1 (.sreg 3) (.mask 1) z z)⟩]

theorem test_decode_masks : maskRows.all Written.right = true := by decide +kernel

/-- spec/06 R154 to R165: float arithmetic and conversions. FT 1 is f32; conversion codes 2 and 1 are bf16 and f32. -/
def floatRows : List Written :=
  let z := Operand.vec 0 0
  let r (op : Nat) (mk : IWord → Instr) : Written := ⟨.simt, op, 1, qV 0 5, qV 0 4, qV 0 4, 0, mk (wd 1 (.vec 0 5) (.vec 0 4) (.vec 0 4) z)⟩
  let one (op : Nat) (mk : IWord → Instr) : Written := ⟨.simt, op, 1, qV 0 5, qV 0 4, 0, 0, mk (wd 1 (.vec 0 5) (.vec 0 4) z z)⟩
  let three (op : Nat) (mk : IWord → Instr) : Written :=
    ⟨.simt, op, 1, qV 0 5, qV 0 4, qV 0 4, qV 0 6, mk (wd 1 (.vec 0 5) (.vec 0 4) (.vec 0 4) (.vec 0 6))⟩
  [r 0x30 .fadd, r 0x31 .fsub, r 0x32 .fmul, three 0x33 .ffma, r 0x34 .fmin, r 0x35 .fmax, one 0x36 .fneg, one 0x37 .fabs, one 0x38 .frnd, r 0x39 .fscale,
   three 0x3A .fdot2, three 0x3B .fdot4,
   ⟨.simt, 0x40, 0x11, qV 0 4, qV 0 6, 0, qI 1, .fcvt (wd 0x11 (.vec 0 4) (.vec 0 6) z (.small 1))⟩,
   ⟨.simt, 0x41, 0x09, qV 0 4, qV 0 6, qI 1, qI 2, .icvt (wd 9 (.vec 0 4) (.vec 0 6) (.small 1) (.small 2))⟩,
   ⟨.simt, 0x42, 0x0B, qV 0 4, qV 0 6, qV 0 7, 0, .pack (wd 0x0B (.vec 0 4) (.vec 0 6) (.vec 0 7) z)⟩,
   ⟨.simt, 0x43, 0x0B, qV 0 4, qV 0 6, 0, 0, .unpk (wd 0x0B (.vec 0 4) (.vec 0 6) z z)⟩,
   ⟨.simt, 0x44, 0x0C, qV 0 4, qV 0 6, qV 0 7, qI 0, .bscale (wd 0x0C (.vec 0 4) (.vec 0 6) (.vec 0 7) (.small 0))⟩]

theorem test_decode_floats : floatRows.all Written.right = true := by decide +kernel

/-- spec/06 R166 to R184; spec/08 R236: lane forms, special functions and transposes. XMOV and the transposes stand in slots only. -/
def laneRows : List Written :=
  let z := Operand.vec 0 0
  let fn (op : Nat) (mk : IWord → Instr) : Written := ⟨.simt, op, 1, qV 0 5, qV 0 4, 0, 0, mk (wd 1 (.vec 0 5) (.vec 0 4) z z)⟩
  [⟨.simt, 0x50, 0, qV 0 3, qV 0 4, qV 0 5, qV 0 6, .perm (wd 0 (.vec 0 3) (.vec 0 4) (.vec 0 5) (.vec 0 6))⟩,
   ⟨.simt, 0x51, 3, qV 0 3, qV 0 4, qI 1, 0, .shuf (wd 3 (.vec 0 3) (.vec 0 4) (.small 1) z)⟩,
   ⟨.simt, 0x52, 0x0E, qV 0 3, qV 0 4, qI 1, 0, .bcast (wd 0x0E (.vec 0 3) (.vec 0 4) (.small 1) z)⟩,
   ⟨.simt, 0x53, 0, qS 3, qM 1, 0, 0, .ballot (wd 0 (.sreg 3) (.mask 1) z z)⟩,
   ⟨.simt, 0x54, 1, qM 3, qM 1, 0, 0, .vote (wd 1 (.mask 3) (.mask 1) z z)⟩,
   ⟨.simt, 0x55, 0x21, qV 0 2, qV 0 1, 0, qI 0, .redx (wd 0x21 (.vec 0 2) (.vec 0 1) z (.small 0))⟩,
   ⟨.simt, 0x56, 0x01, qV 0 2, qV 0 1, qV 0 4, 0, .maxi (wd 1 (.vec 0 2) (.vec 0 1) (.vec 0 4) z)⟩,
   ⟨.simt, 0x57, 0x09, qV 0 2, qV 0 1, qV 0 4, 0, .mini (wd 9 (.vec 0 2) (.vec 0 1) (.vec 0 4) z)⟩,
   ⟨.simt, 0x58, 0x09, qV 0 2, qV 0 1, 0, qI 8, .scanx (wd 9 (.vec 0 2) (.vec 0 1) z (.small 8))⟩,
   ⟨.slot .v1, 0x59, 0x0E, qV 1 2, qV 3 1, 0, 0, .xmov (wd 0x0E (.vec 1 2) (.vec 3 1) z z)⟩,
   fn 0x60 .exp2, fn 0x61 .log2, fn 0x62 .rcp, fn 0x63 .rsq, fn 0x64 .sqrt, fn 0x65 .sinp, fn 0x66 .cosp, fn 0x67 .act,
   ⟨.simt, 0x68, 0, 0, qS 4, qI 0, qI 1, .sftload (wd 0 z (.sreg 4) (.small 0) (.small 1))⟩,
   ⟨.simt, 0x69, 0, qV 0 2, qV 0 1, qI 5, 0, .rndw (wd 0 (.vec 0 2) (.vec 0 1) (.small 5) z)⟩,
   ⟨.slot .t, 0xCA, 0x0F, qV 1 10, qV 1 3, 0, 0, .trn (wd 0x0F (.vec 1 10) (.vec 1 3) z z)⟩,
   ⟨.slot .t, 0xCB, 0x0E, qV 1 10, qV 1 2, 0, 0, .trnw (wd 0x0E (.vec 1 10) (.vec 1 2) z z)⟩]

theorem test_decode_lanes : laneRows.all Written.right = true := by decide +kernel

/-- spec/07 R188 to R202: scratchpad, global, cache and atomic forms. SIZE is EXT[5:3] with 4 the 32-bit word. -/
def memoryRows : List Written :=
  let z := Operand.vec 0 0
  [⟨.simt, 0x70, 0x31, qV 0 4, qS 6, qI 48, 0, .lds (wd 0x31 (.vec 0 4) (.sreg 6) (.small 48) z)⟩,
   ⟨.simt, 0x71, 0x21, 0, qI 0, qS 6, qV 0 3, .sts (wd 0x21 z (.small 0) (.sreg 6) (.vec 0 3))⟩,
   ⟨.simt, 0x72, 0x10, qV 0 4, qS 6, qI 0, 0, .ldsx (wd 0x10 (.vec 0 4) (.sreg 6) (.small 0) z)⟩,
   ⟨.simt, 0x73, 0x00, 0, qS 6, qI 0, qV 0 3, .stsx (wd 0 z (.sreg 6) (.small 0) (.vec 0 3))⟩,
   ⟨.simt, 0x74, 0, 0, qS 6, qI 0, qI 16, .feset (wd 0 z (.sreg 6) (.small 0) (.small 16))⟩,
   ⟨.simt, 0x75, 0, 0, qS 6, qI 0, qI 16, .feclr (wd 0 z (.sreg 6) (.small 0) (.small 16))⟩,
   ⟨.simt, 0x80, 0x20, qV 0 4, qS 6, qV 0 1, 0, .ld (wd 0x20 (.vec 0 4) (.sreg 6) (.vec 0 1) z)⟩,
   ⟨.simt, 0x81, 0x20, 0, qS 6, qI 8, qS 7, .st (wd 0x20 z (.sreg 6) (.small 8) (.sreg 7))⟩,
   ⟨.simt, 0x82, 0x00, qV 0 4, qI 2, qS 6, 0, .ldb (wd 0 (.vec 0 4) (.small 2) (.sreg 6) z)⟩,
   ⟨.simt, 0x83, 0x00, 0, qI 2, qS 6, qV 0 4, .stb (wd 0 z (.small 2) (.sreg 6) (.vec 0 4))⟩,
   ⟨.simt, 0x84, 0x01, 0, qS 6, qI 0, 0, .pref (wd 1 z (.sreg 6) (.small 0) z)⟩,
   ⟨.simt, 0x85, 0, 0, qS 6, qI 0, 0, .cinvLine (wd 0 z (.sreg 6) (.small 0) z)⟩,
   ⟨.simt, 0x85, 1, 0, 0, 0, 0, .cinvTiles (wd 1 z z z z)⟩,
   ⟨.simt, 0x85, 2, 0, 0, 0, 0, .cinvAll (wd 2 z z z z)⟩,
   ⟨.simt, 0x90, 0x20, qS 3, qS 6, qI 0, qI 1, .atom (wd 0x20 (.sreg 3) (.sreg 6) (.small 0) (.small 1))⟩,
   ⟨.simt, 0x91, 0x00, qV 0 3, qS 6, qI 0, qV 0 4, .cas (wd 0 (.vec 0 3) (.sreg 6) (.small 0) (.vec 0 4))⟩,
   ⟨.simt, 0x92, 0, qS 7, qS 4, qI 0, qI 5, .ula (wd 0 (.sreg 7) (.sreg 4) (.small 0) (.small 5))⟩,
   ⟨.simt, 0x93, 0x24, 0, 0, 0, 0, .fence (wd 0x24 z z z z)⟩]

theorem test_decode_memory : memoryRows.all Written.right = true := by decide +kernel

/-- spec/07 R204 to R216: barriers, rings and the copy engine. -/
def syncRows : List Written :=
  let z := Operand.vec 0 0
  [⟨.simt, 0xA0, 0x00, 0, qI 5, 0, 0, .barArrive (wd 0 z (.small 5) z z)⟩,
   ⟨.simt, 0xA0, 0x14, 0, qI 5, qI 1, 0, .barWait (wd 0x14 z (.small 5) (.small 1) z)⟩,
   ⟨.simt, 0xA0, 0x20, 0, qI 3, 0, 0, .barSync (wd 0x20 z (.small 3) z z)⟩,
   ⟨.simt, 0xA1, 0x00, qS 3, qI 5, 0, 0, .barq (wd 0 (.sreg 3) (.small 5) z z)⟩,
   ⟨.simt, 0xA2, 0, 0, qI 2, 0, 0, .racqP (wd 0 z (.small 2) z z)⟩,
   ⟨.simt, 0xA2, 1, 0, qI 2, 0, 0, .racqC (wd 1 z (.small 2) z z)⟩,
   ⟨.simt, 0xA3, 0, 0, qI 2, 0, 0, .rcommit (wd 0 z (.small 2) z z)⟩,
   ⟨.simt, 0xA4, 0, 0, qI 2, 0, 0, .rrel (wd 0 z (.small 2) z z)⟩,
   ⟨.simt, 0xA5, 0, 0, 0, 0, 0, .warpsync (wd 0 z z z z)⟩,
   ⟨.simt, 0xB0, 0, 0, qS 20, qI 0, 0, .cpy (wd 0 z (.sreg 20) (.small 0) z)⟩,
   ⟨.simt, 0xB1, 0, qS 3, 0, 0, 0, .cseal (wd 0 (.sreg 3) z z z)⟩,
   ⟨.simt, 0xB2, 0, 0, qI 0, 0, 0, .cwait (wd 0 z (.small 0) z z)⟩,
   ⟨.simt, 0xB3, 0, 0, qS 20, qI 0, 0, .ctable (wd 0 z (.sreg 20) (.small 0) z)⟩,
   ⟨.simt, 0xB4, 2, qS 3, 0, 0, 0, .cquery (wd 2 (.sreg 3) z z z)⟩]

theorem test_decode_sync : syncRows.all Written.right = true := by decide +kernel

/-- spec/08 R221 to R235: the matrix stream. -/
def matrixRows : List Written :=
  let z := Operand.vec 0 0
  let bare (op ext : Nat) (mk : IWord → Instr) : Written := ⟨.stream, op, ext, 0, 0, 0, 0, mk (wd (BitVec.ofNat 6 ext) z z z z)⟩
  let bar (ext : Nat) (mk : IWord → Instr) : Written := ⟨.stream, 0xC8, ext, 0, qI 2, 0, 0, mk (wd (BitVec.ofNat 6 ext) z (.small 2) z z)⟩
  [⟨.stream, 0xC0, 0x02, 0, qS 4, qI 12, qI 0, .mload (wd 2 z (.sreg 4) (.small 12) (.small 0))⟩,
   ⟨.stream, 0xC1, 0x0C, 0, qS 8, qI 4, 0, .mperm (wd 0x0C z (.sreg 8) (.small 4) z)⟩,
   ⟨.stream, 0xC2, 0x01, 0, 0, 0, qI 2, .mzero (wd 1 z z z (.small 2))⟩,
   ⟨.stream, 0xC3, 0x02, 0, qS 4, qI 12, qI 3, .mma (wd 2 z (.sreg 4) (.small 12) (.small 3))⟩,
   ⟨.stream, 0xC4, 0x0B, 0, qS 10, qI 4, qI 1, .mladr (wd 0x0B z (.sreg 10) (.small 4) (.small 1))⟩,
   ⟨.stream, 0xC5, 0x00, 0, qS 10, 0, 0, .mscale (wd 0 z (.sreg 10) z z)⟩,
   bare 0xC5 1 .mscaleClr,
   ⟨.stream, 0xC6, 0x02, 0, qS 6, qI 0, qI 0, .mdrain (wd 2 z (.sreg 6) (.small 0) (.small 0))⟩,
   bare 0xC7 0 .mwait, bar 0 .mbarArrive,
   ⟨.stream, 0xC8, 1, 0, qI 2, qI 1, 0, .mbarWait (wd 1 z (.small 2) (.small 1) z)⟩,
   bar 2 .mbarSync, bar 3 .mbarRacqP, bar 4 .mbarRacqC, bar 5 .mbarRcommit, bar 6 .mbarRrel, bare 0xC9 0 .mend]

theorem test_decode_matrix : matrixRows.all Written.right = true := by decide +kernel

/-- spec/05 R134 to R150: control. LOOP.push, LBREAK and MODE.simt stand in slot S0 only. -/
def controlRows : List Written :=
  let z := Operand.vec 0 0
  [⟨.simt, 0xD0, 1, 0, qI 3, qI 4, 0, .bra (wd 1 z (.small 3) (.small 4) z)⟩,
   ⟨.simt, 0xD1, 0, 0, qS 9, 0, 0, .brx (wd 0 z (.sreg 9) z z)⟩,
   ⟨.simt, 0xD2, 0, qS 8, qI 3, 0, 0, .call (wd 0 (.sreg 8) (.small 3) z z)⟩,
   ⟨.simt, 0xD3, 0, 0, qS 8, 0, 0, .ret (wd 0 z (.sreg 8) z z)⟩,
   ⟨.simt, 0xD4, 1, 0, qI 4, 0, 0, .join (wd 1 z (.small 4) z z)⟩,
   ⟨.simt, 0xD5, 0, 0, 0, 0, 0, .exit (wd 0 z z z z)⟩,
   ⟨.simt, 0xD6, 0, qS 5, qI 120, 0, 0, .loopDec (wd 0 (.sreg 5) (.small 120) z z)⟩,
   ⟨.slot .s0, 0xD6, 0x09, 0, qS 5, qI 4, 0, .loopPush (wd 9 z (.sreg 5) (.small 4) z)⟩,
   ⟨.slot .s0, 0xD7, 0, 0, 0, 0, 0, .lbreak (wd 0 z z z z)⟩,
   ⟨.simt, 0xD7, 1, 0, qS 5, qI 4, 0, .lbreakZ (wd 1 z (.sreg 5) (.small 4) z)⟩,
   ⟨.simt, 0xD7, 2, 0, qS 5, qI 4, 0, .lbreakNz (wd 2 z (.sreg 5) (.small 4) z)⟩,
   ⟨.simt, 0xD8, 0, 0, 0, 0, 0, .modeVliw (wd 0 z z z z)⟩,
   ⟨.slot .s0, 0xD8, 1, 0, 0, 0, 0, .modeSimt (wd 1 z z z z)⟩,
   ⟨.simt, 0xD9, 0, 0, 0, 0, 0, .nop (wd 0 z z z z)⟩,
   ⟨.simt, 0xDA, 0, 0, qI 9, 0, 0, .sleep (wd 0 z (.small 9) z z)⟩]

theorem test_decode_control : controlRows.all Written.right = true := by decide +kernel

/-- spec/08 R237 to R248: system forms. -/
def systemRows : List Written :=
  let z := Operand.vec 0 0
  [⟨.simt, 0xE0, 0, qS 7, qI 0, 0, 0, .getsr (wd 0 (.sreg 7) (.small 0) z z)⟩,
   ⟨.simt, 0xE1, 0, 0, qI 0, qS 9, 0, .setsr (wd 0 z (.small 0) (.sreg 9) z)⟩,
   ⟨.simt, 0xE2, 0, 0, qI 6, qS 9, 0, .trap (wd 0 z (.small 6) (.sreg 9) z)⟩,
   ⟨.simt, 0xE3, 0, 0, 0, 0, 0, .tretRetry (wd 0 z z z z)⟩,
   ⟨.simt, 0xE3, 1, 0, 0, 0, 0, .tretNext (wd 1 z z z z)⟩,
   ⟨.simt, 0xE4, 0, 0, qI 9, 0, 0, .svc (wd 0 z (.small 9) z z)⟩,
   ⟨.simt, 0xE5, 0, 0, qI 9, 0, 0, .bkpt (wd 0 z (.small 9) z z)⟩,
   ⟨.simt, 0xE6, 0, 0, qS 9, qI 1, 0, .logw (wd 0 z (.sreg 9) (.small 1) z)⟩,
   ⟨.simt, 0xE7, 1, qS 7, 0, 0, 0, .clk (wd 1 (.sreg 7) z z z)⟩,
   ⟨.simt, 0xE8, 0, 0, qS 7, qI 0, 0, .launch (wd 0 z (.sreg 7) (.small 0) z)⟩,
   ⟨.simt, 0xE9, 0, qS 7, qS 4, qI 8, 0, .sqrecLd (wd 0 (.sreg 7) (.sreg 4) (.small 8) z)⟩,
   ⟨.simt, 0xE9, 1, 0, qS 4, qI 16, qS 9, .sqrecSt (wd 1 z (.sreg 4) (.small 16) (.sreg 9))⟩,
   ⟨.simt, 0xE9, 2, 0, qS 4, 0, qS 9, .sqrecHist (wd 2 z (.sreg 4) z (.sreg 9))⟩,
   ⟨.simt, 0xE9, 3, qS 7, qS 4, 0, qS 9, .sqrecCinc (wd 3 (.sreg 7) (.sreg 4) z (.sreg 9))⟩,
   ⟨.simt, 0xE9, 4, qS 7, qS 4, 0, qS 9, .sqrecCget (wd 4 (.sreg 7) (.sreg 4) z (.sreg 9))⟩,
   ⟨.simt, 0xE9, 5, 0, qS 4, 0, qS 9, .sqrecWchk (wd 5 z (.sreg 4) z (.sreg 9))⟩,
   ⟨.simt, 0xEA, 1, qS 7, qS 4, 0, qI 5, .sqacc (wd 1 (.sreg 7) (.sreg 4) z (.small 5))⟩,
   ⟨.simt, 0xEB, 0, 0, qS 4, qS 8, qI 2, .sqbind (wd 0 z (.sreg 4) (.sreg 8) (.small 2))⟩,
   ⟨.simt, 0xEC, 0, 0, qS 4, qS 8, qI 0, .lpcall (wd 0 z (.sreg 4) (.sreg 8) (.small 0))⟩,
   ⟨.simt, 0xED, 0, 0, 0, 0, 0, .lpret (wd 0 z z z z)⟩]

theorem test_decode_system : systemRows.all Written.right = true := by decide +kernel

/-- All instructions above. -/
def written : List Written :=
  integerRows ++ maskRows ++ floatRows ++ laneRows ++ memoryRows ++ syncRows ++ matrixRows ++ controlRows ++ systemRows

/-- Whole words worked out in the spec: STALL (spec/03 R96), a literal, a pair literal's low word, a bundle header. -/
theorem test_decode_worked :
    decodeWord .simt 64 0x3384C00080201006 0 = .ok (.ffma ⟨0x21, 3, 0, .vec 0 1, .vec 0 1, .vec 0 2, .vec 0 3, []⟩) ∧
    decodeWord .simt 64 0xC308000020986606 0 = .ok (.mma ⟨2, 0, 0, .vec 0 0, .sreg 4, .small 12, .small 3, []⟩) ∧
    decodeWord .stream 64 0x1934008370000001 0x2000 = .ok (.mov ⟨0x0D, 0, 0, .sreg 6, .lit false 0, .vec 0 0, .vec 0 0, [0x2000, 0]⟩) ∧
    decodeSlot .v0 64 0x3314000401004814 [] = .ok (.ffma ⟨5, 0, 0, .vec 0 8, .vec 0 8, .vec 0 9, .vec 0 10, []⟩) := by decide +kernel

/-- The header of the worked bundle (spec/03 R97): four slots, a pool of one word. -/
theorem test_header_worked :
    presentSlots (headerOf 0x0B20214000000000).present = [.s0, .v0, .v1, .f] := by decide +kernel

/-! ### Ill-formed terms, one for each check (spec/03 R92, R94) -/

/-- A term that breaks exactly the given conditions, and is not well-formed. -/
def refused (v : View) (rows : Nat) (i : Instr) (l : List Bad) : Bool :=
  !legalIn v rows i && match instrParts i with | some (op, w) => decide (violations v rows (.ofIWord op w) = l) | none => false

theorem test_smoke_opcode : refused .simt 64 (.trn (wd 0x0F (.vec 1 10) (.vec 1 3) (.vec 0 0) (.vec 0 0))) [.opcode] = true := by decide +kernel
theorem test_smoke_ext : refused .simt 64 (.iadd (wd 0x01 (.vec 0 8) (.vec 0 9) (.vec 0 10) (.vec 0 0))) [.ext] = true := by decide +kernel
theorem test_smoke_specifier : refused .simt 64 (.iadd (wd 0x09 (.vec 1 8) (.vec 0 9) (.vec 0 10) (.vec 0 0))) [.spec] = true := by decide +kernel
theorem test_smoke_unused : refused .simt 64 (.iadd (wd 0x09 (.vec 0 8) (.vec 0 9) (.vec 0 10) (.vec 0 1))) [.unused] = true := by decide +kernel
theorem test_smoke_literal : refused .simt 64 (.iadd (wd 0x09 (.vec 0 8) (.vec 0 9) (.lit false 0) (.vec 0 0))) [.lit] = true := by decide +kernel
theorem test_smoke_row : refused .simt 48 (.iadd (wd 0x09 (.vec 0 48) (.vec 0 9) (.vec 0 10) (.vec 0 0))) [.row] = true := by decide +kernel
theorem test_smoke_pair : refused .simt 64 (.maxi (wd 0x01 (.vec 0 3) (.vec 0 1) (.vec 0 4) (.vec 0 0))) [.pair] = true := by decide +kernel
theorem test_smoke_byte_select : refused .simt 64 (.bscale (wd 0x0C (.vec 0 4) (.vec 0 6) (.vec 0 7) (.small 16))) [.bsel] = true := by decide +kernel
theorem test_smoke_limit : refused .simt 64 (.icmp (wd 0x09 (.mask 1) (.vec 0 9) (.vec 0 10) (.small 8))) [.limit] = true := by decide +kernel
theorem test_smoke_place : refused (.slot .s0) 64 (.nop (wd 0 (.vec 0 0) (.vec 0 0) (.vec 0 0) (.vec 0 0))) [.place] = true := by decide +kernel
theorem test_smoke_field : refused (.slot .v0) 64 (.iadd (wd 0x29 (.vec 0 8) (.vec 0 9) (.vec 0 10) (.vec 0 0))) [.field] = true := by decide +kernel
theorem test_smoke_name : refused (.slot .v0) 64 (.iadd (wd 0x09 (.vec 1 8) (.vec 0 9) (.vec 0 10) (.vec 0 0))) [.name] = true := by decide +kernel
theorem test_smoke_event : WellFormed .leaseExpiry = false ∧ WellFormedStream .leaseExpiry = false ∧ WellFormedSlot .s0 .leaseExpiry = false := by decide +kernel
theorem test_smoke_three_literals :
    WellFormed (.iadd ⟨9, 0, 0, .vec 0 8, .vec 0 9, .lit false 0, .vec 0 0, [1, 0, 0]⟩) = false := by decide +kernel

/-! ### Small states -/

/-- Path 0 of warp 0 issues the item at 0x10000. -/
def simtCur : Cur := { party := .path 0 0 0, slot := none, pc := 0x10000, next := 0x10008, header := 0, locked := false }

/-- A core with one warp in SIMT, ready to issue, its registers as `f` leaves them. -/
def simtWith (f : Warp → Warp) : State := { (State.reset.withFetchWord 64 0xD900000000000000).modWarp 0 f with cur := some simtCur }
def simt : State := simtWith id

/-- A matrix sequencer, ready to issue. -/
def seqCur : Cur := { party := .seq 0, slot := none, pc := 0x10000, next := 0x10008, header := 0, locked := false }
def seqWith (f : Sequencer → Sequencer) : State :=
  { (State.reset.withFetchWord 64 0xC700000000000000).modCore 0 (fun c => { c with seq := c.seq.map f }) with cur := some seqCur }
def stream : State := seqWith id

/-- A VLIW thread on context 0, ready to issue an operation in a slot of a bundle with YIELD. -/
def slotCur (sl : Slot) : Cur := { party := .thread 0 0, slot := some sl, pc := 0x10000, next := 0x10010, header := 0x0800008000000000, locked := false }
def vliwWith (sl : Slot) (f : Warp → Warp) : State :=
  let s := (State.reset.withFetchWord 64 0xD900000000000000).modGroup 0 fun g => { g with mode := .dual, running := some 0 }
  { s.modWarp 0 (fun w => f { w with paths := [], vliw := some { State.vliw0 with ctx := some 0, pc := 0x10000 } }) with cur := some (slotCur sl) }
def vliw (sl : Slot) : State := vliwWith sl id

/-- Warp 0 after an instruction and once its results have landed; a fresh warp where the instruction does not complete. -/
def after (i : Instr) (s : State) : Warp := match exec i s with | .next t => (t.warp 0).landAll | _ => State.warp0

/-- A path of thread 0 alone. -/
def alone : Tbl Path := [(0, { State.path0 with pc := 0x10000, mask := 1 })]

/-- Rows 1 to 3 hold the given patterns in thread 0, the only thread of the path. -/
def withRows (a b c : Nat) (w : Warp) : Warp :=
  { w with v := [(1, BitVec.ofNat 4096 a), (2, BitVec.ofNat 4096 b), (3, BitVec.ofNat 4096 c)], paths := alone }

/-- What a step or an instruction's next state satisfies. -/
def nextIs (o : Host.Outcome State Fault Refusal) (p : State → Bool) : Bool := match o with | .next t => p t | _ => false

/-- The low `n` bits of row 4, and SATF, after an instruction that reads rows 1 to 3. -/
def value (n : Nat) (i : Instr) (a b c : Nat) : Nat × Nat :=
  let w := after i (simtWith (withRows a b c))
  ((w.v.getD 4 0).toNat % 2 ^ n, w.csr.satf.toNat)

/-- The word that reads rows 1, 2 and 3 and writes row 4. -/
def w123 (ext : BitVec 6) (two three : Bool) : IWord := wd ext (.vec 0 4) (.vec 0 1) (if two then .vec 0 2 else .vec 0 0) (if three then .vec 0 3 else .vec 0 0)

/-! ### Values worked out in the spec -/

/-- spec/05 R125, the worked set: rshr.i32. -/
theorem test_rshr :
    value 32 (.rshr (w123 9 true false)) 0xFFFFFFFB 1 0 = (0xFFFFFFFE, 0) ∧ value 32 (.rshr (w123 9 true false)) 0xFFFFFFF9 2 0 = (0xFFFFFFFE, 0) ∧
    value 32 (.rshr (w123 9 true false)) 6 2 0 = (2, 0) := by decide +kernel

/-- spec/05 R125, the worked set: idiv.i32 and irem.i32, and the case that saturates, in word scope. -/
theorem test_division :
    value 32 (.idiv (w123 0x29 true false)) 0xFFFFFFF9 2 0 = (0xFFFFFFFD, 0) ∧ value 32 (.irem (w123 0x29 true false)) 0xFFFFFFF9 2 0 = (0xFFFFFFFF, 0) ∧
    value 32 (.idiv (w123 0x29 true false)) 0x80000000 0xFFFFFFFF 0 = (0x7FFFFFFF, 1) := by decide +kernel

/-- spec/05 R125, the worked set: bfx.i32. -/
theorem test_bfx :
    value 32 (.bfx (w123 9 true false)) 0xF0A0 0x0804 0 = (0xA, 0) ∧ value 32 (.bfx (w123 9 true false)) 0xF0A0 0x0808 0 = (0xFFFFFFF0, 0) := by
  decide +kernel

/-- spec/05 R122: an add wraps; IABS of the most negative value saturates; ANDN takes b's complement; a shift by the width gives 0. -/
theorem test_integer_corners :
    value 32 (.iadd (w123 9 true false)) 0xFFFFFFFF 1 0 = (0, 0) ∧ value 32 (.iabs (w123 9 false false)) 0x80000000 0 0 = (0x7FFFFFFF, 1) ∧
    value 32 (.andn (w123 9 true false)) 0xC 0xA 0 = (4, 0) ∧ value 32 (.shl (w123 9 true false)) 1 32 0 = (0, 0) ∧
    value 32 (.rotl (w123 9 true false)) 0x80000001 33 0 = (3, 0) ∧ value 32 (.imulh (w123 9 true false)) 0xFFFFFFFF 2 0 = (0xFFFFFFFF, 0) ∧
    value 32 (.isat (w123 9 true false)) 200 8 0 = (127, 1) := by decide +kernel

/-- spec/05 R130: masks 0b1100 and 0b1010 under table 6. -/
theorem test_plog :
    let w := after (.plog (wd 0 (.mask 3) (.mask 1) (.mask 2) (.small 6))) (simtWith fun w => { w with m := [(1, 0xC), (2, 0xA)] })
    (w.mask 3).toNat % 16 = 6 := by decide +kernel

/-- spec/05 R126; spec/01 R28: a true i32 compare sets the eight granule bits of each element, here element 0 of thread 0. -/
theorem test_icmp_granules :
    let w := after (.icmp (wd 9 (.mask 1) (.vec 0 1) (.vec 0 2) (.small 2))) (simtWith (withRows 0xFFFFFFFF 0 0))
    (w.mask 1).toNat % 2 ^ 16 = 0xFF := by decide +kernel

/-- spec/06 R177: rcp.f32 of 3.0 under RNE (code 1), RU (4), RZ (2) and RD (3), and of the smallest subnormal. -/
theorem test_rcp :
    (value 32 (.rcp (w123 0x05 false false)) 0x40400000 0 0).1 = 0x3EAAAAAB ∧ (value 32 (.rcp (w123 0x09 false false)) 0x40400000 0 0).1 = 0x3EAAAAAA ∧
    value 32 (.rcp (w123 0x01 false false)) 0x00000001 0 0 = (0x7F7FFFFF, 2) := by decide +kernel

/-- spec/06 R176: maxi.f32 x8, x4, gid on a path of threads 0 to 3 holding 1.0, a NaN, 2.0 and 2.0. -/
theorem test_maxi :
    let s := simtWith fun w =>
      { w with v := [(1, 0x40000000#4096 <<< 384 ||| 0x40000000#4096 <<< 256 ||| 0x7FC00000#4096 <<< 128 ||| 0x3F800000#4096)],
               paths := [(0, { State.path0 with pc := 0x10000, mask := 0xF })] }
    let i : Instr := .maxi (wd 0x21 (.vec 0 2) (.vec 0 1) (.special 6) (.vec 0 0))
    decodeWord .simt 64 0x568400010030B000 0 = .ok i ∧ ((after i s).v.getD 2 0).toNat % 2 ^ 64 = 0x0000000240000000 := by decide +kernel

/-- spec/06 R164: bscale.bf16.f8e4 of 1.0 with scale byte 0x7D. -/
theorem test_bscale :
    let w := after (.bscale (wd 0x14 (.vec 0 4) (.vec 0 1) (.vec 0 2) (.small 0))) (simtWith (withRows 0x38 0x7D 0))
    (w.v.getD 4 0).toNat % 2 ^ 16 = 0x3E80 := by decide +kernel

/-- spec/06 R155: 1.0 + 2^-24 under RNE keeps 1.0; a fused product rounds once; -0 is the lesser zero. -/
theorem test_float_corners :
    (value 32 (.fadd (w123 1 true false)) 0x3F800000 0x33800000 0).1 = 0x3F800000 ∧
    (value 32 (.ffma (w123 1 true true)) 0x3F800001 0x3F800001 0xBF800002).1 = 0x28800000 ∧
    (value 32 (.fmin (w123 1 true false)) 0 0x80000000 0).1 = 0x80000000 := by decide +kernel

/-- spec/08 R236: trn.n16 v10.1, v3.1 with 16j + i in element i of lane j. -/
theorem test_trn :
    let row := (List.range 8).foldl (fun x j => x + (List.range 8).foldl (fun y i => y + (16 * j + i) * 2 ^ (128 * (8 + j) + 16 * i)) 0) 0
    let w := after (.trn (wd 0x0F (.vec 1 10) (.vec 1 3) (.vec 0 0) (.vec 0 0))) (vliwWith .t fun w => { w with v := [(3, BitVec.ofNat 4096 row)] })
    (w.v.getD 10 0).toNat / 2 ^ (128 * 10) % 2 ^ 64 = 0x0032002200120002 := by decide +kernel

/-- spec/02 R63; spec/08 R238: SETSR clears the flags written as ones and sets ARM. -/
theorem test_satf_write : satfWrite 0xF 0x8000000000000003 = 0x800000000000000C := by decide +kernel

/-- spec/07 R192: a store of 16 bytes a lane from the whole slot; the bytes lie at the lane's address, little-endian. -/
theorem test_sts :
    let s := simtWith fun w => { w with s := [(6, 64)], v := [(3, 0x0102030405060708090A0B0C0D0E0F10)], paths := alone }
    nextIs (exec (.sts (wd 0x30 (.vec 0 0) (.small 0) (.sreg 6) (.vec 0 3))) s) (fun t =>
      (t.core 0).sByte 64 == 0x10 && (t.core 0).sByte 79 == 0x01 && (t.core 0).sByte 80 == 0) = true := by decide +kernel

/-- spec/05 R143, R144: LOOP.push enters the loop with COUNT and stage mask 8. -/
theorem test_loop_push :
    let w := after (.loopPush (wd 0x05 (.vec 0 0) (.small 3) (.small 4) (.vec 0 0))) (vliw .s0)
    (w.vliw.map fun x => (x.loops.map fun l => (l.start, l.last, l.count, l.epi), x.pc)) = some ([(0x10010, 0x10020, 3, 1)], 0x10010) ∧
    w.mask 8 = BitVec.allOnes 1024 := by decide +kernel

/-- spec/05 R136: BRA taken by threads 0 and 1 only, as their predicate says. -/
theorem test_branch_splits :
    let w := after (.bra ⟨1, 0, 1, .vec 0 0, .small 3, .small 4, .vec 0 0, []⟩) (simtWith fun w => { w with m := [(1, 0x0000000100000001)] })
    (w.paths.map fun p => (p.1, p.2.pc, p.2.mask, p.2.rpc)) = [(0, 0x10008, 0xFFFFFFFC, some 0x10020), (1, 0x10018, 3, some 0x10020)] := by decide +kernel

/-- A step from the loaded state: CLK issues, its result is in flight, and the path stands after it (spec/08 R239; spec/03 R86). -/
theorem test_step :
    nextIs (step (State.reset.withFetchWord 64 0xE700008380000000)) (fun t =>
      (t.warp 0).inflight.length == 1 && (t.warp 0).paths.map (fun p => p.2.pc) == [0x10008] && (t.warp 0).committed == 1) = true := by decide +kernel

/-! ### Witnesses: states and operands that meet the hypotheses of the statements -/

/-- An instruction issues freely in a state. -/
def freeIn (i : Instr) (c : Cur) (s : State) : Bool := match instrParts i with | some (op, w) => free op w c s | none => false

/-- A row's instruction issues freely in the small state of its view. -/
def Written.free (r : Written) : Bool :=
  match r.v with
  | .simt => freeIn r.i simtCur simt
  | .stream => freeIn r.i seqCur stream
  | .slot sl => freeIn r.i (slotCur sl) (vliw sl)

/-- Nothing of the general checks stands before the word of an instruction, and a condition on what it sees holds. -/
def meets (i : Instr) (c : Cur) (s : State) (ready : IWord → Env → State → Bool) : Bool :=
  match instrParts i with
  | some (op, w) => free op w c s && ready w (opEnv op w c s) s
  | none => false

theorem witness_DecodeOfEncodeIsIdentity :
    (written.filter fun r => !r.v.inSlot).all (fun r => legalIn r.v 64 r.i) = true ∧
    legalIn .simt 64 (.mov ⟨0x0D, 15, 31, .sreg 63, .lit true 0, .vec 0 0, .vec 0 0, [0xFFFFFFFF, 0xFFFFFFFF]⟩) = true ∧
    legalIn .simt 1 (.iadd (wd 0x29 (.vec 3 0) (.vec 0 0) (.special 7) (.vec 0 0))) = true := by decide +kernel

theorem witness_DecodeOfEncodeInSlotIsIdentity :
    (written.filter fun r => r.v.inSlot).all (fun r => legalIn r.v 64 r.i) = true ∧
    legalIn (.slot .v3) 64 (.iadd ⟨9, 0, 0, .vec 3 63, .vec 3 0, .lit false 1, .vec 0 0, [1, 2]⟩) = true := by decide +kernel

theorem witness_IntegerFormsFollowTheTable : integerRows.all Written.free = true := by decide +kernel

theorem witness_DivisionFollowsItsTable :
    Ty.i4.isInt = true ∧ (7 : Nat) < 2 ^ Ty.i4.width ∧ (tyVal .i4 2 ≠ 0 ∧ ¬(tyVal .i4 7 = intMin true 4 ∧ tyVal .i4 2 = -1)) := by decide +kernel

theorem witness_FieldAndMoveForms : (integerRows.filter fun r => 0x16 ≤ r.op).all Written.free = true := by decide +kernel
theorem witness_WrappingIsModularArithmetic : Ty.i64.isInt = true ∧ Ty.n4.isInt = true ∧ Ty.i64.isSigned = true ∧ Ty.n4.isSigned = false := by decide +kernel
theorem witness_ComparesWriteTruth : (maskRows.take 3).all Written.free = true := by decide +kernel
theorem witness_SelectTakesAWhereTheMaskIsSet : (maskRows.filter fun r => r.op == 0x23).all Written.free = true := by decide +kernel

theorem witness_MaskLogicAndMoves :
    (maskRows.filter fun r => 0x24 ≤ r.op && r.op ≤ 0x25).all Written.free = true ∧
    (opEnv 0x24 (wd 0 (.mask 3) (.mask 1) (.mask 2) (.small 8)) simtCur simt).view.inSlot = false ∧
    (opEnv 0x24 (wd 0 (.mask 3) (.mask 1) (.mask 2) (.small 8)) (slotCur .p) (vliw .p)).view.inSlot = true := by decide +kernel

theorem witness_MaskCountsSeeTheCandidates : (maskRows.filter fun r => 0x26 ≤ r.op).all Written.free = true := by decide +kernel
theorem witness_FloatFormsComplete : (floatRows.filter fun r => r.op ≤ 0x3B).all Written.free = true := by decide +kernel

/-- The smallest and the largest finite value of f32, and of f4e2. -/
theorem witness_RoundingAndOrderOfFloats_value :
    fDecode .f32 1 = .fin false 1 (-149) ∧ fDecode .f32 0x7F7FFFFF = .fin false 0xFFFFFF 104 ∧ fDecode .f4e2 7 = .fin false 3 1 := by decide +kernel

theorem witness_RoundingAndOrderOfFloats_order : isNaN .f16 0x3C00 = false ∧ isNaN .f16 0x7E00 = true ∧ (0xFFFF : Nat) < 2 ^ Fmt.f16.width := by decide +kernel
theorem witness_ConversionsComplete : (floatRows.filter fun r => 0x40 ≤ r.op).all Written.free = true ∧ ∀ j : Nat, j % 64 < 64 := by
  exact ⟨by decide +kernel, fun j => Nat.mod_lt _ (by decide)⟩
theorem witness_LaneMovesComplete : (laneRows.filter fun r => r.op ≤ 0x54 || r.op == 0x59).all Written.free = true := by decide +kernel

theorem witness_ReductionsComplete :
    (laneRows.filter fun r => 0x55 ≤ r.op && r.op ≤ 0x58).all Written.free = true ∧
    (tree .i32 0 .rne (fun _ => 0) (fun l => ((fun n => if n = 1 then some 5 else none) l).map fun x => (x, 0)) 2 0).isSome = true := by decide +kernel

theorem witness_FunctionsAndTransposesComplete :
    (laneRows.filter fun r => (0x60 ≤ r.op && r.op ≤ 0x69 && r.op != 0x68) || 0xCA ≤ r.op).all Written.free = true ∧
    ((simt.core 0).sft.all fun x => x.bank != 0) = true := by decide +kernel

theorem witness_MemoryReadsWhatWasWritten :
    Memory.wf [] = true ∧ Memory.wf (memPut [] 5 7) = true ∧ (255 : Nat) < 2 ^ (8 * 1) := by decide +kernel

theorem witness_MemoryStaysCanonical :
    Memory.wf (State.reset.withFetchWord 64 0xE700008380000000).mem = true ∧ (State.reset.withFetchWord 64 0xE700008380000000).mem ≠ [] ∧
    nextIs (step (State.reset.withFetchWord 64 0xE700008380000000)) (fun _ => true) = true := by decide +kernel

/-- A result of 32 bits in flight for row 4, for s5 and for mask 2. -/
def flying (r : RegId) (due : Nat) : InFlight := { reg := r, value := 7, bits := 0xFFFFFFFF, due := due, spec := 0, bank := none, reads := [], born := 0 }
def landing : State := simtWith fun w => { w with inflight := [flying (.v 4 1) 0, flying (.s 5) 0, flying (.m 2) 9] }

theorem witness_ResultsLandInTheirBits :
    (landing.warps.get? (slotKey 0 0)).isSome = true ∧ (flying (.v 4 1) 0).reg = .v 4 1 ∧ (flying (.s 5) 0).reg = .s 5 ∧ (flying (.m 2) 0).reg = .m 2 ∧
    nextIs (exec (.fixedLatencyResult 0 0) landing) (fun t =>
      (t.warp 0).inflight.length == 1 && ((t.warp 0).v.getD 4 0) == 7 && ((t.warp 0).s.getD 5 0) == 7) = true := by decide +kernel

/-- A service context, ready to issue an operation in slot S0. -/
def serviceCur : Cur := { party := .service 0, slot := some .s0, pc := 0x200, next := 0x210, header := 0x0800000000000000, locked := true }
def service : State :=
  { ((State.reset.withFetchWord 64 0xD900000000000000).modGroup 0 fun g => { g with service := some 0 }).setWarp (serviceKey 0)
      { State.warp0 with vliw := some { State.vliw0 with pc := 0x200, locked := true } } with cur := some serviceCur }

theorem witness_IssueMovesOn :
    freeIn (.clk (wd 0 (.sreg 7) (.vec 0 0) (.vec 0 0) (.vec 0 0))) simtCur simt = true ∧
    freeIn (.clk (wd 0 (.sreg 7) (.vec 0 0) (.vec 0 0) (.vec 0 0))) (slotCur .s1) (vliw .s1) = true ∧
    freeIn (.clk (wd 0 (.sreg 7) (.vec 0 0) (.vec 0 0) (.vec 0 0))) serviceCur service = true ∧
    freeIn (.mov (wd 0x0D (.sreg 5) (.small 3) (.vec 0 0) (.vec 0 0))) seqCur stream = true ∧
    (simt.warps.get? 0).isSome = true ∧ ((vliw .s1).warp 0).vliw.isSome = true ∧ (service.warp (serviceKey 0)).vliw.isSome = true ∧
    (stream.core 0).seq.isSome = true := by decide +kernel

theorem witness_ComputeFormsFrame :
    ((integerRows ++ maskRows ++ floatRows ++ laneRows.filter fun r => r.op != 0x67 && r.op != 0x68).all fun r =>
      let (c, s) : Cur × State := match r.v with | .simt => (simtCur, simt) | .stream => (seqCur, stream) | .slot sl => (slotCur sl, vliw sl)
      r.free && (match instrParts r.i with | some (op, w) => ((opEnv op w c s).w.vliw.map fun x => x.loops).getD [] == [] | none => false) &&
        nextIs (exec r.i s) (fun _ => true)) = true := by decide +kernel

theorem witness_ResultsFallDue :
    (opEnv 0 (wd 9 (.vec 0 8) (.vec 0 9) (.vec 0 10) (.vec 0 0)) simtCur simt).party = .path 0 0 0 ∧ (simt.warps.get? 0).isSome = true ∧ (1 : Nat) < 16 := by
  decide +kernel

/-- The path's word with its literal, at the next step. -/
def wordState : State := State.reset.withFetchWord 128 (0x1934008370000001 + 0x2000 * 2 ^ 64)

/-- Loaded words run at the next step: one of SIMT, one of the matrix engine, one that only a slot admits. -/
theorem test_loaded_words :
    decodeTableWord 64 0xCA3C002508600000 = some (.trn (wd 0x0F (.vec 1 10) (.vec 1 3) (.vec 0 0) (.vec 0 0))) ∧
    nextIs (step (State.reset.withFetchWord 64 0xCA3C002508600000)) (fun t =>
      (t.warp 0).inflight.length == 1 && (t.warp 0).committed == 1 && ((t.warp 0).vliw.map fun x => x.pc) == some 0x10010) = true ∧
    nextIs (step (State.reset.withFetchWord 64 0xC308000020986606)) (fun t => (t.core 0).engine.queue.length == 1) = true ∧
    nextIs (step (State.reset.withFetchWord 64 0xD804000000000000)) (fun t => (t.warp 0).vliw.isNone && (t.warp 0).paths.length == 1) = true := by
  decide +kernel

theorem witness_StepRunsTheDecodedWord_path :
    wordState.agenda = [.issue (.path 0 0 0)] ∧ strictDue wordState = none ∧ wordState.ready = true ∧ mayTry wordState (.path 0 0 0) = true ∧
    breakpoint wordState 0 0x10000 none .simt = none ∧ ((wordState.warp 0).paths.get? 0).isSome = true ∧
    (match fetchAt { wordState with agenda := [] } 0 0 false 0x10000 8 with
     | .ok t a => wBit (BitVec.ofNat 64 a) && (match fetchAt t 0 0 false 0x10008 8 with
       | .ok t2 b => match decodeWord .simt 64 (BitVec.ofNat 64 a) (BitVec.ofNat 64 b) with
         | .ok i => nextIs (exec i (t2.begin (.path 0 0 0) none 0x10000 0x10010 0 false)) (fun _ => true)
         | .bad _ => false
       | _ => false)
     | _ => false) = true := by decide +kernel

theorem witness_StepRunsTheDecodedWord_sequencer :
    let s := State.reset.withFetchWord 64 0xC700000000000000
    s.agenda = [.issue (.seq 0)] ∧ strictDue s = none ∧ s.ready = true ∧ mayTry s (.seq 0) = true ∧ (s.core 0).seq.isSome = true ∧
    (match fetchAt { s with agenda := [] } 0 0 false 0x10000 8 with
     | .ok t a => !wBit (BitVec.ofNat 64 a) && (match decodeWord .stream 64 (BitVec.ofNat 64 a) 0 with
         | .ok i => nextIs (exec i (t.begin (.seq 0) none 0x10000 0x10008 0 false)) (fun _ => true)
         | .bad _ => false)
     | _ => false) = true := by decide +kernel

/-- A bundle of one operation, CLK in S1, in memory at the context's address. -/
def bundleHeader : Word64 := 0x0400000000000000
def bundleState : State := { (vliw .s0).poke 0x10000 16 (0x0400000000000000 + 0xE700008380000000 * 2 ^ 64) with cur := some (slotCur .s0) }

theorem witness_BundlesRunTheirOperations :
    (match fetchAt bundleState 0 0 false 0x10000 8 with
     | .ok t h => h == bundleHeader.toNat && (breakpoint t 0 0x10000 none (.bundle 0)).isNone && (match fetchAt t 0 0 false 0x10008 8 with
       | .ok _ v => v == 0xE700008380000000
       | _ => false)
     | _ => false) = true ∧
    (headerOf bundleHeader).kind = 0 ∧ (presentSlots (headerOf bundleHeader).present).length = 1 ∧
    bundleBad 0x10000 ((bundleState.env (slotCur .s0)).w.rows) ⟨bundleHeader, [0xE700008380000000], []⟩ = [] ∧
    bundleState.stream (.thread 0 0) ≠ .secondary ∧
    nextIs (exec (.bundleIssue bundleHeader [0xE700008380000000] []) bundleState) (fun t => (t.warp 0).inflight.length == 1) = true := by decide +kernel

/-- No breakpoint stops the bundle of that witness, whatever the item. -/
theorem witness_BundlesRunTheirOperations_breaks : ∀ k, breakpoint bundleState 0 0x10000 none k = none := by
  have h : bundleState.attached (0 / 2) = false := by decide +kernel
  intro k; unfold breakpoint; rw [h]; rfl

theorem witness_EmptyItemsComplete :
    let c := slotCur .s0
    let s := vliw .s0
    s.cur = some c ∧ (s.env c).decisions s = 0 ∧ s.misfit c.party ⟨0, 0, []⟩ = false ∧ bundleBad c.pc (s.env c).w.rows ⟨0, [], []⟩ = [] ∧
    s.stream c.party ≠ .secondary ∧ ((s.warp 0).vliw.map fun v => v.loops) = some [] ∧ headerBad 0x1000040000000000 = false ∧
    (headerOf 0x1000040000000000).kind = 1 ∧ runCount 0x1000040000000000 = 5 ∧ runCount 0x1000000000000000 = 1 := by decide +kernel

/-- A loop at its last bundle, with COUNT 2, and one at the end of its last run. -/
def looping (count epi : Nat) : State :=
  vliwWith .s0 fun w => { w with vliw := w.vliw.map fun x =>
    { x with loops := [{ start := 0x10000, last := 0x10000, count := count, pro := 1, epi := epi, stages := 2, iter := 0 }] } }

theorem witness_LoopBodyEnds :
    ((looping 2 1).warp 0).vliw.map (fun x => (x.jumped, x.loops.map (·.last))) = some (false, [0x10000]) ∧
    (((loopEnd (looping 2 1) 0 0x10000 1 (· + 8)).warp 0).vliw.map fun x => (x.pc, x.loops.map (·.count))) = some (0x10000, [1]) ∧
    (((loopEnd (looping 1 0) 0 0x10000 1 (· + 8)).warp 0).vliw.map fun x => (x.pc, x.loops.map (·.count))) = some (0x10008, []) ∧
    loopEnd (looping 2 1) 0 0x10008 1 (· + 8) = looping 2 1 := by decide +kernel

theorem witness_OtherFormsKeepRegistersAndMemory :
    (∀ p k, logOn State.reset p k = false) ∧ ∃ w m, semOf (.nop w) = some m := by
  exact ⟨fun _ _ => rfl, ⟨0, 0, 0, .vec 0 0, .vec 0 0, .vec 0 0, .vec 0 0, []⟩, _, rfl⟩
/-- What holds of every entry of a table holds of what is found in it. -/
theorem found {α : Type} (t : Tbl α) (p : Nat → α → Bool) (h : t.all (fun kv => p kv.1 kv.2) = true) (k : Nat) (x : α) (g : t.get? k = some x) :
    p k x = true := by
  induction t with
  | nil => simp [Tbl.get?] at g
  | cons a r ih =>
    obtain ⟨j, y⟩ := a
    simp only [List.all_cons, Bool.and_eq_true] at h
    simp only [Tbl.get?] at g
    split at g
    · next e => obtain rfl := Option.some.inj g; exact e ▸ h.1
    · exact ih h.2 g

/-- Where no partition of the table has a log buffer, no log is on. -/
theorem no_log (s : State) (h : s.parts.all (fun kv => kv.2.logs.isEmpty) = true) (p k : Nat) : logOn s p k = false := by
  have e : (s.part p).logs = [] := by
    unfold State.part Tbl.getD
    cases g : s.parts.get? p with
    | none => rfl
    | some x => exact List.isEmpty_iff.mp (found s.parts (fun _ x => x.logs.isEmpty) h p x g)
  unfold logOn; rw [e]; rfl

/-- A core whose L1 lines are as their homes, with an empty pipeline, sees memory as it is. -/
theorem sees (s : State) (c : Nat) (h : (s.core c).l1.all (fun kv => kv.2.data == homeLine s kv.1) = true) (p : pipeline s c = []) : seesMemory s c :=
  ⟨fun l x g => eq_of_beq (found _ (fun k x => x.data == homeLine s k) h l x g), p⟩

/-- A condition on the state an instruction answers. -/
def done (i : Instr) (s : State) : State := match exec i s with | .next t => t | _ => s

/-- Core 0 also translates 64 KiB at 0x200000 to a physical address, for reading and writing. -/
def mapped (pa : Nat) (s : State) : State :=
  s.modCore 0 fun c => { c with tlb := { partition := 0, va := 0x200000, size := 65536, pa := pa, r := true, w := true, x := false, cow := false, cache := 0 } :: c.tlb }

/-- Registers s4 to s10 hold an address. -/
def pointing (a : Nat) (w : Warp) : Warp := { w with s := (List.range 7).map fun i => (4 + i, BitVec.ofNat 64 a) }

/-- A state whose locked instruction store has a handler of ILLOP in both views. -/
def handlers (s : State) : State := s.modCore 0 fun c => { c with locked := BitVec.ofNat 131072 ((2 ^ 63 + 2 ^ 62 + 0x500 * 2 ^ 32 + 0x400) * 2 ^ 64) }

theorem witness_HandledTrapsEnterTheHandler :
    handlerEntry ((handlers simt).core 0) causeILLOP false = some 0x400 ∧ handlerEntry ((handlers simt).core 0) causeILLOP true = some 0x500 ∧
    ((handlers simt).warp 0).handler = none ∧ (((handlers simt).warp 0).paths.get? 0).isSome = true ∧ ((handlers (vliw .s0)).warp 0).vliw.isSome = true ∧
    handlerEntry ((handlers simt).core 0) 0 false = none := by decide +kernel

theorem witness_OtherTrapsDiscard :
    (simt.partyPart (.path 0 0 0) < Config.partitions ∧ handlerEntry (simt.core 0) causeILLOP false = none ∧ (simt.warp 0).handler = none) ∧
    ((vliw .s0).partyPart (.thread 0 0) < Config.partitions ∧ handlerEntry ((vliw .s0).core 0) causeILLOP true = none) ∧
    stream.partyPart (.seq 0) < Config.partitions ∧ service.partyPart (.service 0) < Config.partitions := by decide +kernel

/-- With PRED 1 the predicate is mask 1, which is zero here. -/
theorem witness_SoftwareTrapsAreRaised :
    ((systemRows.filter fun r => r.op == 0xE2 || r.op == 0xE4 || r.op == 0xE5).all fun r =>
      meets r.i simtCur simt (fun w e _ => e.scalarPred w)) = true ∧
    ([(Instr.trap ⟨0, 0, 1, .vec 0 0, .small 6, .sreg 9, .vec 0 0, []⟩), .svc ⟨0, 0, 1, .vec 0 0, .small 9, .vec 0 0, .vec 0 0, []⟩,
      .bkpt ⟨0, 0, 1, .vec 0 0, .small 9, .vec 0 0, .vec 0 0, []⟩].all fun i => meets i simtCur simt (fun w e _ => !e.scalarPred w)) = true := by
  decide +kernel

/-- A path in its handler, TRAPREC1 holding 0x10000. -/
def inHandler : State :=
  let s := simtWith fun w => { w with handler := some 0, csr := { w.csr with rec1 := 0x10000 }, paths := w.paths.mapVals fun _ p => { p with locked := true, pc := 0x400 } }
  { s with cur := some { simtCur with pc := 0x400, next := 0x408, locked := true } }

theorem witness_ReturnsFromHandlers :
    let c : Cur := { simtCur with pc := 0x400, next := 0x408, locked := true }
    meets (.tretRetry (wd 0 (.vec 0 0) (.vec 0 0) (.vec 0 0) (.vec 0 0))) c inHandler (fun _ e s => e.locked &&
      (match tretTarget false e s with | .to _ _ => true | _ => false) && traceRoom e s 1) = true ∧
    meets (.tretNext (wd 1 (.vec 0 0) (.vec 0 0) (.vec 0 0) (.vec 0 0))) c inHandler (fun _ e s => e.locked &&
      (match tretTarget true e s with | .to _ _ => true | _ => false) && traceRoom e s 1) = true ∧
    (inHandler.warps.get? 0).isSome = true ∧ ((inHandler.warp 0).paths.get? 0).isSome = true ∧
    (match fetchCode inHandler 0 0 0x10000 8 with | .ok _ _ => true | _ => false) = true ∧ ((vliw .s0).warp 0).vliw.isSome = true := by decide +kernel

/-- A warp in LP mode. -/
def lpMode (w : Warp) : Warp := { w with lp := some { ret := 0x20000, base := 0x10000, words := 16, record := 0x200000, window := 0, windowLen := 1024, taken := 0 } }

theorem witness_ForbiddenWordsTrap :
    (let s := State.reset.withFetchWord 64 0xF000000000000000
     (match fetchAt s 0 0 false 0x10000 8 with
      | .ok _ x => x % 2 == 0 && decide (decodeWord .simt 64 (BitVec.ofNat 64 x) 0 = .bad [.opcode])
      | _ => false)) = true ∧
    (let e := opEnv 0xD5 (wd 0 (.vec 0 0) (.vec 0 0) (.vec 0 0) (.vec 0 0)) simtCur (simtWith lpMode)
     e.view = .simt ∧ e.locked = false ∧ e.w.lp.isSome = true ∧ lpAllows 0xD5 = false) ∧
    (let e := opEnv 0xC7 (wd 0 (.vec 0 0) (.vec 0 0) (.vec 0 0) (.vec 0 0)) simtCur simt
     e.view = .simt ∧ e.locked = false ∧ e.w.lp.isSome = false ∧ roleAllows e.w.role e.view 0xC7 (wd 0 (.vec 0 0) (.vec 0 0) (.vec 0 0) (.vec 0 0)) = false) ∧
    (opEnv 0xE3 (wd 0 (.vec 0 0) (.vec 0 0) (.vec 0 0) (.vec 0 0)) { simtCur with locked := true } inHandler).locked = true ∧
    lowestCode [.row, .ext, .place] = 2 := by decide +kernel

/-- Ranges at the end of the region of 384 KiB, and of a logit program's window. -/
theorem witness_ScratchpadFormsComplete :
    let far := simtWith (pointing 393200)
    meets (.lds (wd 0x30 (.vec 0 4) (.sreg 6) (.small 0) (.vec 0 0))) simtCur far (fun w e s => scratchReady e s (ldsRanges 0x70 w e) true false) = true ∧
    meets (.lds (wd 0x31 (.vec 0 4) (.sreg 6) (.small 0) (.vec 0 0))) simtCur (simtWith fun w => lpMode (pointing 1008 w))
      (fun w e s => scratchReady e s (ldsRanges 0x70 w e) true false) = true ∧
    meets (.sts (wd 0x31 (.vec 0 0) (.small 0) (.sreg 6) (.vec 0 3))) simtCur far (fun w e s => scratchReady e s (ldsRanges 0x71 w e) true true && !releaseWaits s e.party 2) = true ∧
    meets (.ldsx (wd 0 (.vec 0 4) (.small 0) (.sreg 0) (.vec 0 0))) simtCur far (fun w e s => scratchReady e s (ldsxRanges 0x72 w e) false false) = true ∧
    meets (.stsx (wd 1 (.vec 0 0) (.small 0) (.sreg 0) (.vec 0 3))) simtCur far
      (fun w e s => scratchReady e s (ldsxRanges 0x73 w e) false true && !releaseWaits s e.party 2) = true ∧
    meets (.feset (wd 0 (.vec 0 0) (.sreg 6) (.small 0) (.small 16))) simtCur far (fun w e s => scratchReady e s (feRange w e) false true && !releaseWaits s e.party 2) = true ∧
    meets (.feclr (wd 0 (.vec 0 0) (.sreg 6) (.small 0) (.small 16))) simtCur far (fun w e s => scratchReady e s (feRange w e) false true) = true := by decide +kernel

/-- The effects of the scratchpad stores are stated for every state; here they store, torn where the agenda says so, and the loads find their bytes. -/
theorem witness_ScratchpadFormsMoveTheirBytes :
    let w := wd 0x31 (.vec 0 0) (.small 0) (.sreg 6) (.vec 0 3)
    let s := simtWith fun x => { pointing 64 x with paths := alone, v := [(3, 5)] }
    let e := opEnv 0x71 w simtCur s
    ldsRanges 0x71 w e = [(64, 16)] ∧ s.torn = false ∧ (((stsEff w e s).core 0).full.getD 4 false) = true ∧ (((stsEff w e s).core 0).sByte 64) = 5 ∧
    (let w := wd 0x30 (.vec 0 0) (.small 0) (.sreg 6) (.vec 0 3)
     let s : State := { s with torn := true }
     let e := opEnv 0x71 w simtCur s
     e.memLanes 0x71 w = [0] ∧ (stsEff w e s).accs.map (fun x => x.lanes.map fun y => (y.addr, y.size, y.data)) = [[(64, 16, 5)]]) ∧
    (let w := wd 1 (.vec 0 0) (.small 4) (.sreg 0) (.vec 0 3)
     let e := opEnv 0x73 w simtCur s
     (((stsxEff w e s).core 0).sByte 0) = 5 ∧ ((stsxEff w e s).core 0).full.getD 0 false = true) ∧
    (let w := wd 0x20 (.vec 3 4) (.small 0) (.small 0) (.vec 0 0)
     let e := opEnv 0x70 w simtCur s
     (s.warps.get? e.key).isSome = true ∧ 32 * 3 + sizeRow 4 ≤ 128 ∧ ((ldsEff w e s).warp e.key).inflight.length = 1) ∧
    (let w := wd 0x20 (.sreg 3) (.small 0) (.small 0) (.vec 0 0)
     let e := opEnv 0x70 w simtCur s
     e.memLanes 0x70 w = [0] ∧ ((ldsEff w e s).warp e.key).inflight.length = 1) ∧
    (let w := wd 0x20 (.vec 0 4) (.small 0) (.sreg 0) (.vec 0 0)
     let e := opEnv 0x72 w simtCur s
     ((ldsxEff w e s).warp e.key).inflight.length = 4) ∧ 0 < 2 ∧ 8 * 2 ≤ 32 ∧ 0xFFFF < 2 ^ (8 * 2) := by decide +kernel

/-- The page of the program is read, and 0x200000 stands for near memory. -/
def mem : State := mapped 0x400000 (simtWith fun w => { pointing 0x200000 w with paths := alone })

theorem witness_GlobalAccessesIssue :
    meets (.ld (wd 0x20 (.vec 0 4) (.sreg 6) (.small 0) (.vec 0 0))) simtCur mem (fun w e s => accessReady e s (ldAccess w e s)) = true ∧
    meets (.st (wd 0x20 (.vec 0 0) (.sreg 6) (.small 8) (.sreg 7))) simtCur mem (fun w e s => accessReady e s (stAccess w e s)) = true ∧
    meets (.ldb (wd 0 (.vec 0 4) (.small 2) (.sreg 6) (.vec 0 0))) simtCur mem (fun w e s => accessReady e s (ldbAccess w e s)) = true ∧
    meets (.stb (wd 0 (.vec 0 0) (.small 2) (.sreg 6) (.vec 0 4))) simtCur mem (fun w e s => accessReady e s (stbAccess w e s)) = true ∧
    meets (.atom (wd 0x20 (.sreg 3) (.sreg 6) (.small 0) (.small 1))) simtCur mem (fun w e s => accessReady e s (atomAcc w e s)) = true ∧
    meets (.atom (wd 0x00 (.sreg 3) (.small 16) (.small 0) (.small 1))) simtCur mem
      (fun w e s => scratchReady e s ((e.memLanes 0x90 w).map fun t => (roundDown (e.scratchAddr w t) 4, 4)) false true) = true ∧
    meets (.cas (wd 0x20 (.vec 0 3) (.sreg 6) (.small 0) (.vec 0 4))) simtCur mem (fun w e s => accessReady e s (casAcc w e s)) = true ∧
    meets (.cas (wd 0x10 (.vec 0 2) (.small 16) (.small 0) (.vec 0 4))) simtCur mem
      (fun w e s => scratchReady e s ((e.memLanes 0x91 w).map fun t => (roundDown (e.scratchAddr w t) 8, 8)) false true) = true ∧
    meets (.sftload (wd 0 (.vec 0 0) (.sreg 4) (.small 0) (.small 1))) simtCur mem (fun w e s => accessReady e s (sftAccess w e s)) = true := by decide +kernel

theorem witness_GlobalAccessesIssue_load :
    let w := wd 0x20 (.vec 0 4) (.sreg 6) (.small 0) (.vec 0 0)
    let e := opEnv 0x80 w simtCur mem
    let a := ldAccess w e mem
    a.kind = .load false ∧ a.lanes ≠ [] ∧ a.scratch = false ∧ a.counted = false ∧ a.reserved1 = false ∧ logOn mem a.partition 1 = false ∧
    logOn mem a.partition 2 = false ∧ (mem.core a.core).replay = [] ∧
    (match translate mem a.core a.partition .read (a.spans.getD []) with
     | .ok pages => ((a.spans.getD []).findSome? fun x => rangeTrap (mem.routesAt mem.serial) .ld pages x.1 x.2).isNone
     | _ => false) = true := by decide +kernel

theorem witness_GlobalAccessesIssue_debugger : ∀ c, mem.attached c = false := by
  intro c
  have h : mem.cores = [(0, mem.core 0)] := by decide +kernel
  have k : (mem.core 0).dbg.dctl = 0 := by decide +kernel
  unfold State.attached State.core
  rw [h]
  by_cases hc : 0 = c
  · subst hc; simp [Tbl.getD, Tbl.get?, k]
  · simp [Tbl.getD, Tbl.get?, hc, State.core0]

theorem witness_CacheFormsAndFencesComplete :
    ((memoryRows.filter fun r => r.op == 0x84 || r.op == 0x85).all fun r => meets r.i simtCur mem
      (fun w e s => e.scalarPred w && (cacheLanes 0x84 w e s).all fun x => !inRefresh s x.1)) = true ∧
    ([0x00, 0x0A, 0x14, 0x24].all fun x => meets (.fence (wd x (.vec 0 0) (.vec 0 0) (.vec 0 0) (.vec 0 0))) simtCur mem
      (fun w e s => !fenceWaits s e.party (bits w.ext.toNat 1 3 + 1) && !s.anyAcc e.party (·.returnsValue))) = true := by decide +kernel

/-- The access that an instruction issued may be performed by the event of its kind. -/
def mayPerform (s : State) (n : Nat) : Bool :=
  match s.acc? n with
  | some a => a.sent == none && a.performable s && (s.part a.partition).discarding.isNone && (match performAccess s a with | .ok _ => true | _ => false)
  | none => false

def loaded : State := done (.ld (wd 0x20 (.vec 0 4) (.sreg 6) (.small 0) (.vec 0 0))) mem
def stored : State := done (.st (wd 0x20 (.vec 0 0) (.sreg 6) (.small 8) (.sreg 7))) mem
def added : State := done (.atom (wd 0x20 (.sreg 3) (.sreg 6) (.small 0) (.small 1))) mem
def taken : State :=
  done (.lds (wd 0x31 (.vec 0 4) (.small 32) (.small 0) (.vec 0 0))) (mem.modCore 0 fun c => { c with full := [(2, true)] })
def tableLoad : State := done (.sftload (wd 0 (.vec 0 0) (.sreg 4) (.small 0) (.small 1))) mem
/-- A store to peer memory that has left. -/
def peerStore : State :=
  let s := mapped (2 ^ 45) (simtWith fun w => { pointing 0x200000 w with paths := alone })
  let s := done (.st (wd 0x20 (.vec 0 0) (.sreg 6) (.small 8) (.sreg 7))) { s with host := { s.host with routes := [(0, 0x8000000000000000)] } }
  { s with accs := s.accs.map fun a => { a with sent := some 0 }, ccnt := 30000000 }

theorem witness_AccessEventsComplete :
    (mayPerform loaded 0 ∧ (loaded.acc? 0).any (fun a => a.returnsValue && !a.special loaded)) ∧
    (mayPerform stored 0 ∧ (stored.acc? 0).any (fun a => !a.returnsValue && !a.special stored)) ∧
    (mayPerform taken 0 ∧ taken.accs.length = 1 ∧ (taken.acc? 0).any (fun a => a.kind == .take false &&
      (granulesOf (a.spans.getD [])).all fun g => (taken.core a.core).full.getD g false)) ∧
    (mayPerform tableLoad 0 ∧ (tableLoad.core 0).sft.length = 1 ∧ (tableLoad.core 0).sft.all (fun x => sftReady tableLoad 0 x && x.access == 0)) ∧
    (peerStore.acc? 0).any (fun a => a.sent == some 0 && a.spans.isSome && decide (0 + 30000000 ≤ peerStore.ccnt)) = true ∧
    (let early := { peerStore with ccnt := 29999999 }; early.ccnt < 0 + 30000000 ∧ (early.acc? 0).any (fun a => a.sent == some 0 && a.lanes.any a.peerLane) = true) := by decide +kernel

/-- A plain record of 16 elements of i32 at 0x200100, at 0x200000, is record 2 of the launch, and an LDB of its element 1 has issued. -/
def elementLoad : State :=
  let s := (mem.modWarp 0 fun w => { w with s := [(6, 1)] }).modLaunch 0 fun l => { l with record := l.record ||| (0x200000#1024 <<< 256) }
  let r := 0x200100 + 16 * 2 ^ 57 + 2 ^ 89 + 2 ^ 109 + 2 ^ 129 + 9 * 2 ^ 257 + 9 * 2 ^ 262 + 2 * 2 ^ 275
  done (.ldb (wd 0 (.vec 0 4) (.small 2) (.sreg 6) (.vec 0 0))) ((s.poke 0x400050 40 r).poke 0x400104 4 0x01020304)

/-- The bytes of an access. -/
def pasOf (a : Access) : List Nat := a.pas.flatMap fun x => (List.range x.2).map (x.1 + ·)

theorem witness_GlobalAccessesMoveTheirBytes :
    (stored.acc? 0).any (fun a => a.kind == .store && !a.scratch && (writeUe stored (pasOf a)).isNone && (match a.lanes with
      | [l] => !a.peerLane l && decide (3 < l.size) && !a.written.contains ((l.addr + 3) % 2 ^ 57) && decide ((pasVia a.pages l.bytes).Nodup)
      | _ => false)) = true ∧
    (added.acc? 0).any (fun a => !a.scratch && a.done.isEmpty && (match a.lanes with
      | [l] => l.size == 4 && decide (pasVia a.pages l.bytes = (List.range 4).map (0x400000 + ·)) && (pasVia a.pages l.bytes).all (fun x => !isPeer x)
      | _ => false)) = true ∧
    (loaded.acc? 0).any (fun a => a.kind == .load false && a.done.isEmpty && (readUe loaded (pasOf a)).isNone && a.core == 0 &&
      (a.lanes.all fun l => (pasVia a.pages l.bytes).all fun pa => l1Home loaded pa)) = true ∧
    (elementLoad.acc? 0).any (fun a => a.kind == .ldb 2 false && a.done.isEmpty && (a.recs.any fun r => (bufRec r.1).view == 0) &&
      (readUe elementLoad (pasOf a)).isNone && a.core == 0) = true ∧
    (match (elementLoad.acc? 0).map (performAccess elementLoad) with
     | some (.ok t) => ((t.warp 0).v.getD 4 0).toNat == 0x01020304
     | _ => false) = true := by decide +kernel

theorem witness_GlobalAccessesMoveTheirBytes_sees :
    (∀ p k, logOn stored p k = false) ∧ (∀ p k, logOn loaded p k = false) ∧ (∀ p k, logOn elementLoad p k = false) ∧ seesMemory loaded 0 ∧
    seesMemory elementLoad 0 :=
  ⟨no_log _ (by decide +kernel), no_log _ (by decide +kernel), no_log _ (by decide +kernel), sees _ _ (by decide +kernel) (by decide +kernel),
   sees _ _ (by decide +kernel) (by decide +kernel)⟩
/-- Block 0 declares barriers 2 and 5, of warp 0 and the sequencer, and ring 2 of one stage on barriers 8 and 9, which warp 0 and the sequencer fill and
empty. -/
def synced (member : Nat) (s : State) : State :=
  let b : Barrier := { declared := true, members := [member], arrived := [], phase := 0 }
  s.modBlock 0 fun x => { x with barriers := [(2, b), (3, b), (5, { b with members := [member, 7] }), (8, { b with phase := 1 }), (9, b)],
                                  rings := [(2, { base := 8, depth := 1, producers := [member], consumers := [member] })] }

/-- Arrivals at a barrier that completes and at one that does not; waits for a phase that has passed; a sync that completes; acquires of an empty stage and of
a filled one. -/
theorem witness_BarrierFormsComplete :
    let s := synced 0 simt
    let q := synced 64 stream
    let arrive (lv : Nat) (_ : IWord) (e : Env) (s : State) : Bool :=
      (e.view == .stream || satfArm e.w.csr.satf == false || satfFlags e.w.csr.satf == 0) && (e.view == .stream || !releaseWaits s e.party (if lv = 0 then 2 else 3)) &&
        decisionRoom e s 1
    let waits (ph : Nat) (w : IWord) (e : Env) (s : State) : Bool := s.phaseOf (s.barRef e.party 0 (idxOf w)) != ph
    let sync (w : IWord) (e : Env) (s : State) : Bool := s.syncedOf e.party == none && arrive 0 w e s &&
      ((s.barRef e.party 0 (idxOf w)).any fun r => (s.barrier r).completes (memberKey (e.w.bid, e.w.wid)))
    let ring (producer : Bool) (w : IWord) (e : Env) (s : State) : Bool := (s.ringOf e.party (idxOf w)).any fun x => x.has producer e.w.wid &&
      s.phaseOf (s.barRef e.party 0 (x.bar (!producer) (s.cursorOf e.party (idxOf w)))) != (if producer then 1 else 0)
    meets (.barArrive (wd 0 (.vec 0 0) (.small 3) (.vec 0 0) (.vec 0 0))) simtCur s (arrive 0) = true ∧
    meets (.barArrive (wd 0 (.vec 0 0) (.small 5) (.vec 0 0) (.vec 0 0))) simtCur s (arrive 0) = true ∧
    meets (.barArrive (wd 4 (.vec 0 0) (.small 7) (.vec 0 0) (.vec 0 0))) simtCur s (arrive 1) = true ∧
    meets (.barWait (wd 0x10 (.vec 0 0) (.small 3) (.small 1) (.vec 0 0))) simtCur s (waits 1) = true ∧
    meets (.barSync (wd 0x20 (.vec 0 0) (.small 3) (.vec 0 0) (.vec 0 0))) simtCur s sync = true ∧
    meets (.barq (wd 0 (.sreg 3) (.small 5) (.vec 0 0) (.vec 0 0))) simtCur s (fun _ _ _ => true) = true ∧
    meets (.racqP (wd 0 (.vec 0 0) (.small 2) (.vec 0 0) (.vec 0 0))) simtCur s (ring true) = true ∧
    meets (.racqC (wd 1 (.vec 0 0) (.small 2) (.vec 0 0) (.vec 0 0))) simtCur s (ring false) = true ∧
    meets (.rcommit (wd 0 (.vec 0 0) (.small 2) (.vec 0 0) (.vec 0 0))) simtCur s (arrive 0) = true ∧
    meets (.rrel (wd 0 (.vec 0 0) (.small 2) (.vec 0 0) (.vec 0 0))) simtCur s (arrive 0) = true ∧
    meets (.warpsync (wd 0 (.vec 0 0) (.vec 0 0) (.vec 0 0) (.vec 0 0))) simtCur s (fun _ _ _ => true) = true ∧
    meets (.mbarArrive (wd 0 (.vec 0 0) (.small 2) (.vec 0 0) (.vec 0 0))) seqCur q (arrive 0) = true ∧
    meets (.mbarWait (wd 1 (.vec 0 0) (.small 2) (.small 1) (.vec 0 0))) seqCur q (waits 1) = true ∧
    meets (.mbarSync (wd 2 (.vec 0 0) (.small 2) (.vec 0 0) (.vec 0 0))) seqCur q sync = true ∧
    meets (.mbarRacqP (wd 3 (.vec 0 0) (.small 2) (.vec 0 0) (.vec 0 0))) seqCur q (ring true) = true ∧
    meets (.mbarRacqC (wd 4 (.vec 0 0) (.small 2) (.vec 0 0) (.vec 0 0))) seqCur q (ring false) = true ∧
    meets (.mbarRcommit (wd 5 (.vec 0 0) (.small 2) (.vec 0 0) (.vec 0 0))) seqCur q (arrive 0) = true ∧
    meets (.mbarRrel (wd 6 (.vec 0 0) (.small 2) (.vec 0 0) (.vec 0 0))) seqCur q (arrive 0) = true := by decide +kernel

theorem witness_ArrivalsCompleteThePhase :
    let s := synced 0 simt
    (s.block? 0).isSome = true ∧ ((s.arrive ⟨0, 0, 3⟩ 0).1.barrier ⟨0, 0, 3⟩).phase = 1 ∧ ((s.arrive ⟨0, 0, 5⟩ 0).1.barrier ⟨0, 0, 5⟩).arrived = [0] ∧
    (s.arrive ⟨0, 0, 5⟩ 9).1 = s := by decide +kernel

/-- A block that copies 16 bytes from 0x200000 to offset 0 of the scratchpad, at offset 256. -/
def copyBytes : Nat :=
  let dim := 16 * 2 ^ 32 + 2 ^ 64
  let src := 0x200000 + 0x10 * 2 ^ 64 + 2 ^ 70 + dim * 2 ^ 128
  let dst := 0x10 * 2 ^ 64 + 2 ^ 69 + 2 ^ 70 + dim * 2 ^ 128
  src + dst * 2 ^ 768 + 16 * 2 ^ 1536
def copying : State :=
  (mem.modWarp 0 fun w => { w with s := [(20, 256)] }).modCore 0 fun c => { c with scratch := (List.range 16).map fun i => (16 + i, BitVec.ofNat 128 (copyBytes / 2 ^ (128 * i))) }

theorem witness_CopyFormsComplete :
    let enters (e : Env) (s : State) : Bool := !releaseWaits s e.party 4 && decisionRoom e s 1 && passes (copyRoom e s)
    meets (.cpy (wd 0 (.vec 0 0) (.sreg 20) (.small 0) (.vec 0 0))) simtCur copying (fun w e s =>
      e.scalarPred w && scratchReady e s [(cpyOffset e w, 256)] false false && (cpyTrap e s w).isNone && enters e s) = true ∧
    meets (.ctable (wd 0 (.vec 0 0) (.sreg 6) (.small 0) (.vec 0 0))) simtCur mem (fun w e s => e.scalarPred w && enters e s) = true ∧
    meets (.cseal (wd 0 (.sreg 3) (.vec 0 0) (.vec 0 0) (.vec 0 0))) simtCur mem (fun _ _ _ => true) = true ∧
    meets (.cwait (wd 0 (.vec 0 0) (.small 0) (.vec 0 0) (.vec 0 0))) simtCur mem
      (fun w e s => e.scalarPred w && decide ((unfinished e s).length ≤ min (e.u64 w w.a) 8)) = true ∧
    meets (.cquery (wd 2 (.sreg 3) (.vec 0 0) (.vec 0 0) (.vec 0 0))) simtCur mem (fun _ _ _ => true) = true ∧
    (copying.core 0).copies.length < Config.copyEntries := by decide +kernel

theorem witness_MatrixFormsComplete :
    let ready (op : IWord → Env → EngOp) (w : IWord) (e : Env) (s : State) : Bool :=
      (match (op w e).mem with | some m => m.global || m.ranges.all fun x => x.2 == 0 || decide (x.1 + x.2 ≤ (s.region e.party).2) | none => true) &&
        decisionRoom e s (match (op w e).mem with | some m => b2n m.global | none => 0) && decide ((s.core e.core).engine.queue.length < Config.engineQueue)
    let z := Operand.vec 0 0
    meets (.mload (wd 2 z (.sreg 4) (.small 12) (.small 0))) seqCur stream (ready mloadOp) = true ∧
    meets (.mperm (wd 0x0C z (.sreg 8) (.small 4) z)) seqCur stream (ready mpermOp) = true ∧
    meets (.mzero (wd 1 z z z (.small 2))) seqCur stream (ready mzeroOp) = true ∧
    meets (.mma (wd 2 z (.sreg 4) (.small 12) (.small 3))) seqCur stream (ready mmaOp) = true ∧
    meets (.mladr (wd 0x0B z (.sreg 10) (.small 4) (.small 1))) seqCur stream (ready mladrOp) = true ∧
    meets (.mscale (wd 0 z (.sreg 10) z z)) seqCur stream (ready mscaleOp) = true ∧
    meets (.mscaleClr (wd 1 z z z z)) seqCur stream (ready mscaleClrOp) = true ∧
    meets (.mdrain (wd 2 z (.sreg 6) (.small 0) (.small 0))) seqCur stream
      (fun w e s => ready mdrainOp w e s && drainKindOk (w.ext.toNat % 16) (w.ext.getLsbD 4) (drainKind w e)) = true ∧
    meets (.mwait (wd 0 z z z z)) seqCur stream (fun _ e s => engIdle s e.core) = true ∧
    meets (.mend (wd 0 z z z z)) seqCur stream (fun _ e s => engIdle s e.core && decisionRoom e s (s.departRecords e)) = true ∧
    (let e := opEnv 0xC2 (wd 1 z z z (.small 2)) seqCur stream
     partyCore e.party = e.core ∧ e.group / 2 = e.core) := by decide +kernel

/-- A copy command that has entered, one that moves with its time over, and one that waits for an entry. -/
def entered : State := done (.cpy (wd 0 (.vec 0 0) (.sreg 20) (.small 0) (.vec 0 0))) copying
def moving : State := { done (.copyCommandStart 0 0) entered with ccnt := 10000 }
def queuedOp : State := done (.mzero (wd 1 (.vec 0 0) (.vec 0 0) (.vec 0 0) (.small 2))) stream
def runningOp : State := { done (.matrixOpStart 0 1) queuedOp with ccnt := 10000 }

theorem witness_EnginesComplete :
    ((entered.copyDue 0).map (·.arrival)) = some 0 ∧
    ((moving.core 0).copy? 0).any (fun c => copyTimed moving 0 c && !copyTable moving c && !copyBlocked moving c && !c.moved &&
      (homesTrap moving c.pages c.wpages c.ranges.1 c.ranges.2).isNone &&
      (((moving.moveCopy 0 c).core 0).copy? 0).any fun d => d.remote.isEmpty) = true ∧
    (let s := moving.modCopy 0 0 fun c => { c with moved := true }
     ((s.core 0).copy? 0).any fun c => copyTimed s 0 c && !copyTable s c && c.moved) = true ∧
    (let s := simt.modCore 0 fun c => { c with copyWait := [⟨0, 0, 0⟩] }
     s.copyWaiters 0 = [⟨0, 0, 0⟩] ∧ (s.core 0).copies.length < Config.copyEntries) ∧
    ((engDue queuedOp 0 1).any fun x => match engReach queuedOp 0 (queuedOp.partyPart (.seq 0)) x.op with | .ok _ => true | _ => false) = true ∧
    engTimed runningOp 0 1 = true ∧ (((runningOp.core 0).engine.run 1).any fun r => !engBlocked runningOp 0 r && !r.moved &&
      (engHomes runningOp (r.entries.headD { id := 0, pc := 0, op := .mscale none, key := none, reserved1 := false }).op r.pages).isNone &&
      (runningOp.engAll 0 r (r.entries.zip r.images)).2.isEmpty) = true ∧
    (let s := runningOp.modEngine 0 fun g => g.setRun 1 ((g.run 1).map fun r => { r with moved := true })
     engTimed s 0 1 = true ∧ ((s.core 0).engine.run 1).any (·.moved) = true) := by decide +kernel

/-- Where some threads take a branch, where all do, and where none does. -/
def someTaken : State := simtWith fun w => { w with m := [(1, 0x0000000100000001)], s := [(5, 2), (8, 0x10000), (9, 0x10000)] }

theorem witness_BranchesComplete :
    let p (w : IWord) : IWord := { w with pred := 1 }
    let z := Operand.vec 0 0
    meets (.bra (p (wd 1 z (.small 3) (.small 4) z))) simtCur someTaken (fun w e s => traceRoom e s (e.branchRecords w (e.target w w.a))) = true ∧
    meets (.brx (p (wd 0 z (.sreg 9) z z))) simtCur someTaken (fun w e s => traceRoom e s (e.branchRecords w (e.target w w.a))) = true ∧
    meets (.bra (wd 0 z (.small 3) z z)) (slotCur .s0) (vliw .s0) (fun w e s => e.scalarPred w && traceRoom e s 1) = true ∧
    meets (.bra (wd 0 z (.small 3) z z)) seqCur stream (fun _ e _ => e.view == .stream) = true ∧
    meets (.call (wd 0 (.sreg 8) (.small 3) z z)) simtCur someTaken (fun _ e s => traceRoom e s 1) = true ∧
    meets (.ret (wd 0 z (.sreg 8) z z)) simtCur someTaken (fun _ e s => traceRoom e s 1) = true ∧
    meets (.join (wd 0 z z z z)) simtCur someTaken (fun w e s =>
      !e.rejoins || traceRoom e s (e.w.atJoin e.pathNo e.pc e.next (joinRpc e w)).mergeRecords.length) = true ∧
    meets (.exit (wd 0 z z z z)) simtCur someTaken (fun w e s => e.exitsAll w && decisionRoom e s (s.departRecords e)) = true ∧
    meets (.exit (p (wd 0 z z z z))) simtCur someTaken (fun w e _ => !e.exitsAll w && e.survivors w != 0) = true := by decide +kernel

theorem witness_BranchesSplitPaths :
    let w : IWord := ⟨1, 0, 1, .vec 0 0, .small 3, .small 4, .vec 0 0, []⟩
    let e := opEnv 0xD0 w simtCur someTaken
    e.view = .simt ∧ e.party = .path 0 0 0 ∧ e.key = warpKey 0 0 ∧ e.traced someTaken = false ∧ (someTaken.warp 0).freePath = some 1 ∧
    (((someTaken.warp 0).paths.get? 0).map (·.mask)) = some e.mask ∧ e.takenSet w ≠ 0 ∧ e.takenSet w ≠ e.mask ∧
    e.takenSet { w with pred := 0 } = e.mask ∧ (opEnv 0xD0 w simtCur simt).takenSet w = 0 := by decide +kernel

/-- A loop on the stack of a thread whose body ends at 0x10000. -/
def inLoop : State := looping 2 1

theorem witness_LoopFormsComplete :
    let z := Operand.vec 0 0
    meets (.loopDec (wd 0 (.sreg 5) (.small 2) z z)) simtCur someTaken (fun w e s => e.lpMode.isNone && decide (1 < loopCount e w) && traceRoom e s 1) = true ∧
    meets (.loopDec (wd 0 (.sreg 5) (.small 2) z z)) simtCur (simtWith fun w => lpMode { w with s := [(5, 4096)] }) (fun w e s =>
      (e.lpMode.any fun m => decide (loopCount e w ≤ 4096) && decide (m.taken < 2 ^ 20)) && traceRoom e s 1) = true ∧
    meets (.loopPush (wd 5 z (.small 3) (.small 4) z)) (slotCur .s0) (vliw .s0) (fun w e _ => pushCount e w != 0 && decide (e.depth < 8)) = true ∧
    meets (.loopPush (wd 5 z (.small 0) (.small 0) z)) (slotCur .s0) bundleState (fun w e s => pushCount e w == 0 &&
      (match e.afterEnd s (e.target w w.b) with | .at _ _ => true | _ => false) && traceRoom e s 1) = true ∧
    meets (.lbreak (wd 0 z z z z)) (slotCur .s0) inLoop (fun w e s => (e.breaks w).any fun l =>
      (match e.afterEnd s l.last with | .at _ _ => true | _ => false) && traceRoom e s 1) = true ∧
    meets (.lbreakZ (wd 1 z (.sreg 6) (.small 4) z)) simtCur someTaken (fun w e s => e.lpMode.isNone && e.u64 w w.a == 0 && traceRoom e s 1) = true ∧
    meets (.lbreakNz (wd 2 z (.sreg 5) (.small 4) z)) simtCur someTaken (fun w e s => e.lpMode.isNone && e.u64 w w.a != 0 && traceRoom e s 1) = true ∧
    ((vliw .s0).warps.get? 0).any (fun x => x.vliw.isSome) = true := by decide +kernel

theorem witness_ModesAndSleepComplete :
    let z := Operand.vec 0 0
    let dual := simt.modGroup 0 fun g => { g with mode := .dual }
    meets (.modeVliw (wd 0 z z z z)) simtCur dual (fun _ e s => e.w.inflight == [] && (s.group e.group).mode == .dual && e.w.paths.length == 1 &&
      e.mask == 0xFFFFFFFF && s.pending e.key == []) = true ∧
    meets (.modeSimt (wd 1 z z z z)) (slotCur .s0) (vliw .s0) (fun _ e s => (s.group e.group).mode == .dual && s.pending e.key == [] &&
      (headerOf e.header).yield && e.depth == 0) = true ∧
    (let s := vliwWith .s0 fun w => { w with vliw := some { State.vliw0 with wait := .context } }
     s.freeContext 0 = some 0 ∧ s.contextWaiter 0 = some (warpKey 0 0)) ∧
    meets (.nop (wd 0 z z z z)) simtCur simt (fun _ _ _ => true) = true ∧
    meets (.sleep (wd 0 z (.small 0) z z)) simtCur simt (fun w e _ => decide (sleepLimit e w ≤ e.ccnt)) = true ∧
    (let s := simtWith fun w => { w with paths := [(0, { State.path0 with pc := 0x10000, mask := 1, wait := .sleep 0 })] }
     s.waitOf (.path 0 0 0) = .sleep 0) ∧ (simt.warps.get? 0).isSome = true := by decide +kernel

/-- A device-side queue of 16 entries, with one tail notify, and log buffer 0 of 4 KiB. -/
def withQueue (s : State) : State := s.modPart 0 fun p =>
  { p with device := some { addr := 0x500000, dlog := 4, rsv := 0, head := 0, tmax := 0, notes := [1] },
           logs := [(0, { pa := 0x600000, bytes := 4096, wp := 0, reserved := 0, wanted := 0 })] }

theorem witness_SystemFormsComplete :
    let z := Operand.vec 0 0
    let s := withQueue (mem.modWarp 0 fun w => { w with csr := { w.csr with logEn := true } })
    meets (.getsr (wd 0 (.sreg 7) (.small 0) z z)) simtCur simt (fun _ e s => !s.satfBusy e.party) = true ∧
    meets (.setsr (wd 0 z (.small 1) (.small 4) z)) simtCur simt (fun w e _ => e.scalarPred w && csrNo w == 1 && decide ((setsrValue e w).toNat % 8 ≤ 4)) = true ∧
    meets (.clk (wd 2 (.sreg 7) z z z)) simtCur simt (fun _ _ _ => true) = true ∧
    meets (.logw (wd 0 z (.sreg 9) (.small 1) z)) simtCur s (fun w e s => logwOn e w s && logFits s (s.partyPart e.party) 0 1) = true ∧
    meets (.launch (wd 0 z (.sreg 7) (.small 0) z)) simtCur s (fun w e s => e.scalarPred w && (s.part (s.partyPart e.party)).device.any fun q =>
      decide ((q.rsv + 2 ^ 32 - q.head) % 2 ^ 32 < 2 ^ q.dlog) && (List.range 128).all (fun i => !unitOnly s (entryPa q q.rsv + i)) && accessReady e s (launchAccess w q.rsv e s)) = true ∧
    ((s.part 0).device.map fun q => (q.notes, notifies s q)) = some ([1], true) := by decide +kernel

/-- A share of 1 MiB on die 0 with one record, at 0x200100, whose handle is `handle` and whose capacity is 1. -/
def recordsWith (handle : Nat) (f : Warp → Warp) : State :=
  let s := mapped (2 ^ 43) (simtWith fun w => f { w with s := [(4, 0x200100), (8, 0x10000)], paths := alone })
  let s := (s.modDie 0 fun d => { d with pantryMiB := 1 }).modPart 0 fun p => { p with desc := BitVec.ofNat 512 (2 ^ 288) }
  ((s.poke (2 ^ 43) 2 1).poke (2 ^ 43 + 264) 8 handle).poke (2 ^ 43 + 296) 8 (2 ^ 32)
def records : State := recordsWith (2 ^ 54 + 0x10000 / 8) id

theorem witness_RecordFormsComplete :
    let z := Operand.vec 0 0
    let at' (r : AtUnit) : Bool := match r with | .at _ _ _ _ => true | _ => false
    meets (.ula (wd 0 (.sreg 7) (.sreg 4) (.small 0) (.small 5))) simtCur records (fun w e s => e.scalarPred w && accessReady e s (ulaAccess w e s)) = true ∧
    meets (.sqrecLd (wd 0 (.sreg 7) (.sreg 4) (.small 8) z)) simtCur records (fun w e s => e.lpMode.isNone && accessReady e s (unitAccess w (.sqLd (recordOff e w)) 0xE9 (recordOff e w) 8 0 e s)) = true ∧
    meets (.sqrecLd (wd 0 (.sreg 7) (.sreg 4) (.small 8) z)) simtCur (recordsWith 0 fun w => { lpMode w with lp := (lpMode w).lp.map fun m => { m with record := 0x200100 } })
      (fun w e s => (e.lpMode.any fun m => recordVa e w == roundDown m.record 256) &&
        accessReady e s (unitAccess w (.sqLd (recordOff e w)) 0xE9 (recordOff e w) 8 0 e s)) = true ∧
    meets (.sqrecSt (wd 1 z (.sreg 4) (.small 16) (.sreg 9))) simtCur records (fun w e s => accessReady e s (unitAccess w (.sqSt (recordOff e w)) 0xE9 (recordOff e w) 8 (e.u64 w w.c) e s)) = true ∧
    meets (.sqrecHist (wd 2 z (.sreg 4) z (.sreg 9))) simtCur records (fun w e s => accessReady e s (unitAccess w .sqHist 0xE9 64 192 (e.u64 w w.c) e s)) = true ∧
    meets (.sqrecCinc (wd 3 (.sreg 7) (.sreg 4) z (.sreg 9))) simtCur records (fun w e s => accessReady e s (unitAccess w .sqCinc 0xE9 16 8 (e.u64 w w.c) e s)) = true ∧
    meets (.sqrecCget (wd 4 (.sreg 7) (.sreg 4) z (.sreg 9))) simtCur records (fun w e s => accessReady e s (unitAccess w .sqCget 0xE9 16 8 (e.u64 w w.c) e s)) = true ∧
    meets (.sqacc (wd 1 (.sreg 7) (.sreg 4) z (.small 5))) simtCur records (fun w e s => accessReady e s (unitAccess w (.sqAcc 1) 0xEA 56 8 (e.uniform w .n32 w.c) e s)) = true ∧
    meets (.sqrecWchk (wd 5 z (.sreg 4) z (.sreg 9))) simtCur records (fun w e s => e.lpMode.isNone && (match atUnit e s (wchkAccess w e s) with
      | .at _ _ base slot => wchkOk s base slot (e.u64 w w.c)
      | _ => false)) = true ∧
    meets (.sqbind (wd 0 z (.sreg 4) (.sreg 8) (.small 1))) simtCur records (fun w e s => at' (bindCheck w e s)) = true ∧
    meets (.lpcall (wd 0 z (.sreg 4) (.sreg 8) (.small 0))) simtCur records (fun w e s => match atUnit e s (callAccess w e s) with
      | .at t a _ _ => bits (callHandle t a).2 54 9 == 1 && callFits e (callHandle t a).2 && traceRoom e s 1
      | _ => false) = true ∧
    meets (.lpcall (wd 0 z (.sreg 4) (.sreg 8) (.small 0))) simtCur (recordsWith 0 id) (fun w e s => match atUnit e s (callAccess w e s) with
      | .at t a _ _ => bits (callHandle t a).2 54 9 == 0
      | _ => false) = true ∧
    meets (.lpret (wd 0 z z z z)) simtCur (simtWith lpMode) (fun _ e s => e.w.lp.isSome && traceRoom e s 1) = true := by decide +kernel

/-- A descriptor: ring of 2^6 records, FEV 1, REV 2, TEV 3, a locked image of 256 bytes. -/
def descBits : Nat := 6 * 2 ^ 64 + 2 ^ 128 + 2 * 2 ^ 140 + 3 * 2 ^ 152 + 256 * 2 ^ 240

/-- A part on which partition 0 is active on set 1 and nothing runs. -/
def idle : State :=
  let s := (simt.modPart 0 fun p => { p with desc := BitVec.ofNat 512 descBits })
  { s with warps := [], cur := none, agenda := [], groups := [], cores := [(0, { State.core0 with tlb := [loadPage] })],
           sched := State.sched0, boot := { s.boot with descBase := 0x700000 } }

/-- A record at the head of host queue 0. -/
def queued (f : Pending → Pending) : State :=
  { idle with ccnt := 3000000, sched := { idle.sched with queues := [(0, [f (pendingOf (loadRecord false) 0 1 0)])] } }
def admitted : State := done (.launchAdmission (.host 0)) (queued id)
def launchEnded : State := simt.modLaunch 0 fun l => { l with ended := some { status := 4, detail := 0, trap := 0 } }
def waiting : State := done (.ld (wd 0x20 (.vec 0 4) (.sreg 6) (.small 0) (.vec 0 0))) (simtWith fun w => { pointing 0x200000 w with paths := alone })
def retrying : State := { waiting with sched := { waiting.sched with counters := [(0, 1)] } }

theorem witness_SchedulerEventsComplete :
    ((queued id).sched.queues.getD (queueKey (.host 0)) []).map (fun p => (p.launch, p.blocked)) = [(none, none)] ∧
    (((queued fun p => { p with metAt := some 0 }).sched.queues.get? 0).map fun l => l.map fun p => (p.metAt, p.aged, max p.arrived 0 + p.idle + idle.boot.ageLimit)) =
      some [(some 0, none, 3000000)] ∧
    (admitted.heads.find? fun x => x.2.launch == some 0).any (fun x => (placement admitted x.1 x.2 [0]).any (fun t => (t.launch? 0).isSome) && servedNext admitted x.1 x.2) = true ∧
    (launchEnded.launch? 0).any (fun l => l.ended.isSome && l.blocked.isNone && (l.record.getLsbD 703 == false)) = true ∧
    (let s := simt.startDiscard 0 0 1
     (s.part 0).discarding = some (0, 1) ∧ (s.launch? 0).any (fun l => l.partition == 0 && decide (0 < l.nextBid) && !launchOver s 0 l) = true) ∧
    (retryDue retrying 0).isSome = true := by decide +kernel

/-- An entry: its command, sequence number 1, and operand words from 2 on. -/
def entry (cmd : Nat) (ops : List Nat) : Nat := cmd + 2 ^ 32 + 2 ^ 128 * (ops.reverse.foldl (fun x y => x * 2 ^ 64 + y) 0)

/-- Host queue 0 performs a command. -/
def performing (s : State) (cmd : Nat) (ops : List Nat) : State :=
  { s with host := { s.host with queues := [(0, { State.queue0 with en := true, tail := 1, head := 1, consumed := 1, current := some (BitVec.ofNat 2048 (entry cmd ops)) })] } }

/-- Host queue 0 holds an entry that it has not consumed, in host memory. -/
def offering : State :=
  { idle.poke (2 ^ 44) 256 (entry 4 [5, 0]) with host := { idle.host with queues := [(0, { State.queue0 with en := true, tail := 1 })] } }

/-- The command that queue 0 performs, and a condition on its entry. -/
def performs' (s : State) (cmd : Nat) (p : BitVec 2048 → Bool) : Bool := (s.queue 0).current.any fun e => cmdOf e == cmd && p e

theorem witness_HostQueuesComplete :
    (idle.ready = true ∧ (0 : Nat) = idle.host.owner ∧ (63 : Nat) < Config.hostQueues ∧ ((2 ^ 31 - 1 : Nat) % 2 ^ 32 + 2 ^ 32 - (idle.queue 63).tail) % 2 ^ 32 < 2 ^ 31) ∧
    (consumes offering 0 = true ∧ ((offering.queue 0).tail + 2 ^ 32 - (offering.queue 0).head) % 2 ^ 32 ≤ 2 ^ (offering.queue 0).dlog ∧ vbits (entryAt offering (offering.queue 0)) 32 32 = 1 ∧ malformed offering 0 (entryAt offering (offering.queue 0)) = false) ∧
    (performs' (performing idle 1 []) 1 (fun _ => true) = true ∧ (performing idle 1 []).sched.queues.getD 0 [] = []) ∧
    (let s := performing idle 2 [0x800000, 0x900000, 64]
     performs' s 2 (fun _ => true) = true ∧
     performs' (done (.hcopy 0) s) 2 (fun e => let s := done (.hcopy 0) s
       (s.queue 0).copying && !(s.queue 0).moved && !hcopyRefused s (s.queue 0) (opWord e 3) (opWord e 4) && !rangeRefresh s (opWord e 2) (opWord e 4) &&
       !rangeRefresh s (opWord e 3) (opWord e 4) && !slicesBlocked s (hcopyLines (opWord e 2) (opWord e 3) (opWord e 4)) (hostCode s.host.owner) none) = true) ∧
    (performs' (performing idle 3 [5, 1]) 3 (fun e => (tevParts idle (opWord e 2)).isEmpty) = true) ∧
    (performs' (performing idle 4 [5, 0]) 4 (fun e => counterMet idle (opWord e 2) (opWord e 3)) = true) ∧
    (performs' (performing idle 5 [0, 0x500000, 4]) 5 (fun e => !bindRefused idle (opWord e 2)) = true) ∧
    (performs' (performing idle 6 [3, 1]) 6 (fun e => (idle.dies.all fun x => x.2.wsReq.isEmpty) && !(performing idle 6 [3, 1]).wsBehind 0 (opWord e 2)) = true) ∧
    (let s := idle.modDie 3 fun d => { d with wsReq := [(0, true)] }
     (s.die 3).wsReq = [(0, true)] ∧ dieClear s 3 = true) ∧
    (performs' (performing idle 7 [0, 2, 0x600000, 4096]) 7 (fun _ => true) = true) := by decide +kernel

/-- No queue waits for a weight store. -/
theorem witness_HostQueuesComplete_wsmode : ∀ d, ∀ x ∈ (idle.die d).wsReq, x.1 ≠ 0 := by
  have h : idle.dies.all (fun x => x.2.wsReq.isEmpty) = true := by decide +kernel
  have k : idle.dies.map (·.1) = [0, 1, 2, 3] := by decide +kernel
  intro d x hx
  have e : (idle.die d).wsReq = [] := by
    by_cases hd : d < 4
    · have : ∀ d < 4, (idle.die d).wsReq = [] := by decide +kernel
      exact this d hd
    · have n : idle.dies.get? d = none := by
        have : ∀ (t : Tbl Die), (∀ j ∈ t.map (·.1), j ≠ d) → t.get? d = none := by
          intro t; induction t with
          | nil => intro _; rfl
          | cons a r ih => intro ha; obtain ⟨j, x⟩ := a; simp only [Tbl.get?]; rw [if_neg (ha j (by simp)), ih (fun j hj => ha j (by simp_all))]
        apply this
        rw [k]; intro j hj; simp at hj; omega
      simp [State.die, Tbl.getD, n, State.die0]
  rw [e] at hx; simp at hx

/-- Descriptor 1 in memory, partition 0 halting, and partition 1 saved. -/
def withDesc (p : Nat) : State := idle.poke (0x700000 + 64 * p) 64 descBits

theorem witness_PartitionsAndLeaseComplete :
    (let s := withDesc 1
     performs' (performing s 8 [1, 0, 2, 3]) 8 (fun e => opWord e 3 == 0 && (s.part 1).state == .none && setFree s 1 2 && !descBad s (descOf s 1) &&
       !shareTaken s 1 (descOf s 1)) = true) ∧
    (performs' (performing idle 8 [0, 1]) 8 (fun e => opWord e 3 == 1) = true ∧ (idle.part 0).state = .active ∧ partBusy idle 0 = false ∧ (idle.part 0).halting = false) ∧
    (let s := simt.modPart 0 fun p => { p with state := .saved }
     performs' (performing s 8 [0, 1]) 8 (fun e => opWord e 3 == 1) = true ∧ (s.part 0).state = .saved ∧
     (s.launch? 0).any (fun l => l.partition == 0 && decide (0 < l.nextBid) && !launchOver s 0 l) = true) ∧
    (performs' (performing idle 8 [0, 2]) 8 (fun e => opWord e 3 == 2) = true ∧ shadowRoom idle (idle.part 0).set = true) ∧
    (let s := (withDesc 1).modPart 1 fun p => { p with state := .saved, set := 2 }
     performs' (performing s 8 [1, 3, 8]) 8 (fun e => opWord e 3 == 3) = true ∧ resumeCheck s 1 8 = none) ∧
    (let s := withDesc 0
     performs' (performing s 8 [0, 4, 4]) 8 (fun e => opWord e 3 == 4) = true ∧ (s.part 0).set &&& 4 = 0 ∧ setFree s 0 4 = true ∧ setFits (s.part 0).set 4 = true ∧
     descBad s (descOf s 0) = false ∧ shareTaken s 0 (descOf s 0) = false) ∧
    (let s := idle.modPart 0 fun p => { p with halting := true }
     (s.part 0).halting = true ∧ haltingYields s 0 = [] ∧ halted s 0 = true ∧ (s.part 0).target = none ∧ (s.part 0).discarding = none) ∧
    (let s := (withDesc 0).modPart 0 fun p => { p with halting := true, target := some 4 }
     (s.part 0).halting = true ∧ haltingYields s 0 = [] ∧ halted s 0 = true ∧ (s.part 0).target = some 4 ∧ resumeRefused s 0 4 = none) ∧
    (idle.host.expiry ≤ idle.ccnt ∧ (0xC1A1 : Word64).toNat % 2 ^ 16 = 0xC1A1) ∧
    (let s : State := { idle with host := { idle.host with expiry := 1, leased := true } }
     s.ccnt < s.host.expiry ∧ leaseWarns s = true) ∧
    (let s : State := { idle with host := { idle.host with leased := true } }
     s.host.leased = true ∧ s.host.expiry ≤ s.ccnt) := by decide +kernel

theorem witness_HostAccessesComplete :
    (idle.ready = true ∧ (0 : Nat) = idle.host.owner) ∧
    ((0x800000 : Nat) + 2 ≤ idle.host.bar2Bytes ∧ readDies idle (bar2Pa idle 0x800000) 2 = [] ∧
      hostBlocked idle (hostCode 0) ([0x800000, 0x800001].filter (hostServed idle)) = false ∧ inRefresh idle 0x800000 = false ∧ inRefresh idle 0x800001 = false ∧ hostServed idle (bar2Pa idle 0x800000) = true ∧ idle.ras.poison = []) ∧
    (let s : State := { idle with host := { idle.host with winbase := 256 } }
     (2 ^ 34 - 2 : Nat) + 2 ≤ s.host.bar2Bytes ∧ readDies s (bar2Pa s 0) 2 = [0]) ∧
    (bar2Pa idle 0x800008 % 8 = 0 ∧ atomicHome idle (bar2Pa idle 0x800008) = true ∧ hostBlocked idle (hostCode 0) [bar2Pa idle 0x800008] = false ∧
      readUe idle ((List.range 8).map (bar2Pa idle 0x800008 + ·)) = none ∧ idle.ras.lastParty.get? (bar2Pa idle 0x800008 / 64) = none) ∧
    (let s : State := { idle with host := { idle.host with routes := [(0, 0x4000000000000007)] } }
     inbound s 7 = true ∧
     ([RemoteOp.store 0x800000 [1, 2], .atomic 0x800000 0 false 1, .cas 0x800008 true 0 1, .addOn 0x800000 1 0 0, .signal 5 1].all fun op =>
       decide ((remoteSpan op).1 + (remoteSpan op).2 ≤ windowBytes) &&
       (match op with | .store _ _ => true | .signal c _ => !tevBusy s c none | _ => decide ((remoteSpan op).1 % (remoteSpan op).2 = 0)) &&
       !hostBlocked s (peerCode 7) ((List.range (remoteSpan op).2).map ((remoteSpan op).1 + ·))) = true) ∧
    ((3 : Nat) < Config.dies ∧ (0x8000000000000001 : Word64).getLsbD 63 = true) ∧
    (idle.far 23 = 0 ∧ (23 : Nat) < farPairs ∧ ((idle.setFar 23 2 0).far 23 = 2) ∧ (idle.setFar 23 2 0).ras.farAbsent.getD 23 false = false ∧
      ∀ k < farPairs, k ≠ 23 → (idle.setFar 23 2 0).far k = 0) := by decide +kernel

theorem witness_TimersAndServiceComplete :
    State.reset.boot.flash = [] ∧
    (let s := (vliw .s0).modGroup 0 fun g => { g with running := none, requests := [0] }
     serviceDue s 0 = some 0 ∧ (s.group 0).running = none ∧ (s.part (s.corePartition 0)).discarding = none) ∧
    ((service.modGroup 0 fun g => { g with service := some 4096 }).group 0).service = some 4096 ∧
    (let s := (vliw .s0).modGroup 0 fun g => { g with deadline := some 0 }
     (s.group 0).deadline = some 0 ∧ (s.group 0).running.isSome = true ∧ (s.group 0).forced = false) ∧
    (let s := simt.modCore 0 fun c => { c with gated := true, woken := [3] }
     (s.core 0).gated = true ∧ (s.core 0).woken = [3]) ∧
    (let s : State := { simt with ccnt := 16384 + 511 }
     s.ready = true ∧ s.ccnt % 16384 < 512 ∧ (s.die 3).refreshing ≠ some (s.ccnt % 2 ^ 20 / 16384)) ∧
    (let s : State := { simt with ccnt := 512 }
     (s.die 3).refreshing = some 0 ∧ refreshBank s ≠ some 0) ∧
    (let s : State := { simt with ccnt := 3000000 }
     (s.die 3).window < s.ccnt / 3000000) ∧
    sampleDue (simt.modCore 0 fun c => { c with dbg := { c.dbg with dctl := 0x9400000000000000 } }) 0 = true := by decide +kernel

/-- The host's write of that witness stands in a part where no log is on and nothing is lost. -/
theorem witness_HostAccessesComplete_quiet : (∀ p k, logOn idle p k = false) ∧ ∀ a, writeUe idle [a] = none := by
  refine ⟨no_log _ (by decide +kernel), fun a => ?_⟩
  have h : idle.ras.poison = [] := by decide +kernel
  have k : idle.ras.farLost = [] := by decide +kernel
  have e (n : Nat) : Tbl.getD ([] : Tbl Bool) n false = false := rfl
  have g : farGone idle a = false := by simp only [farGone, k, e, Bool.and_false]
  simp [writeUe, writeUeAt, h, g]

/-- A store of 64 bits from s7 to the debug window: to DCMD of warp slot 0 of core 1, and to an s register of it. -/
def commanding (op : Nat) : State :=
  let s := mapped (2 ^ 47 + 2 ^ 26) (simtWith fun w => { w with s := [(6, 0x208D98), (7, BitVec.ofNat 64 (op * 2 ^ 61))], paths := alone })
  done (.st (wd 0x28 (.vec 0 0) (.sreg 6) (.small 0) (.sreg 7))) s

/-- The access is a store into the window that gives the command, and may be performed. -/
def commands (op : Nat) : Bool :=
  let s := commanding op
  (s.acc? 0).any fun a => a.window s && a.dcmd s == op && a.sent.isNone && a.performable s && (s.part a.partition).discarding.isNone

theorem witness_UpkeepAndDebugComplete :
    [0, 1, 2, 3, 4].all commands = true ∧
    (homeOf idle (64 * 0) = .near 0 ∧ homeOf idle (64 * 2 ^ 34) = .far ∧ homeOf idle (64 * 2 ^ 36) = .weights 0) ∧
    ([0, 2 ^ 34, 2 ^ 36].all fun line => rowDue { idle with ras := { idle.ras with rowUes := [line] } } line) = true ∧
    ((idle.die 0).rows.contains 9 = false ∧ (17 : Nat) < runnerPorts ∧ (8 : Nat) < 9) ∧
    (let s := idle.modDie 3 fun d => { d with worn := [63] }
     (63 : Nat) ∈ (s.die 3).worn ∧ (s.die 3).banks.length < 2) ∧
    ((idle.setFar 0 1 0).far 0 = 1 ∧ (idle.setFar 23 3 0).far 23 = 3 ∧ (23 : Nat) < farPairs) ∧
    roomFound (idle.modPart 0 fun p => { p with logs := [(2, { pa := 0x600000, bytes := 4096, wp := 0, reserved := 0, wanted := 1 })] }) 0 2 = true := by
  decide +kernel

end Sys2Proof.Tests
end

section
/-!
SUPPORT. Names of registers: what a name stands for under a rotation base, and s0 (spec/01 R26, R31).
-/
namespace Sys2Proof.Laws

open Sys2Proof Sys2Proof.Machine

@[simp] theorem sreg_zero (w : Warp) : w.sreg 0 = 0 := rfl

@[simp] theorem setS_zero (t : Tbl Word64) (v : Word64) : setS t 0 v = t := rfl

theorem setS_pos (t : Tbl Word64) {n : Nat} (v : Word64) (h : n ≠ 0) : setS t n v = t.set n v := if_neg h

/-- A fixed row keeps its number. -/
theorem physRow_fixed (b : Nat) {n : Nat} (h : n < 48) : physRow b n = n := if_pos h

/-- A rotating row stands among the 16 rotating registers, moved by the base. -/
theorem physRow_rotating (b : Nat) {n : Nat} (h : 48 ≤ n) : physRow b n = 48 + (n - 48 + 16 - b % 16) % 16 := if_neg (by omega)

/-- A fixed mask keeps its number. -/
theorem physMask_fixed (b : Nat) {n : Nat} (h : n < 8) : physMask b n = n := if_pos h

/-- A rotating mask stands among the 8 rotating registers, moved by the base. -/
theorem physMask_rotating (b : Nat) {n : Nat} (h : 8 ≤ n) : physMask b n = 8 + (n - 8 + 8 - b % 8) % 8 := if_neg (by omega)

/-- A rotating row stays among the rotating rows. -/
theorem physRow_range (b : Nat) {n : Nat} (h : 48 ≤ n) : 48 ≤ physRow b n ∧ physRow b n < 64 := by
  rw [physRow_rotating b h]; omega

/-- A rotating mask stays among the rotating masks. -/
theorem physMask_range (b : Nat) {n : Nat} (h : 8 ≤ n) : 8 ≤ physMask b n ∧ physMask b n < 16 := by
  rw [physMask_rotating b h]; omega

/-- Two names of a row are two registers. -/
theorem physRow_injective (b : Nat) {n m : Nat} (hn : n < 64) (hm : m < 64) (h : physRow b n = physRow b m) : n = m := by
  rcases Nat.lt_or_ge n 48 with n_fixed | n_rotates <;> rcases Nat.lt_or_ge m 48 with m_fixed | m_rotates
  · rwa [physRow_fixed b n_fixed, physRow_fixed b m_fixed] at h
  · have := physRow_range b m_rotates
    rw [physRow_fixed b n_fixed] at h; omega
  · have := physRow_range b n_rotates
    rw [physRow_fixed b m_fixed] at h; omega
  · rw [physRow_rotating b n_rotates, physRow_rotating b m_rotates] at h; omega

/-- Two names of a mask are two registers. -/
theorem physMask_injective (b : Nat) {n m : Nat} (hn : n < 16) (hm : m < 16) (h : physMask b n = physMask b m) : n = m := by
  rcases Nat.lt_or_ge n 8 with n_fixed | n_rotates <;> rcases Nat.lt_or_ge m 8 with m_fixed | m_rotates
  · rwa [physMask_fixed b n_fixed, physMask_fixed b m_fixed] at h
  · have := physMask_range b m_rotates
    rw [physMask_fixed b n_fixed] at h; omega
  · have := physMask_range b n_rotates
    rw [physMask_fixed b m_fixed] at h; omega
  · rw [physMask_rotating b n_rotates, physMask_rotating b m_rotates] at h; omega

/-- A rotation moves each rotating row to the name above it: what name n read before it, name n + 1 reads after it. -/
theorem physRow_rotate {b n : Nat} (hb : b < 15) (h : 48 ≤ n) (hn : n < 63) : physRow (b + 1) (n + 1) = physRow b n := by
  rw [physRow_rotating _ (by omega), physRow_rotating _ h]; omega

/-- Settles O22: each name below the rotating ones is its own register, and the rotating names are a permutation of the registers above. -/
theorem namesOfRegisters : Obligations.NamesOfRegisters :=
  ⟨sreg_zero, setS_zero, fun b _ => physRow_fixed b, fun b _ h _ => physRow_range b h, fun b _ _ => physRow_injective b,
   fun b _ => physMask_fixed b, fun b _ h _ => physMask_range b h, fun b _ _ => physMask_injective b, fun _ _ => physRow_rotate⟩

end Sys2Proof.Laws
end

section
/-!
SUPPORT. Changes of one warp: what they leave unchanged, and what two of them in a row are.
-/
namespace Sys2Proof.Machine

theorem Tbl.set_set {α : Type} (t : Tbl α) (k : Nat) (a b : α) : (t.set k a).set k b = t.set k b := by
  induction t with
  | nil => simp [Tbl.set]
  | cons p r ih =>
    obtain ⟨j, x⟩ := p
    rcases Nat.lt_trichotomy k j with h | rfl | h
    · simp [Tbl.set, h]
    · simp [Tbl.set]
    · simp [Tbl.set, ih, Nat.lt_asymm h, h.ne]

/-- Two changes of an entry in a row are the change by both. -/
theorem Tbl.modify_modify {α : Type} (t : Tbl α) (k : Nat) (f g : α → α) : (t.modify k f).modify k g = t.modify k fun x => g (f x) := by
  cases h : t.get? k <;> simp [Tbl.modify, h, Tbl.set_set]

theorem State.modWarp_modWarp (s : State) (k : Nat) (f g : Warp → Warp) : (s.modWarp k f).modWarp k g = s.modWarp k fun w => g (f w) := by
  simp only [State.modWarp, Tbl.modify_modify]

/-- The warp under a key that is present. -/
theorem State.warp_of_get? {s : State} {k : Nat} {w : Warp} (h : s.warps.get? k = some w) : s.warp k = w := by
  simp [State.warp, Tbl.getD, h]

/-- A change of one warp changes nothing of the state but that warp. -/
theorem State.modWarp_frame (s : State) (k : Nat) (f : Warp → Warp) :
    sameOutside s (s.modWarp k f) ∧ (s.modWarp k f).cores = s.cores ∧ (s.modWarp k f).groups = s.groups ∧
    ∀ l, l ≠ k → (s.modWarp k f).warps.get? l = s.warps.get? l :=
  ⟨⟨rfl, rfl, rfl, rfl, rfl, rfl, rfl, rfl, rfl⟩, rfl, rfl, fun _ h => Tbl.get?_modify_ne _ _ h.symm⟩

/-- A write of one warp changes nothing of the state but that warp. -/
theorem State.setWarp_frame (s : State) (k : Nat) (w : Warp) :
    sameOutside s (s.setWarp k w) ∧ (s.setWarp k w).cores = s.cores ∧ (s.setWarp k w).groups = s.groups ∧
    ∀ l, l ≠ k → (s.setWarp k w).warps.get? l = s.warps.get? l :=
  ⟨⟨rfl, rfl, rfl, rfl, rfl, rfl, rfl, rfl, rfl⟩, rfl, rfl, fun _ h => Tbl.get?_set_ne _ _ h.symm⟩

end Sys2Proof.Machine
end

section
/-!
SUPPORT. Landing: the bits a result changes, the order in which results land, and what landing leaves unchanged (spec/01 R25, R28; spec/03 R88, R90).
-/
namespace Sys2Proof.Laws

open Sys2Proof Sys2Proof.Machine

/-! ### One result -/

theorem land_row {w : Warp} {f : InFlight} {n ws : Nat} (h : f.reg = .v n ws) :
    w.land f = { w with v := w.v.set n (mixBits (w.v.getD n 0) f.value f.bits) } := by
  simp only [Warp.land, h]

theorem land_sreg {w : Warp} {f : InFlight} {n : Nat} (h : f.reg = .s n) :
    w.land f = { w with s := setS w.s n (mixBits (w.s.getD n 0) (f.value.setWidth 64) (f.bits.setWidth 64)) } := by
  simp only [Warp.land, h]

theorem land_mask {w : Warp} {f : InFlight} {n : Nat} (h : f.reg = .m n) :
    w.land f = { w with m := w.m.set n (mixBits (w.m.getD n 0) (f.value.setWidth 1024) (f.bits.setWidth 1024)) } := by
  simp only [Warp.land, h]

theorem land_row_bits {w : Warp} {f : InFlight} {n ws : Nat} (h : f.reg = .v n ws) :
    (w.land f).v.getD n 0 = (w.v.getD n 0 &&& ~~~f.bits) ||| (f.value &&& f.bits) ∧
    (∀ k, k ≠ n → (w.land f).v.getD k 0 = w.v.getD k 0) ∧ (w.land f).s = w.s ∧ (w.land f).m = w.m := by
  rw [land_row h]
  exact ⟨Tbl.getD_set_self _ _ _ _, fun k hk => Tbl.getD_set_ne _ _ _ hk.symm, rfl, rfl⟩

theorem land_sreg_bits {w : Warp} {f : InFlight} {n : Nat} (h : f.reg = .s n) :
    (∀ k, k ≠ n ∨ n = 0 → (w.land f).s.getD k 0 = w.s.getD k 0) ∧ (w.land f).v = w.v ∧ (w.land f).m = w.m ∧
    (n ≠ 0 → (w.land f).s.getD n 0 = (w.s.getD n 0 &&& ~~~f.bits.setWidth 64) ||| (f.value.setWidth 64 &&& f.bits.setWidth 64)) := by
  rw [land_sreg h]
  refine ⟨fun k hk => ?_, rfl, rfl, fun hn => ?_⟩
  · rcases Nat.eq_zero_or_pos n with rfl | hn
    · rw [setS_zero]
    · rw [setS_pos _ _ hn.ne']
      exact Tbl.getD_set_ne _ _ _ (by omega)
  · rw [setS_pos _ _ hn]
    exact Tbl.getD_set_self _ _ _ _

theorem land_mask_bits {w : Warp} {f : InFlight} {n : Nat} (h : f.reg = .m n) :
    (∀ k, k ≠ n → (w.land f).m.getD k 0 = w.m.getD k 0) ∧ (w.land f).v = w.v ∧ (w.land f).s = w.s ∧
    (w.land f).m.getD n 0 = (w.m.getD n 0 &&& ~~~f.bits.setWidth 1024) ||| (f.value.setWidth 1024 &&& f.bits.setWidth 1024) := by
  rw [land_mask h]
  exact ⟨fun k hk => Tbl.getD_set_ne _ _ _ hk.symm, rfl, rfl, Tbl.getD_set_self _ _ _ _⟩

/-! ### What landing leaves unchanged -/

/-- Something read of a warp that no register table enters, landing leaves as it is. -/
theorem lands_keeps {β : Type} (p : Warp → β) (hp : ∀ (w : Warp) v s m, p { w with v := v, s := s, m := m } = p w) (w : Warp) (l : List InFlight) :
    p (w.lands l) = p w := by
  have one (w : Warp) (f : InFlight) : p (w.land f) = p w := by
    cases h : f.reg with
    | v n ws => rw [land_row h]; exact hp w _ w.s w.m
    | s n => rw [land_sreg h]; exact hp w w.v _ w.m
    | m n => rw [land_mask h]; exact hp w w.v w.s _
  unfold Warp.lands
  induction landOrder l generalizing w with
  | nil => rfl
  | cons f r ih => rw [List.foldl_cons, ih, one]

section Frame

variable (w : Warp)

@[simp] theorem lands_csr (l : List InFlight) : (w.lands l).csr = w.csr := lands_keeps Warp.csr (fun _ _ _ _ => rfl) w l
@[simp] theorem lands_paths (l : List InFlight) : (w.lands l).paths = w.paths := lands_keeps Warp.paths (fun _ _ _ _ => rfl) w l
@[simp] theorem lands_vliw (l : List InFlight) : (w.lands l).vliw = w.vliw := lands_keeps Warp.vliw (fun _ _ _ _ => rfl) w l
@[simp] theorem lands_lp (l : List InFlight) : (w.lands l).lp = w.lp := lands_keeps Warp.lp (fun _ _ _ _ => rfl) w l

@[simp] theorem landAll_inflight : w.landAll.inflight = [] := rfl
@[simp] theorem landAll_csr : w.landAll.csr = w.csr := lands_csr w _
@[simp] theorem landAll_paths : w.landAll.paths = w.paths := lands_paths w _
@[simp] theorem landAll_vliw : w.landAll.vliw = w.vliw := lands_vliw w _
@[simp] theorem landAll_lp : w.landAll.lp = w.lp := lands_lp w _

@[simp] theorem landDue_inflight (now : Nat) : (w.landDue now).inflight = w.inflight.filter fun f => !decide (f.due ≤ now) := rfl
@[simp] theorem landDue_csr (now : Nat) : (w.landDue now).csr = w.csr := lands_csr w _
@[simp] theorem landDue_paths (now : Nat) : (w.landDue now).paths = w.paths := lands_paths w _
@[simp] theorem landDue_vliw (now : Nat) : (w.landDue now).vliw = w.vliw := lands_vliw w _

end Frame

/-! ### The order in which results land -/

/-- The first result falls due no later than the second. -/
abbrev noLater (f g : InFlight) : Prop := f.due ≤ g.due

theorem among_eq_orderedInsert (f : InFlight) (l : List InFlight) : f.among l = l.orderedInsert noLater f := by
  induction l with
  | nil => rfl
  | cons x r ih => simp only [InFlight.among, List.orderedInsert_cons, ih]

/-- Results land in the order of an insertion sort by due count. -/
theorem landOrder_eq_insertionSort (l : List InFlight) : landOrder l = l.insertionSort noLater := by
  induction l with
  | nil => rfl
  | cons f r ih =>
    have : landOrder (f :: r) = f.among (landOrder r) := rfl
    rw [this, among_eq_orderedInsert, ih, List.insertionSort_cons]

theorem landOrder_perm (l : List InFlight) : (landOrder l).Perm l := by
  rw [landOrder_eq_insertionSort]; exact List.perm_insertionSort _ l

theorem landOrder_sorted (l : List InFlight) : (landOrder l).Pairwise noLater := by
  have : Std.Total noLater := ⟨fun f g => Nat.le_total f.due g.due⟩
  have : IsTrans InFlight noLater := ⟨fun _ _ _ => Nat.le_trans⟩
  rw [landOrder_eq_insertionSort]; exact List.pairwise_insertionSort noLater l

/-- Results that fall due together land in issue order: they stand in the landing order as they stood in flight, and there are no others. -/
theorem landOrder_stable (l : List InFlight) (n : Nat) : (landOrder l).filter (fun f => f.due == n) = l.filter fun f => f.due == n := by
  have together : (l.filter fun f => f.due == n).Pairwise noLater :=
    List.pairwise_of_forall_mem_list fun f hf g hg => by simp_all [noLater]
  have sub : (l.filter fun f => f.due == n).Sublist (landOrder l) := by
    rw [landOrder_eq_insertionSort]
    exact List.sublist_insertionSort together List.filter_sublist
  have sub' := sub.filter fun f => f.due == n
  rw [List.filter_filter] at sub'
  simp only [Bool.and_self] at sub'
  exact (sub'.eq_of_length ((landOrder_perm l).filter _).length_eq.symm).symm

/-! ### FIXED_LATENCY_RESULT -/

/-- A path that waited for a result may issue; any other is as it was. -/
def resumed (p : Path) : Path := if p.wait.onResult then { p with wait := .none } else p

/-- A warp whose due results have landed, with the paths that waited for one. -/
def landedWarp (now : Nat) (w : Warp) : Warp := { w.landDue now with paths := (w.landDue now).paths.mapVals fun _ => resumed }

theorem exec_fixedLatencyResult {g sl : Nat} {s : State} {w : Warp} (h : s.warps.get? (slotKey g sl) = some w) :
    exec (.fixedLatencyResult g sl) s = .next (s.setWarp (slotKey g sl) (landedWarp (dueNow s g w) w)) := by
  have : exec (.fixedLatencyResult g sl) s = execFixedLatencyResult g sl s := rfl
  rw [this, execFixedLatencyResult, h]
  rfl

theorem landedWarp_path {now : Nat} {w : Warp} {i : Nat} {p : Path} (h : w.paths.get? i = some p) :
    (landedWarp now w).paths.get? i = some (resumed p) := by
  simp [landedWarp, Tbl.get?_mapVals, h]

/-- Settles O23: one result by the register it names, many by the insertion sort that orders them. -/
theorem resultsLandInTheirBits : Obligations.ResultsLandInTheirBits := by
  refine ⟨fun _ _ _ _ => land_row_bits, fun _ _ _ => land_sreg_bits, fun _ _ _ => land_mask_bits,
    fun w => ⟨landAll_inflight w, landAll_csr w, landAll_paths w, landAll_vliw w⟩, fun g sl s w hw => ?_⟩
  obtain ⟨outside, cores, groups, others⟩ := s.setWarp_frame (slotKey g sl) (landedWarp (dueNow s g w) w)
  refine ⟨_, exec_fixedLatencyResult hw, outside, cores, groups, others, ?_⟩
  intro due x
  have hx : x = landedWarp (dueNow s g w) w := State.setWarp_warp _ _ _
  rw [hx]
  refine ⟨rfl, ⟨landOrder (w.inflight.filter due), landOrder_perm _, landOrder_sorted _, landOrder_stable _, rfl, rfl, rfl⟩,
    landDue_csr w _, landDue_vliw w _, fun i p hp => ?_⟩
  exact landedWarp_path hp

end Sys2Proof.Laws
end

section
/-!
SUPPORT. Trap records and the entry into a handler (spec/01 R37; spec/19 R417 to R419).
-/
namespace Sys2Proof.Laws

open Sys2Proof Sys2Proof.Machine

/-! ### The record -/

theorem rec0Of_toNat (t : Trap) (path : Nat) (vliw : Bool) :
    (rec0Of t path vliw).toNat =
      (t.cause % 2 ^ 8) * 2 ^ 56 + (t.slots % 2 ^ 11) * 2 ^ 45 + (path % 2 ^ 5) * 2 ^ 40 + (if vliw then 2 ^ 39 else 0) + t.info % 2 ^ 39 := by
  cases vliw <;> simp only [rec0Of, b2n, BitVec.toNat_ofNat, if_true, Bool.false_eq_true, if_false] <;> omega

/-- The words of a number of four words, the lowest first. -/
theorem append_words (a b c d : BitVec 64) :
    (a ++ b ++ c ++ d).extractLsb' 0 64 = d ∧ (a ++ b ++ c ++ d).extractLsb' 64 64 = c ∧
    (a ++ b ++ c ++ d).extractLsb' 128 64 = b ∧ (a ++ b ++ c ++ d).extractLsb' 192 64 = a := by
  have low {n m : Nat} (x : BitVec m) (y : BitVec n) : (x ++ y).extractLsb' 0 n = y := BitVec.extractLsb'_append_eq_right
  have high {n m : Nat} (x : BitVec m) (y : BitVec n) (k : Nat) (h : n ≤ k) : (x ++ y).extractLsb' k 64 = x.extractLsb' (k - n) 64 :=
    BitVec.extractLsb'_append_eq_of_le h
  refine ⟨low _ _, ?_, ?_, ?_⟩
  · rw [high _ _ _ (by decide)]; exact low _ _
  · rw [high _ _ _ (by decide), high _ _ _ (by decide)]; exact low _ _
  · rw [high _ _ _ (by decide), high _ _ _ (by decide), high _ _ _ (by decide)]; exact BitVec.extractLsb'_eq_self

/-- The trap registers of a warp whose record has been written: the four words of the record. -/
theorem setRecord_recordOf (w : Warp) (t : Trap) (path : Nat) (vliw : Bool) (pc ccnt : Nat) :
    w.setRecord (recordOf t path vliw pc ccnt) =
      { w with csr := { w.csr with rec0 := rec0Of t path vliw, rec1 := BitVec.ofNat 64 (pc % 2 ^ 57), rec2 := BitVec.ofNat 64 (t.addr % 2 ^ 57),
                                   rec3 := BitVec.ofNat 64 ccnt } } := by
  obtain ⟨h0, h1, h2, h3⟩ := append_words (BitVec.ofNat 64 ccnt) (BitVec.ofNat 64 (t.addr % 2 ^ 57)) (BitVec.ofNat 64 (pc % 2 ^ 57)) (rec0Of t path vliw)
  simp only [Warp.setRecord, recordOf, h0, h1, h2, h3]

/-- The trap registers of a warp hold the record of a trap, field by field (spec/01 R37). -/
def holdsRecord (x : Warp) (t : Trap) (path : Nat) (vliw : Bool) (pc ccnt : Nat) : Prop :=
  x.csr.rec0.toNat = (t.cause % 2 ^ 8) * 2 ^ 56 + (t.slots % 2 ^ 11) * 2 ^ 45 + (path % 2 ^ 5) * 2 ^ 40 + (if vliw then 2 ^ 39 else 0) + t.info % 2 ^ 39 ∧
  x.csr.rec1.toNat = pc % 2 ^ 57 ∧ x.csr.rec2.toNat = t.addr % 2 ^ 57 ∧ x.csr.rec3.toNat = ccnt % 2 ^ 64

theorem setRecord_holdsRecord (w : Warp) (t : Trap) (path : Nat) (vliw : Bool) (pc ccnt : Nat) :
    holdsRecord (w.setRecord (recordOf t path vliw pc ccnt)) t path vliw pc ccnt := by
  rw [setRecord_recordOf]
  refine ⟨rec0Of_toNat t path vliw, ?_, ?_, BitVec.toNat_ofNat _ _⟩
  · rw [BitVec.toNat_ofNat]; omega
  · rw [BitVec.toNat_ofNat]; omega

/-! ### The handler table -/

/-- An entry gives its offset in a view when its valid bit of that view is set and its reserved bits are clear. -/
theorem handlerEntry_eq_some (c : Core) (cause : Nat) (vliw : Bool) (off : Nat) : handlerEntry c cause vliw = some off ↔
    let e := c.locked.toNat / 2 ^ (64 * cause) % 2 ^ 64
    e.testBit (if vliw then 62 else 63) = true ∧ e / 2 ^ 46 % 2 ^ 16 = 0 ∧ e / 2 ^ 14 % 2 ^ 18 = 0 ∧
    off = (if vliw then e / 2 ^ 32 % 2 ^ 14 else e % 2 ^ 14) := by
  have he : lockedNat c (8 * cause) 8 = c.locked.toNat / 2 ^ (64 * cause) % 2 ^ 64 := by
    rw [lockedNat, vbits, bits, Nat.shiftRight_eq_div_pow, show 8 * (8 * cause) = 64 * cause by omega]
  simp only [handlerEntry, he]
  generalize c.locked.toNat / 2 ^ (64 * cause) % 2 ^ 64 = e
  simp only [Option.ite_none_right_eq_some, Option.some.injEq, Bool.and_eq_true, Bool.not_eq_true', Bool.or_eq_false_iff, bne_eq_false_iff_eq, bits, bit,
    Nat.shiftRight_eq_div_pow, and_assoc, pow_zero, Nat.div_one, eq_comm (b := off)]
  cases vliw <;> rfl

/-! ### The entry -/

/-- A trap that a handler may take: neither PAGEPERM nor UE. -/
def mayHandle (t : Trap) : Prop := t.cause ≠ causePAGEPERM ∧ t.cause ≠ causeUE

theorem path_handles {t : Trap} (h : mayHandle t) (g sl i : Nat) : alwaysDiscards t (.path g sl i) false = false := by
  simp [alwaysDiscards, h.1, h.2]

theorem thread_handles {t : Trap} (h : mayHandle t) (g sl : Nat) : alwaysDiscards t (.thread g sl) false = false := by
  simp [alwaysDiscards, h.1, h.2]

/-- A path that goes on in its handler. -/
def pathInHandler (off : Nat) (p : Path) : Path :=
  { p with pc := off, locked := true, wait := .none, synced := none, slept := false, released := false, steps := 0 }

/-- A warp whose path `i` enters a handler with the record `r`. -/
def pathEnters (r : BitVec 256) (i off : Nat) (w : Warp) : Warp :=
  { w.landAll.setRecord r with handler := some i, paths := w.landAll.paths.modify i (pathInHandler off) }

/-- A VLIW thread's warp that enters a handler with the record `r`. -/
def threadEnters (r : BitVec 256) (off : Nat) (w : Warp) : Warp :=
  { w.landAll.setRecord r with handler := some 0, vliw := w.landAll.vliw.map fun x => x.inHandler off }

theorem takeTrap_path {s : State} {g sl i pc off : Nat} {t : Trap} (ht : mayHandle t) (hh : (s.warp (warpKey g sl)).handler = none)
    (he : handlerEntry (s.core (g / 2)) t.cause false = some off) :
    s.takeTrap (.path g sl i) pc false t = s.modWarp (warpKey g sl) (pathEnters (recordOf t i false pc s.ccnt) i off) := by
  simp only [State.takeTrap, hh, partyCore, he, path_handles ht, Option.isSome_none, Bool.false_and, Bool.false_eq_true, if_false, State.modWarp_modWarp]
  rfl

theorem takeTrap_thread {s : State} {g sl pc off : Nat} {t : Trap} (ht : mayHandle t)
    (he : handlerEntry (s.core (g / 2)) t.cause true = some off) :
    s.takeTrap (.thread g sl) pc false t = s.modWarp (warpKey g sl) (threadEnters (recordOf t 0 true pc s.ccnt) off) := by
  simp only [State.takeTrap, partyCore, he, thread_handles ht, State.modWarp_modWarp]
  rfl

/-- A trapping path stands in its handler, with its threads and its reconvergence address as they were. -/
theorem pathEnters_path (r : BitVec 256) {i : Nat} (off : Nat) {w : Warp} {p : Path} (h : w.paths.get? i = some p) :
    (pathEnters r i off w).paths.get? i = some (pathInHandler off p) := by
  simp [pathEnters, h]

theorem pathEnters_path_ne (r : BitVec 256) {i j : Nat} (off : Nat) (w : Warp) (h : j ≠ i) : (pathEnters r i off w).paths.get? j = w.paths.get? j := by
  simp [pathEnters, Tbl.get?_modify_ne _ _ h.symm]

theorem threadEnters_vliw (r : BitVec 256) (off : Nat) {w : Warp} {v : Vliw} (h : w.vliw = some v) :
    (threadEnters r off w).vliw = some (v.inHandler off) := by
  simp [threadEnters, h]

/-- The entry keeps the CSRs beside the trap record. -/
theorem pathEnters_satf (r : BitVec 256) (i off : Nat) (w : Warp) : (pathEnters r i off w).csr.satf = w.csr.satf := by
  rw [← landAll_csr w]; rfl
theorem pathEnters_rmode (r : BitVec 256) (i off : Nat) (w : Warp) : (pathEnters r i off w).csr.rmode = w.csr.rmode := by
  rw [← landAll_csr w]; rfl

/-- Settles O32: taking a handled trap is one change of the issuer's warp, `pathEnters` or `threadEnters`. -/
theorem handledTrapsEnterTheHandler : Obligations.HandledTrapsEnterTheHandler := by
  refine ⟨fun s g sl i pc t off x p hx hp hh ht he => ?_, fun s g sl pc t off x v hx hv ht he => ?_, handlerEntry_eq_some⟩
  · have hw := State.warp_of_get? hx
    rw [takeTrap_path ht (by rw [hw, hh]) he]
    obtain ⟨outside, cores, groups, others⟩ := s.modWarp_frame (warpKey g sl) (pathEnters (recordOf t i false pc s.ccnt) i off)
    refine ⟨outside, cores, groups, others, ?_⟩
    rw [State.modWarp_warp _ _ _ (by rw [hx]; rfl), hw]
    exact ⟨setRecord_holdsRecord _ _ _ _ _ _, rfl, rfl, rfl, rfl, rfl, pathEnters_satf _ _ _ x, pathEnters_rmode _ _ _ x, landAll_lp x,
      fun j hj => pathEnters_path_ne _ _ _ hj, _, pathEnters_path _ _ hp, rfl, rfl, rfl, rfl, rfl⟩
  · have hw := State.warp_of_get? hx
    rw [takeTrap_thread ht he]
    obtain ⟨outside, cores, groups, others⟩ := s.modWarp_frame (warpKey g sl) (threadEnters (recordOf t 0 true pc s.ccnt) off)
    refine ⟨outside, cores, groups, others, ?_⟩
    rw [State.modWarp_warp _ _ _ (by rw [hx]; rfl), hw]
    exact ⟨setRecord_holdsRecord _ _ _ _ _ _, rfl, rfl, rfl, rfl, rfl, _, threadEnters_vliw _ _ hv, rfl, rfl, rfl, rfl⟩

end Sys2Proof.Laws
end

section
/-!
SUPPORT. Floats: the grid of values a format represents and rounding on it (spec/02 R45, R46, R56), and the sign and order of patterns (spec/06 R155).
-/
namespace Sys2Proof.Laws

open Sys2Proof Sys2Proof.Machine

/-! ### Rounding to the grid of a format -/

/-- `m 2^e` lies on the grid of the format, its exponent range unbounded above: `m` has at most `man + 1` bits, and it has all of them unless `e` is the exponent
of the subnormals (spec/02 R45, R56). -/
structure OnGrid (f : Fmt) (m : Nat) (e : Int) : Prop where
  fits : m < 2 ^ (f.man + 1)
  least : 1 - (f.bias : Int) - f.man ≤ e
  full : e = 1 - (f.bias : Int) - f.man ∨ 2 ^ f.man ≤ m

/-- The magnitude bits that encode `m 2^e`: each exponent above the subnormals' adds one to the exponent field, and the hidden bit of `m` the first one. -/
def magBits (f : Fmt) (m : Nat) (e : Int) : Nat := (e + f.man + f.bias - 1).toNat * 2 ^ f.man + m

/-- A multiple of 2^q needs no rounding to one. -/
theorem roundMag_exact (mode : RMode) (rnd : Nat) (neg : Bool) (m : Nat) (q : Int) : roundMag mode rnd ⟨neg, m, q, false⟩ q = m := by
  have up : roundsUp mode rnd ⟨neg, m, q, false⟩ q = false := by simp [roundsUp, Nat.mod_one]
  simp [roundMag, up, b2n]

/-- The quantum `roundTo` rounds a value of the grid to is the value's own exponent. -/
theorem OnGrid.quantum {f : Fmt} {m : Nat} {e : Int} (h : OnGrid f m e) (hm : m ≠ 0) :
    max ((bitLen m : Int) - 1 + e - f.man) (1 - (f.bias : Int) - f.man) = e := by
  obtain ⟨fits, least, full⟩ := h
  have top : m.log2 < f.man + 1 := (Nat.log2_lt hm).2 fits
  rw [bitLen, if_neg hm]
  rcases full with sub | full
  · omega
  · have : f.man ≤ m.log2 := (Nat.le_log2 hm).2 full
    omega

/-- A nonzero value on the grid and in the range of the format is its own rounding, without a flag, in every mode. -/
theorem OnGrid.roundTo {f : Fmt} {m : Nat} {e : Int} (h : OnGrid f m e) (hm : m ≠ 0) (range : magBits f m e ≤ f.maxMag)
    (mode : RMode) (rnd : Nat) (neg : Bool) : roundTo f mode rnd ⟨neg, m, e, false⟩ = (f.signBit neg + magBits f m e, 0) := by
  have mag : (if m < 2 ^ f.man then m else (e + f.man + f.bias - 1).toNat * 2 ^ f.man + m) = magBits f m e := by
    split
    case isTrue small =>
      have sub : e + f.man + f.bias - 1 = 0 := by have := h.full; omega
      simp [magBits, sub]
    case isFalse => rfl
  simp only [Machine.roundTo, h.quantum hm, roundMag_exact, mag, if_neg (Nat.not_lt.2 range)]

/-! ### Patterns and their values -/

/-- A pattern is its sign bit and its magnitude bits. -/
theorem signBit_add_fMag {f : Fmt} (hw : 0 < f.width) {x : Nat} (hx : x < 2 ^ f.width) : f.signBit (fSign f x) + fMag f x = x := by
  obtain ⟨n, hn⟩ : ∃ n, f.width = n + 1 := ⟨f.width - 1, by omega⟩
  have quot : x / 2 ^ n < 2 := Nat.div_lt_of_lt_mul (by rwa [hn, pow_succ] at hx)
  have parts : 2 ^ n * (x / 2 ^ n) + x % 2 ^ n = x := Nat.div_add_mod x (2 ^ n)
  simp only [Fmt.signBit, fSign, fMag, hn, Nat.add_sub_cancel, Nat.testBit_eq_decide_div_mod_eq]
  rcases Nat.le_one_iff_eq_zero_or_eq_one.1 (Nat.le_of_lt_succ quot) with h | h <;> simpa [h] using parts

/-- Neither NaN nor infinity: the magnitude bits are at most those of the largest finite value (spec/02 R46). -/
theorem fMag_le_maxMag {f : Fmt} {x : Nat} (nan : isNaN f x = false) (inf : isInf f x = false) : fMag f x ≤ f.maxMag := by
  have below : fMag f x < 2 ^ (f.width - 1) := Nat.mod_lt _ (by positivity)
  cases hs : f.specials with
  | ieee =>
    simp only [isNaN, isInf, hs, decide_eq_false_iff_not, beq_eq_false_iff_ne] at nan inf
    simp only [Fmt.maxMag, hs]
    exact Nat.le_sub_one_of_lt (by unfold Fmt.infMag at nan inf; omega)
  | nanOnly =>
    simp only [isNaN, hs, beq_eq_false_iff_ne] at nan
    simp only [Fmt.maxMag, hs]
    omega
  | none =>
    simp only [Fmt.maxMag, hs]
    omega

/-- A finite value has the pattern's sign, lies on the format's grid and within its range, and is encoded by the pattern's magnitude bits. -/
theorem fDecode_fin {f : Fmt} {x : Nat} {neg : Bool} {m : Nat} {e : Int} (h : fDecode f x = .fin neg m e) :
    neg = fSign f x ∧ OnGrid f m e ∧ magBits f m e = fMag f x ∧ fMag f x ≤ f.maxMag := by
  cases nan : isNaN f x with
  | true => simp [fDecode, nan] at h
  | false =>
  cases inf : isInf f x with
  | true => simp [fDecode, nan, inf] at h
  | false =>
  have low : fMag f x % 2 ^ f.man < 2 ^ f.man := Nat.mod_lt _ (by positivity)
  have parts : fMag f x / 2 ^ f.man * 2 ^ f.man + fMag f x % 2 ^ f.man = fMag f x := Nat.div_add_mod' ..
  have range := fMag_le_maxMag nan inf
  simp only [fDecode, nan, inf, Bool.false_eq_true, if_false, Nat.shiftRight_eq_div_pow] at h
  generalize fMag f x / 2 ^ f.man = k at h parts
  generalize fMag f x % 2 ^ f.man = l at h parts low
  split at h
  case isTrue sub =>
    obtain ⟨rfl, rfl, rfl⟩ := h
    refine ⟨rfl, ⟨by omega, le_refl _, .inl rfl⟩, ?_, range⟩
    rw [magBits, ← parts, sub]
    simp
  case isFalse normal =>
    obtain ⟨rfl, rfl, rfl⟩ := h
    refine ⟨rfl, ⟨by omega, by omega, .inr (Nat.le_add_left _ _)⟩, ?_, range⟩
    obtain ⟨k, rfl⟩ := Nat.exists_eq_succ_of_ne_zero normal
    have field : ((k.succ : Nat) : Int) - f.bias - f.man + f.man + f.bias - 1 = k := by omega
    rw [magBits, ← parts, field, Int.toNat_natCast, Nat.succ_mul]
    omega

/-- A finite nonzero value that a format represents rounds to its own pattern, without a flag. -/
theorem roundTo_fDecode {f : Fmt} (hw : 0 < f.width) {x : Nat} (hx : x < 2 ^ f.width) {neg : Bool} {m : Nat} {e : Int}
    (h : fDecode f x = .fin neg m e) (hm : m ≠ 0) (mode : RMode) (rnd : Nat) : roundTo f mode rnd ⟨neg, m, e, false⟩ = (x, 0) := by
  obtain ⟨rfl, grid, mag, range⟩ := fDecode_fin h
  rw [grid.roundTo hm (mag ▸ range), mag, signBit_add_fMag hw hx]

/-! ### The sign bit -/

@[simp] theorem fMag_flipSign (f : Fmt) (x : Nat) : fMag f (x ^^^ 2 ^ (f.width - 1)) = fMag f x := by
  simp [fMag, Nat.xor_mod_two_pow]

@[simp] theorem fSign_flipSign (f : Fmt) (x : Nat) : fSign f (x ^^^ 2 ^ (f.width - 1)) = !fSign f x := by
  simp [fSign, Nat.testBit_xor, Nat.testBit_two_pow_self]

@[simp] theorem fMag_clearSign (f : Fmt) (x : Nat) : fMag f (x % 2 ^ (f.width - 1)) = fMag f x := Nat.mod_mod _ _

@[simp] theorem fSign_clearSign (f : Fmt) (x : Nat) : fSign f (x % 2 ^ (f.width - 1)) = false :=
  Nat.testBit_lt_two_pow (Nat.mod_lt _ (by positivity))

/-! ### The smaller and the larger of two patterns -/

theorem isNaN_of_fMag_eq_zero {f : Fmt} (hf : f.specials = .ieee) {x : Nat} (hx : fMag f x = 0) : isNaN f x = false := by
  simp [isNaN, hf, hx]

theorem fRank_negZero (f : Fmt) : fRank f (2 ^ (f.width - 1)) = -1 := by
  simp [fRank, fSign, fMag, Nat.testBit_two_pow_self]

theorem fRank_posZero (f : Fmt) : fRank f 0 = 0 := by simp [fRank, fSign, fMag]

theorem fMinMax_of_not_nan {f : Fmt} {a b : Nat} (ha : isNaN f a = false) (hb : isNaN f b = false) (isMax : Bool) :
    fMinMax f isMax a b = if (fRank f a < fRank f b) != isMax then a else b := by
  simp [fMinMax, ha, hb]

/-- -0 goes below +0. -/
theorem fMinMax_zeros {f : Fmt} (hf : f.specials = .ieee) (isMax : Bool) :
    fMinMax f isMax (2 ^ (f.width - 1)) 0 = if isMax then 0 else 2 ^ (f.width - 1) := by
  rw [fMinMax_of_not_nan (isNaN_of_fMag_eq_zero hf (Nat.mod_self _)) (isNaN_of_fMag_eq_zero hf (Nat.zero_mod _)), fRank_negZero, fRank_posZero]
  cases isMax <;> rfl

theorem fMinMax_nan_left {f : Fmt} {a b : Nat} (ha : isNaN f a = true) (hb : isNaN f b = false) (isMax : Bool) : fMinMax f isMax a b = b := by
  simp [fMinMax, ha, hb]

theorem fMinMax_nan_right {f : Fmt} {a b : Nat} (ha : isNaN f a = false) (hb : isNaN f b = true) (isMax : Bool) : fMinMax f isMax a b = a := by
  simp [fMinMax, ha, hb]

theorem float_width_pos : ∀ f ∈ [Fmt.f64, .f32, .f16, .bf16, .f8e4, .f8e5, .f6e3, .f4e2], 0 < f.width := by decide

theorem float_ieee : ∀ f ∈ [Fmt.f64, .f32, .f16, .bf16], f.specials = .ieee := by decide

/-- Settles O13: a pattern's value lies on the grid that rounding rounds to, and its magnitude bits are the value's. -/
theorem roundingAndOrderOfFloats : Obligations.RoundingAndOrderOfFloats := by
  refine ⟨fun f hf mode rnd x hx neg m e h hm => roundTo_fDecode (float_width_pos f hf) hx h hm mode rnd, fun f hf => ⟨fun m => ?_, fun x _ => ?_⟩⟩
  · have ieee := float_ieee f hf
    refine ⟨fMinMax_zeros ieee false, fMinMax_zeros ieee true, fun x number nan => ?_⟩
    exact ⟨fMinMax_nan_left nan number _, fMinMax_nan_right number nan _, fMinMax_nan_left nan number _, fMinMax_nan_right number nan _⟩
  · exact ⟨fMag_flipSign f x, fSign_flipSign f x, fMag_clearSign f x, fSign_clearSign f x⟩

end Sys2Proof.Laws
end

section
/-!
SUPPORT. Encoding and decoding are inverse on legal words: operand specifiers (spec/03 R79), the fields of the word (R72), the literal word
(R74, R80).
-/
namespace Sys2Proof.Laws

open Sys2Proof Sys2Proof.Machine

/-! ### The fields of a word -/

/-- A specifier is its class, bits 9:8, with the number or index below it. -/
theorem decodeSpec_encodeSpec (o : Operand) : decodeSpec (encodeSpec o) = some o := by
  cases o with
  | vec k n =>
    obtain ⟨hx, hc, hk⟩ : (64 * k.val + n.val) % 1024 = 64 * k.val + n.val ∧ (64 * k.val + n.val) / 256 = 0 ∧
      (64 * k.val + n.val) / 64 % 4 = k.val := by omega
    simp [decodeSpec, encodeSpec, hx, hc, hk, Nat.mod_eq_of_lt n.isLt]
  | sreg n =>
    obtain ⟨hx, hc, hk, hn⟩ : (256 + n.val) % 1024 = 256 + n.val ∧ (256 + n.val) / 256 = 1 ∧ (256 + n.val) / 64 % 4 = 0 ∧
      (256 + n.val) % 64 = n.val := by omega
    simp [decodeSpec, encodeSpec, hx, hc, hk, hn]
  | mask i =>
    obtain ⟨hx, hc, hi⟩ : (512 + i.val) % 1024 = 512 + i.val ∧ (512 + i.val) / 256 = 2 ∧ (512 + i.val) % 256 = i.val := by omega
    simp [decodeSpec, encodeSpec, hx, hc, hi]
  | special i =>
    obtain ⟨hx, hc, hi⟩ : (528 + i.val) % 1024 = 528 + i.val ∧ (528 + i.val) / 256 = 2 ∧ (528 + i.val) % 256 = 16 + i.val := by omega
    simp [decodeSpec, encodeSpec, hx, hc, hi]
  | small n =>
    obtain ⟨hx, hc, hk⟩ : (768 + n.toNat) % 1024 = 768 + n.toNat ∧ (768 + n.toNat) / 256 = 3 ∧ (768 + n.toNat) / 64 % 4 < 2 := by omega
    have hn : BitVec.ofNat 7 (768 + n.toNat) = n := by bv_omega
    simp [decodeSpec, encodeSpec, hx, hc, hk, hn]
  | lit p j =>
    cases p with
    | false =>
      obtain ⟨hx, hc, hk, hj⟩ : (896 + j.val) % 1024 = 896 + j.val ∧ (896 + j.val) / 256 = 3 ∧ (896 + j.val) / 64 % 4 = 2 ∧
        (896 + j.val) % 64 = j.val := by omega
      simp [decodeSpec, encodeSpec, hx, hc, hk, hj]
    | true =>
      obtain ⟨hx, hc, hk, hj⟩ : (960 + j.val) % 1024 = 960 + j.val ∧ (960 + j.val) / 256 = 3 ∧ (960 + j.val) / 64 % 4 = 3 ∧
        (960 + j.val) % 64 = j.val := by omega
      simp [decodeSpec, encodeSpec, hx, hc, hk, hj]

/-- A field above the lowest one is a field of the rest. -/
theorem field_above {m n : Nat} {hi : BitVec m} {lo : BitVec n} {start len : Nat} {x : BitVec len} (h : hi.extractLsb' start len = x) :
    (hi ++ lo).extractLsb' (n + start) len = x := by
  rw [BitVec.extractLsb'_append_eq_of_le (Nat.le_add_right _ _), Nat.add_sub_cancel_left, h]

/-- The fields of a word read as they were written: each is reached past those below it. -/
theorem rawOf_encodeWord {op : Nat} (h : op < 256) (w : IWord) (literal : Bool) (lits : List Word32) :
    rawOf (encodeWord op w literal) lits = .ofIWord op { w with lits := lits } := by
  have c : (encodeWord op w literal).extractLsb' 1 10 = encodeSpec w.c := field_above BitVec.extractLsb'_append_eq_right
  have b : (encodeWord op w literal).extractLsb' 11 10 = encodeSpec w.b := field_above <| field_above BitVec.extractLsb'_append_eq_right
  have a : (encodeWord op w literal).extractLsb' 21 10 = encodeSpec w.a :=
    field_above <| field_above <| field_above BitVec.extractLsb'_append_eq_right
  have d : (encodeWord op w literal).extractLsb' 31 10 = encodeSpec w.d :=
    field_above <| field_above <| field_above <| field_above BitVec.extractLsb'_append_eq_right
  have pred : (encodeWord op w literal).extractLsb' 41 5 = w.pred :=
    field_above <| field_above <| field_above <| field_above <| field_above BitVec.extractLsb'_append_eq_right
  have stall : (encodeWord op w literal).extractLsb' 46 4 = w.stall :=
    field_above <| field_above <| field_above <| field_above <| field_above <| field_above BitVec.extractLsb'_append_eq_right
  have ext : (encodeWord op w literal).extractLsb' 50 6 = w.ext :=
    field_above <| field_above <| field_above <| field_above <| field_above <| field_above <| field_above BitVec.extractLsb'_append_eq_right
  have opcode : (encodeWord op w literal).extractLsb' 56 8 = BitVec.ofNat 8 op :=
    field_above <| field_above <| field_above <| field_above <| field_above <| field_above <| field_above BitVec.extractLsb'_append_eq_left
  simp only [rawOf, Raw.ofIWord, opcode, ext, stall, pred, d, a, b, c, decodeSpec_encodeSpec, BitVec.toNat_ofNat, Nat.mod_eq_of_lt h]

/-- The lowest bit of a word is W. -/
theorem wBit_encodeWord (op : Nat) (w : IWord) (literal : Bool) : wBit (encodeWord op w literal) = literal := by
  have low : (encodeWord op w literal).extractLsb' 0 1 = BitVec.ofBool literal := BitVec.extractLsb'_append_eq_right
  simpa [wBit] using congrArg (·.getLsbD 0) low

theorem litHalves_append (hi lo : Word32) : litHalves (hi ++ lo) = [lo, hi] := by
  rw [litHalves, BitVec.extractLsb'_append_eq_right, BitVec.extractLsb'_append_eq_left]

/-! ### Legal words -/

/-- What a legal instruction is: its opcode and fields meet no condition, and its constructor is the one that they name. -/
theorem legalIn_iff {v : View} {rows : Nat} {i : Instr} : legalIn v rows i = true ↔
    ∃ op w f, instrParts i = some (op, w) ∧ violations v rows (.ofIWord op w) = [] ∧ formOf v op w.ext.toNat w.b = .form f ∧ f.ctor w = i ∧
      (v.inSlot = true ∨ w.lits.length = 0 ∨ w.lits.length = 2) := by
  unfold legalIn
  cases hp : instrParts i with
  | none => simp
  | some p =>
    obtain ⟨op, w⟩ := p
    cases hf : formOf v op w.ext.toNat w.b <;> simp [hf, and_assoc, or_assoc]

/-- No form has an opcode from 0xF0 up. -/
theorem formOf_opcode {v : View} {op ext : Nat} {b : Operand} {f : Form} (h : formOf v op ext b = .form f) : op < 256 := by
  by_contra hop
  obtain ⟨n, hn⟩ : ∃ n, op / 16 = n + 16 := ⟨op / 16 - 16, by omega⟩
  simp [formOf, hn] at h

/-- The fields of a legal word decode to its instruction. -/
theorem decodeRaw_legal {v : View} {rows op : Nat} {w : IWord} {f : Form} (hv : violations v rows (.ofIWord op w) = [])
    (hf : formOf v op w.ext.toNat w.b = .form f) : decodeRaw v rows (.ofIWord op w) = .ok (f.ctor w) := by
  unfold decodeRaw
  rw [hv]
  simp [Raw.ofIWord, Raw.toIWord, hf]

/-- A legal word decodes to its instruction, given the literal words that its W bit says follow. -/
theorem decodeWord_encodeWord {v : View} {rows op : Nat} {w : IWord} {f : Form} {literal : Bool} {next : Word64}
    (hv : violations v rows (.ofIWord op w) = []) (hf : formOf v op w.ext.toNat w.b = .form f)
    (lits : (if literal then litHalves next else []) = w.lits) : decodeWord v rows (encodeWord op w literal) next = .ok (f.ctor w) := by
  rw [decodeWord, wBit_encodeWord, lits, rawOf_encodeWord (formOf_opcode hf)]
  exact decodeRaw_legal hv hf

/-- Settles O1: a legal instruction has no literal word, or the two halves of one, and either way its words decode to it. -/
theorem decodeOfEncodeIsIdentity : Obligations.DecodeOfEncodeIsIdentity := by
  intro v hv rows i legal next
  obtain ⟨op, w, f, parts, valid, form, rfl, lits⟩ := legalIn_iff.mp legal
  have alone : v.inSlot = false := by rcases hv with rfl | rfl <;> rfl
  simp only [alone, Bool.false_eq_true, false_or, List.length_eq_zero_iff, List.length_eq_two] at lits
  rcases lits with none | ⟨lo, hi, pair⟩
  · have words : encode (f.ctor w) = [encodeWord op w false] := by simp [encode, encodeLit, parts, none]
    exact ⟨_, [], words, decodeWord_encodeWord valid form (by simp [none]), by simp [wordSize, wBit_encodeWord, words]⟩
  · have words : encode (f.ctor w) = [encodeWord op w true, hi ++ lo] := by simp [encode, encodeLit, parts, pair]
    exact ⟨_, [hi ++ lo], words, decodeWord_encodeWord valid form (by simp [litHalves_append, pair]), by simp [wordSize, wBit_encodeWord, words]⟩

/-- Settles O2: the word names its literals in the pool, and decodes with it. -/
theorem decodeOfEncodeInSlotIsIdentity : Obligations.DecodeOfEncodeInSlotIsIdentity := by
  intro sl rows i legal
  obtain ⟨op, w, f, parts, valid, form, rfl, -⟩ := legalIn_iff.mp legal
  refine ⟨op, w, encodeWord op w false, parts, by simp [encodeSlot, parts], ?_⟩
  simp only [decodeSlot, rawOf_encodeWord (formOf_opcode form), decodeRaw_legal valid form, wBit_encodeWord]
  rfl

end Sys2Proof.Laws
end

section
/-!
SUPPORT. Items without an operation: an empty bundle and an empty run only count an issue slot of their context and move its position
(spec/03 R83, R88).
-/
namespace Sys2Proof.Laws

open Sys2Proof Sys2Proof.Machine

/-! ### Counting an issue changes no warp and nothing outside the issuers -/

theorem sameOutside_trans {s t u : State} (h : sameOutside s t) (k : sameOutside t u) : sameOutside s u := by
  obtain ⟨h1, h2, h3, h4, h5, h6, h7, h8, h9⟩ := h
  obtain ⟨k1, k2, k3, k4, k5, k6, k7, k8, k9⟩ := k
  exact ⟨k1.trans h1, k2.trans h2, k3.trans h3, k4.trans h4, k5.trans h5, k6.trans h6, k7.trans h7, k8.trans h8, k9.trans h9⟩

theorem account_outside (s : State) (p : Party) (pc : Nat) (l : List (Slot × Nat)) : sameOutside s (s.account p pc l) := by
  unfold State.account
  split <;> exact ⟨rfl, rfl, rfl, rfl, rfl, rfl, rfl, rfl, rfl⟩

theorem takePorts_outside (s : State) (p : Party) (x : Ports) : sameOutside s (s.takePorts p x) := by
  unfold State.takePorts
  split <;> exact ⟨rfl, rfl, rfl, rfl, rfl, rfl, rfl, rfl, rfl⟩

theorem serviceSlot_outside (s : State) (p : Party) (b : Bool) : sameOutside s (s.serviceSlot p b) := by
  unfold State.serviceSlot
  split <;> exact ⟨rfl, rfl, rfl, rfl, rfl, rfl, rfl, rfl, rfl⟩

/-- An item without an operation takes its place in the cycle. -/
abbrev emptyCounted (s : State) (c : Cur) : State := ((s.account c.party c.pc []).takePorts c.party ⟨0, 0, []⟩).serviceSlot c.party true

theorem emptyCounted_warps (s : State) (c : Cur) : (emptyCounted s c).warps = s.warps := by simp [emptyCounted]

theorem emptyCounted_outside (s : State) (c : Cur) : sameOutside s (emptyCounted s c) :=
  sameOutside_trans (account_outside _ _ _ _) (sameOutside_trans (takePorts_outside _ _ _) (serviceSlot_outside _ _ _))

/-! ### The end of an item with no loop -/

theorem modWarp_of_get? {s : State} {k : Nat} {w : Warp} (h : s.warps.get? k = some w) (f : Warp → Warp) : s.modWarp k f = s.setWarp k (f w) := by
  simp only [State.modWarp, State.setWarp, Tbl.modify, h]

/-- With an empty loop stack nothing follows the item. -/
theorem endItem_noLoop {e : Env} {s : State} {w : Warp} (after : Nat) (f : Warp → Warp) (hw : s.warps.get? e.key = some w)
    (hl : (f w).vliw.map (·.loops) = some []) : endItem e after (s.modWarp e.key f) = some (s.setWarp e.key (f w)) := by
  obtain ⟨x, hx, hl⟩ := Option.map_eq_some_iff.mp hl
  have stands : (s.setWarp e.key (f w)).warps.get? e.key = some (f w) := Tbl.get?_set_self _ _ _
  have ends : loopEnd (s.setWarp e.key (f w)) e.key e.pc e.depth (fun _ => after) = s.setWarp e.key (f w) := by
    rw [loopEnd, modWarp_of_get? stands]
    simp only [hx, hl, State.setWarp, Tbl.set_set]
  have stays : loopReturns (s.setWarp e.key (f w)) e.key e.pc e.depth = false := by
    simp only [loopReturns, State.warp_of_get? stands, hx, hl]
  rw [modWarp_of_get? hw]
  unfold endItem
  rw [ends, stays]
  cases e.lpMode <;> rfl

/-! ### The two items -/

/-- A context of a VLIW stream: a thread, or a lane group's service context. -/
def isContext (p : Party) : Prop := match p with | .thread _ _ => True | .service _ => True | _ => False

theorem logDecisions_none {s : State} {e : Env} (hp : isContext e.party) (h : e.decisions s = 0) : s.logDecisions e = s := by
  unfold State.logDecisions
  cases hq : e.party with
  | path g sl i => simp [isContext, hq] at hp
  | thread g sl => simp [h]
  | service g => rfl
  | seq n => rfl

theorem exec_bundleIssue {s : State} {c : Cur} (hc : s.cur = some c) (hp : isContext c.party) (h : Word64) (slots : List Word64)
    (pool : List Word32) : exec (.bundleIssue h slots pool) s = .next (issueBundle ⟨h, slots, pool⟩ c s) := by
  show execBundleIssue h slots pool s = _
  unfold execBundleIssue
  cases hq : c.party <;> simp_all [isContext]

theorem exec_emptyRun {s : State} {c : Cur} {h : Word64} (hc : s.cur = some c) (hp : isContext c.party) (hk : (headerOf h).kind = 1) :
    exec (.emptyRun h) s = .next (runEmpty h c s) := by
  show execEmptyRun h s = _
  unfold execEmptyRun
  cases hq : c.party <;> simp_all [isContext]

/-- The warp `y` is the context's warp `x` after an item with no operation that leaves it at `pc`. -/
def slotPassed (x y : Warp) (pc : Nat) : Prop :=
  y.v = x.v ∧ y.s = x.s ∧ y.m = x.m ∧ y.slots = x.slots + 1 ∧ y.committed = x.committed + 1 ∧ y.vliw.map (·.pc) = some pc

/-- What a context's issue sees of its warp is the warp under its key. -/
theorem env_context {s : State} {c : Cur} {x : Warp} (hp : isContext c.party) (hw : s.warps.get? (s.env c).key = some x) : (s.env c).w = x := by
  refine Eq.trans ?_ (State.warp_of_get? hw)
  unfold State.env
  cases hq : c.party <;> simp_all [isContext]

section Items

variable {s : State} {c : Cur} {x : Warp} {v : Vliw} (hp : isContext c.party) (hd : (s.env c).decisions s = 0)
  (hw : s.warps.get? (s.env c).key = some x) (hv : x.vliw = some v) (hl : v.loops = [])

include hp hd hw hv hl

/-- A bundle that runs no operation issues: nothing of it can trap or wait. -/
theorem runBundle_nil (hm : s.misfit c.party ⟨0, 0, []⟩ = false) :
    ∃ y, runBundle [] ⟨0, 0, []⟩ c s = (emptyCounted s c).setWarp (s.env c).key y ∧ slotPassed x y c.next := by
  have gates : bundleGates [] c s = [] := by simp [bundleGates, mergeTraps]
  have room : bundleRoom [] c s 0 = none := by simp [bundleRoom]
  have log : s.logDecisions (s.env c) = s := logDecisions_none hp hd
  have counted : (emptyCounted s c).warps.get? (s.env c).key = some x := by rw [emptyCounted_warps, hw]
  have ends : endItem (s.env c) c.next (((s.account c.party c.pc []).takePorts c.party ⟨0, 0, []⟩).advanceBundle c (headerOf c.header)) = _ :=
    endItem_noLoop c.next _ counted (by simp [hv, hl])
  simp only [runBundle, gates, mergeTraps, firstWait, firstHold, hm, hd, room, log, List.map_nil, effectOrder, List.filter_nil, List.flatMap_cons,
    List.flatMap_nil, List.append_nil, bundleEffects, ends, Bool.false_eq_true, if_false]
  exact ⟨_, rfl, rfl, rfl, rfl, rfl, rfl, by rw [hv]; rfl⟩

/-- An empty bundle of a run issues: the run stands at its address until the last one. -/
theorem runEmpty_issues (h : Word64) (ok : headerBad h = false) :
    ∃ y, runEmpty h c s = (emptyCounted s c).setWarp (s.env c).key y ∧
      slotPassed x y (if (if v.run = 0 then runCount h else v.run) ≤ 1 then c.next else v.pc) ∧
      y.vliw.map (·.run) = some ((if v.run = 0 then runCount h else v.run) - 1) := by
  have log : s.logDecisions (s.env c) = s := logDecisions_none hp hd
  have counted : (emptyCounted s c).warps.get? (s.env c).key = some x := by rw [emptyCounted_warps, hw]
  have sees : (s.env c).w = x := env_context hp hw
  unfold runEmpty
  simp only [ok, hd, log, sees, hv, bne_self_eq_false, Bool.false_and, Bool.false_eq_true, if_false]
  generalize (if v.run = 0 then runCount h else v.run) = total
  rcases Nat.lt_or_ge 1 total with more | last
  · have more : ¬ total ≤ 1 := by omega
    simp only [more, decide_false, Bool.not_false, if_true, if_false, Bool.false_eq_true]
    exact ⟨_, modWarp_of_get? counted _, ⟨rfl, rfl, rfl, rfl, rfl, by rw [hv]; rfl⟩, by rw [hv]; rfl⟩
  · simp only [last, decide_true, Bool.not_true, if_true, if_false, Bool.false_eq_true]
    rw [endItem_noLoop (e := s.env c) (s := emptyCounted s c) (w := x) _ _ counted (by simp [hv, hl])]
    exact ⟨_, rfl, ⟨rfl, rfl, rfl, rfl, rfl, by rw [hv]; rfl⟩, by rw [hv]; rfl⟩

end Items

/-- What a context's warp after such an item says of the state. -/
theorem emptyCounted_frame {s : State} {c : Cur} {x y : Warp} {pc : Nat} (hw : s.warps.get? (s.env c).key = some x) (h : slotPassed x y pc) :
    let t := (emptyCounted s c).setWarp (s.env c).key y
    sameOutside s t ∧ sameRegisters s t ∧ t.warp (s.env c).key = y := by
  obtain ⟨rows, sregs, masks, -, -, -⟩ := h
  refine ⟨sameOutside_trans (emptyCounted_outside s c) (State.setWarp_frame _ _ _).1, fun k => ?_, State.setWarp_warp _ _ _⟩
  by_cases hk : (s.env c).key = k
  · subst hk
    rw [State.setWarp_warp, State.warp_of_get? hw]
    exact ⟨rows, sregs, masks⟩
  · rw [State.setWarp_warp_ne _ _ hk, State.warp, emptyCounted_warps]
    exact ⟨rfl, rfl, rfl⟩

/-- A legal bundle with no slot runs no operation. -/
theorem issueBundle_empty {s : State} {c : Cur} {h : Word64} (legal : bundleBad c.pc (s.env c).w.rows ⟨h, [], []⟩ = [])
    (none : (headerOf h).present = 0)
    (merges : ¬(s.stream c.party = .secondary ∧ (headerOf h).mergeok = false)) :
    issueBundle ⟨h, [], []⟩ c s = runBundle [] ⟨0, 0, []⟩ { c with header := h, next := afterHeader c.pc h.toNat } s := by
  have legal' : bundleBad c.pc (s.env { c with header := h, next := afterHeader c.pc h.toNat }).w.rows ⟨h, [], []⟩ = [] := legal
  have ops (rows : Nat) : (BundleBits.mk h [] []).slotOps rows = [] := by simp [BundleBits.slotOps, BundleBits.ops]
  have ports : (BundleBits.mk h [] []).ports = ⟨0, 0, []⟩ := by simp [BundleBits.ports, BundleBits.ops, none]
  have here : (s.stream c.party == IssueStream.secondary && !(headerOf h).mergeok) = false := by simpa using merges
  simp only [issueBundle, legal', ops, ports, here, List.isEmpty_nil, if_true, Bool.false_eq_true, if_false]

/-- Settles O30: either item is its context's warp with one more slot, in a state that the place it takes in the cycle leaves as it was. -/
theorem emptyItemsComplete : Obligations.EmptyItemsComplete := by
  refine ⟨fun h c s x v ⟨hc, hp, hd, hm⟩ legal _ none merges hw hv hl => ?_, fun h c s x v ⟨hc, hp, hd, _⟩ ok kind hw hv hl => ?_⟩
  · obtain ⟨y, run, passed⟩ := runBundle_nil (c := { c with header := h, next := afterHeader c.pc h.toNat }) hp hd hw hv hl hm
    obtain ⟨outside, registers, stands⟩ := emptyCounted_frame hw passed
    obtain ⟨-, -, -, slots, committed, pc⟩ := passed
    refine ⟨(emptyCounted s c).setWarp (s.env c).key y, ?_, outside, registers, ?_⟩
    · rw [exec_bundleIssue hc hp, issueBundle_empty legal none merges, run]
      rfl
    · rw [stands]
      exact ⟨slots, committed, pc⟩
  · obtain ⟨y, run, passed, left⟩ := runEmpty_issues hp hd hw hv hl h ok
    obtain ⟨outside, registers, stands⟩ := emptyCounted_frame hw passed
    obtain ⟨-, -, -, slots, committed, pc⟩ := passed
    refine ⟨(emptyCounted s c).setWarp (s.env c).key y, ?_, outside, registers, ?_⟩
    · rw [exec_emptyRun hc hp kind, run]
    · simp only [stands]
      exact ⟨slots, left, pc, committed⟩

end Sys2Proof.Laws
end

section
/-!
SUPPORT. A path with a stop due does not issue: it enters the stop first (spec/19 R419; spec/20 R447).
-/
namespace Sys2Proof.Laws

open Sys2Proof Sys2Proof.Machine

/-- A path at a NOP whose stop, put off while a sibling ran its handler, is still due. -/
def stopping : State :=
  (State.reset.withFetchWord 64 0xD900000000000000).modWarp 0 fun w =>
    { w with paths := w.paths.modify 0 fun x => { x with stopDue := some (0x10000, stepTrap) } }

/-- That path's NOP. -/
def stoppingNop : Instr := .nop ⟨0, 0, 0, .vec 0 0, .vec 0 0, .vec 0 0, .vec 0 0, []⟩

/-- The state after the NOP is read. -/
def stoppingFetched : State :=
  match fetchAt { stopping with agenda := [] } 0 0 false 0x10000 8 with
  | .ok t _ => t
  | _ => stopping

/-- The state in which the NOP has run. -/
def stoppingRun : State :=
  match exec stoppingNop (stoppingFetched.begin (.path 0 0 0) none 0x10000 0x10008 0 false) with
  | .next u => u
  | _ => stopping

/-- The address of path 0 of warp 0 after a step. -/
def pathPc (o : Host.Outcome State Fault Refusal) : Option Nat :=
  match o with
  | .next s => ((s.warp 0).paths.get? 0).map (·.pc)
  | _ => none

theorem stopping_fetches :
    fetchAt { stopping with agenda := [] } (partyCore (.path 0 0 0)) (stopping.partyPart (.path 0 0 0)) false 0x10000 8 =
      .ok stoppingFetched 0xD900000000000000 := by
  decide +kernel

/-- The NOP's meaning is a next state, as of every form. -/
theorem stopping_runs : exec stoppingNop (stoppingFetched.begin (.path 0 0 0) none 0x10000 0x10008 0 false) = .next stoppingRun := rfl

/-- Refutes O28: its hypotheses let the chosen path have a stop due, and such a path enters the stop before it issues again, so that its word does not run. -/
theorem not_stepRunsTheDecodedWord : ¬ Obligations.StepRunsTheDecodedWord := by
  intro h
  have chosen := h stopping (.path 0 0 0) [] 0x10000 64 .simt false none (by decide +kernel) (by decide +kernel) (by decide +kernel)
    (by decide +kernel)
  have standing := chosen ⟨rfl, ((stopping.warp 0).paths.get? 0).get (by decide +kernel), by decide +kernel⟩
  have runs := standing stoppingFetched 0xD900000000000000 0 8 stoppingNop stoppingRun (by
    rw [stopping_fetches]
    exact ⟨rfl, by rw [if_neg (by decide)]; exact ⟨rfl, rfl, rfl⟩⟩) rfl (by decide +kernel) stopping_runs
  exact absurd (congrArg pathPc runs) (by decide +kernel)

end Sys2Proof.Laws
end

section
/-!
SUPPORT. A context inside an empty run issues the next of its empty bundles, whatever header stands at its address (spec/03 R83).
-/
namespace Sys2Proof.Laws

open Sys2Proof Sys2Proof.Machine

/-- A context that counts one empty bundle of a run as issued and none as left, at offset 0 of a locked store of zeros, where an empty bundle's header
stands. -/
def insideRun : State := State.reset.setWarp 0 { State.warp0 with vliw := some { State.vliw0 with locked := true, ran := 1 } }

/-- Whether a prepared item is a bundle to issue. -/
def isBundle (x : Prep) : Bool := match x with | .run _ (.bundleIssue _ _ _) => true | _ => false

/-- Refutes O29: its first clause asks that no empty bundle is left of a run, `run = 0`, but `prepareItem` goes on with a run by `ran`. -/
theorem not_bundlesRunTheirOperations : ¬ Obligations.BundlesRunTheirOperations := by
  intro ⟨reads, _⟩
  have prepared := reads insideRun (.thread 0 0) 0 { State.vliw0 with locked := true, ran := 1 } insideRun insideRun 0 0 rfl rfl rfl (.inl rfl)
    (by decide +kernel) (by decide) rfl rfl ⟨rfl, rfl⟩
  exact absurd (congrArg isBundle prepared) (by decide +kernel)

end Sys2Proof.Laws
end

section
/-!
SUPPORT. The words that the spec works out (spec/04 R113; spec/05 R141; spec/07 R195).
-/
namespace Sys2Proof.Laws

open Sys2Proof Sys2Proof.Machine

/-- Settles O3: the decoder computes the instruction of each word. -/
theorem workedWordsDecode : Obligations.WorkedWordsDecode := by
  unfold Obligations.WorkedWordsDecode
  decide +kernel

end Sys2Proof.Laws
end

section
/-!
SUPPORT. What committing an operation leaves in its issuer's warp (spec/02 R57, R62; spec/03 R88; spec/04 R113).
-/
namespace Sys2Proof.Laws

open Sys2Proof Sys2Proof.Machine

@[simp] theorem orFlags_zero (x : Warp) : x.orFlags 0 = x := by simp [Warp.orFlags]

/-- A warp with results sent on their way. -/
def sentWarp (e : Env) (lat : Nat) (l : List Res) (x : Warp) : Warp :=
  { x with inflight := x.inflight ++ l.map fun r => r.inFlight (e.dueBase + lat) }

/-- A warp after the commit of an operation that it issued. -/
def committedWarp (e : Env) (lat : Nat) (o : Out) (x : Warp) : Warp :=
  { (sentWarp e lat o.writes x).orFlags o.flags with srseq := if o.random then x.srseq + 1 else x.srseq }

section Issuer

variable {e : Env} (hp : ∀ n, e.party ≠ .seq n) {s : State} {x : Warp} (hx : s.warps.get? e.key = some x)

include hp hx

theorem send_warp (lat : Nat) (l : List Res) : (s.send e lat l).warps.get? e.key = some (sentWarp e lat l x) := by
  unfold State.send
  cases h : e.party with
  | seq n => exact absurd h (hp n)
  | path | thread | service => rw [State.modWarp_get?, if_pos rfl, hx]; rfl

theorem raiseFlags_warp (flags : Nat) : (s.raiseFlags e flags).warps.get? e.key = some (x.orFlags flags) := by
  unfold State.raiseFlags
  split
  case isTrue none => rw [none, orFlags_zero, hx]
  case isFalse =>
    cases h : e.party with
    | seq n => exact absurd h (hp n)
    | path | thread | service => rw [State.modWarp_get?, if_pos rfl, hx]; rfl

theorem commit_warp (lat : Nat) (o : Out) : (s.commit e lat o).warps.get? e.key = some (committedWarp e lat o x) := by
  have raised := raiseFlags_warp hp (send_warp hp hx lat o.writes) o.flags
  unfold State.commit committedWarp
  cases o.random with
  | false => exact raised
  | true => simp only [if_true, State.modWarp_get?, raised]; rfl

end Issuer

/-- Settles O27: the issuer's warp after the commit is `committedWarp`. -/
theorem resultsFallDue : Obligations.ResultsFallDue := by
  intro s e lat o x hp hx small t
  have warp : t.warp e.key = committedWarp e lat o x := State.warp_of_get? (commit_warp hp hx lat o)
  have flags : (committedWarp e lat o x).csr.satf = x.csr.satf ||| BitVec.ofNat 64 (o.flags % 16) := rfl
  rw [warp]
  exact ⟨rfl, by rw [flags, Nat.mod_eq_of_lt small], rfl⟩

end Sys2Proof.Laws
end

section
/-!
SUPPORT. A MAXI whose destination operand is no row sends its results to rows 0 and 1 all the same (spec/06 R176).
-/
namespace Sys2Proof.Laws

open Sys2Proof Sys2Proof.Machine

/-- The item of path 0 of warp 0. -/
def maxiCur : Cur := { party := .path 0 0 0, slot := none, pc := 0x10000, next := 0x10008, header := 0, locked := false }

/-- Warp 0 with one path, which issues. -/
def maxiIssuing : State :=
  { State.reset.setWarp 0 { State.warp0 with paths := [(0, { State.path0 with pc := 0x10000, mask := 1 })] } with cur := some maxiCur }

/-- A MAXI whose D names the register s1, where the form has a row: it is not legal in SIMT (`legalIn`). -/
def maxiToScalar : IWord := ⟨0x09, 0, 0, .sreg 1, .vec 0 2, .vec 0 4, .vec 0 0, []⟩

/-- The registers of the results that warp 0 has in flight after a step. -/
def inFlightRegs (o : Host.Outcome State Fault Refusal) : List RegId :=
  match o with
  | .next s => (s.warp 0).inflight.map (·.reg)
  | _ => []

theorem maxiToScalar_sends : inFlightRegs (exec (.maxi maxiToScalar) maxiIssuing) = [.v 0 15, .v 1 15] := by decide +kernel

/-- No result of `maxiToScalar` for a row is one of its destination's. -/
theorem not_toDest_row {e : Env} {f : InFlight} {n k : Nat} (h : f.reg = .v n k) : ¬ toDest e maxiToScalar f := by
  simp [toDest, maxiToScalar, h]

/-- Refutes O25: it is said of every word that nothing of the general checks stands before, and those do not ask that the word is a form's. A MAXI whose D is an
s register is such a word; it completes, and its results are of rows 0 and 1, not of D. -/
theorem not_computeFormsFrame : ¬ Obligations.ComputeFormsFrame := by
  intro h
  have noLoops : (opEnv 0x56 maxiToScalar maxiCur maxiIssuing).w.vliw = none := by decide +kernel
  obtain ⟨t, run, -, -, -, -, -, l, sent, dest⟩ :=
    h (.maxi, 0x56) (by simp [computeForms]) maxiToScalar maxiCur maxiIssuing (by decide +kernel) fun x hx => by simp [noLoops] at hx
  have regs : (t.warp 0).inflight.map (·.reg) = [.v 0 15, .v 1 15] := by
    rw [← maxiToScalar_sends, show exec (.maxi maxiToScalar) maxiIssuing = _ from run]
    rfl
  have row : RegId.v 0 15 ∈ l.map (·.reg) := by
    rw [show l = (t.warp 0).inflight from sent.symm, regs]
    exact List.mem_cons_self
  obtain ⟨f, hf, reg⟩ := List.mem_map.mp row
  exact not_toDest_row reg (dest f hf)

end Sys2Proof.Laws
end

section
/-!
SUPPORT. The events that perform an access, or end what a peer has of it (spec/04 R115; spec/07 R193, R203; spec/06 R183; spec/09 R268; spec/18 R415).
-/
namespace Sys2Proof.Laws

open Sys2Proof Sys2Proof.Machine

/-! ### Performing an access that nothing holds -/

/-- The access can be performed now: it has not left for a peer, nothing holds it, and its partition discards nothing. -/
def unheld (s : State) (a : Access) : Prop := a.sent = none ∧ a.performable s = true ∧ (s.part a.partition).discarding = none

/-- The bytes of an access. -/
def accessBytes (a : Access) : List Nat := a.pas.flatMap fun x => (List.range x.2).map (x.1 + ·)

/-- `t` is the state in which the access has been performed, or in which it has taken the trap that stops it. -/
def performedIn (s t : State) (a : Access) : Prop :=
  (∃ u, performAccess s a = .ok u ∧ t = if a.kind.writes && !a.scratch then u.noteCode (some a.core) a.agent (accessBytes a) else u) ∨
  ∃ x, performAccess s a = .trap x ∧ t = s.accessTrap a x

theorem tryPerform_unheld {s t : State} {a : Access} (now : unheld s a) (h : performedIn s t a) : s.tryPerform a = t := by
  obtain ⟨here, may, stays⟩ := now
  unfold State.tryPerform
  rw [if_neg (by simp [here, may, stays])]
  rcases h with ⟨u, ok, rfl⟩ | ⟨x, trap, rfl⟩
  · rw [ok]; rfl
  · rw [trap]

theorem acc?_id {s : State} {n : Nat} {a : Access} (h : s.acc? n = some a) : a.id = n := by
  simpa using List.find?_some h

/-! ### The events -/

theorem exec_variableLatencyResult {s t : State} {n : Nat} {a : Access} (ha : s.acc? n = some a) (value : a.returnsValue = true)
    (ordinary : a.special s = false) (now : unheld s a) (h : performedIn s t a) : exec (.variableLatencyResult n) s = .next (t.rouse a.core 5) := by
  show execVariableLatencyResult n s = _
  unfold execVariableLatencyResult
  simp only [ha, value, ordinary, tryPerform_unheld now h, Bool.not_false, Bool.and_self, if_true]

theorem exec_asyncWritePerformed {s t : State} {n : Nat} {a : Access} (ha : s.acc? n = some a) (noValue : a.returnsValue = false)
    (ordinary : a.special s = false) (now : unheld s a) (h : performedIn s t a) : exec (.asyncWritePerformed n) s = .next (t.rouse a.core 5) := by
  show execAsyncWritePerformed n s = _
  unfold execAsyncWritePerformed
  simp only [ha, noValue, ordinary, tryPerform_unheld now h, Bool.not_false, Bool.and_self, if_true]

/-- A waiting action whose granules are full is served when no earlier one that can go on has a granule of it. -/
theorem feServed_first {s : State} {a : Access} (waits : ∃ signed, a.kind = .take signed ∨ a.kind = .peek signed)
    (full : ∀ g ∈ granulesOf (a.spans.getD []), (s.core a.core).full.getD g false = true)
    (first : ∀ y ∈ s.accs, y.id < a.id → y.core = a.core → feFull s y = true →
      ∀ g ∈ granulesOf (y.spans.getD []), g ∉ granulesOf (a.spans.getD [])) : feServed s a = true := by
  have goes : feFull s a = true := by
    obtain ⟨signed, kind | kind⟩ := waits <;> simpa [feFull, kind, Core.allFull] using full
  simpa [feServed, goes] using first

theorem exec_fullEmptyWaitSatisfied {s t : State} {n : Nat} {a : Access} (ha : s.acc? n = some a) (served : feServed s a = true) (now : unheld s a)
    (h : performedIn s t a) : exec (.fullEmptyWaitSatisfied a.core n) s = .next (t.rouse a.core 3) := by
  show execFullEmptyWaitSatisfied a.core n s = _
  unfold execFullEmptyWaitSatisfied
  simp only [ha, served, tryPerform_unheld now h, BEq.rfl, Bool.and_self, if_true]

/-- The state after a table's write in which its issuer goes on, or waits for the predicate of the watchpoint that fired on it. -/
def tableWritten (core : Nat) (x : SftLoad) (t : State) : State :=
  let u := t.modCore core fun c => { c with sft := c.sft.filter fun y => y.access != x.access }
  (if u.waitOf x.party = .table then
    u.setWait x.party (if (u.group (partyGroup x.party)).hits.any (fun h => h.access == x.access) then .watch else .none)
  else u).rouse core 5

theorem exec_sftloadTableWrite {s t : State} {core : Nat} {x : SftLoad} {a : Access} (first : (s.core core).sft.find? (sftReady s core) = some x)
    (ha : (s.openSft core).acc? x.access = some a) (now : unheld (s.openSft core) a) (h : performedIn (s.openSft core) t a) :
    exec (.sftloadTableWrite core) s = .next (tableWritten core x t) := by
  show execSftloadTableWrite core s = _
  unfold execSftloadTableWrite
  simp only [first, ha, tryPerform_unheld now h]
  rfl

/-- The old values that a peer's acknowledgement brings, each by its lane. -/
def ackedValues (a : Access) (values : List Word64) : List (LaneAcc × Nat) :=
  ((a.lanes.filter a.peerLane).zip values).map fun x => (x.1, x.2.toNat % 2 ^ (8 * x.1.size))

/-- The flags of the peer's actions. -/
def ackedFlags (a : Access) (values : List Word64) : Nat :=
  orFlagsOf ((ackedValues a values).map fun x => actNew a.kind x.2 x.1.data x.1.data2)

theorem exec_remoteAck {s : State} {n left : Nat} {a : Access} (values : List Word64) (ha : s.acc? n = some a) (sent : a.sent = some left)
    (inTime : s.ccnt < left + 30000000) :
    exec (.remoteAck n values) s = .next (((s.remoteFlags a (ackedFlags a values)).complete a (ackedValues a values)).rouse a.core 5) := by
  show execRemoteAck n values s = _
  unfold execRemoteAck
  simp only [ha, sent, Nat.not_le.mpr inTime, if_false]
  rfl

theorem exec_remoteTimeout {s : State} {n left v m : Nat} {a : Access} {r : List (Nat × Nat)} (ha : s.acc? n = some a) (sent : a.sent = some left)
    (late : left + 30000000 ≤ s.ccnt) (spans : a.spans = some ((v, m) :: r)) :
    exec (.remoteTimeout n) s = .next ((s.accessTrap a { cause := causeUE, info := 2 ^ 7, addr := v }).finish a) := by
  show execRemoteTimeout n s = _
  unfold execRemoteTimeout
  simp only [ha, sent, late, spans, if_true]

/-- Settles O41: each event finds its access, and what it then does is `tryPerform`, or a peer's answer or its absence. -/
theorem accessEventsComplete : Obligations.AccessEventsComplete :=
  ⟨fun _ _ _ _ => exec_variableLatencyResult, fun _ _ _ _ => exec_asyncWritePerformed,
   fun _ _ _ _ ha full first waits => exec_fullEmptyWaitSatisfied ha (feServed_first waits full (acc?_id ha ▸ first)),
   fun _ _ _ _ _ => exec_sftloadTableWrite, fun _ _ _ _ values => exec_remoteAck values, fun _ _ _ _ _ _ _ => exec_remoteTimeout⟩

end Sys2Proof.Laws
end

section
/-!
SUPPORT. Integer patterns as bit vectors: Wrap is reduction to the width, and Int its inverse on the type's range (spec/05 R122; spec/02 R48).
-/
namespace Sys2Proof.Laws

open Sys2Proof Sys2Proof.Machine

theorem width_pos (t : Ty) : 0 < t.width := by cases t <;> decide

theorem wrap_eq_ofInt (w : Nat) (v : Int) : wrap w v = (BitVec.ofInt w v).toNat := (BitVec.toNat_ofInt v).symm

theorem two_mul_two_pow_pred {w : Nat} (h : 0 < w) : 2 * 2 ^ (w - 1) = 2 ^ w := by
  rw [← pow_succ', Nat.sub_add_cancel h]

theorem sInt_toNat {w : Nat} (h : 0 < w) (x : BitVec w) : sInt w x.toNat = x.toInt := by
  have half := two_mul_two_pow_pred h
  rw [sInt, BitVec.toInt_eq_toNat_cond]
  split <;> split <;> omega

/-! ### Int and Wrap -/

theorem tyVal_signed {t : Ty} (h : t.isSigned = true) (x : Nat) : tyVal t x = sInt t.width x := by simp [tyVal, iInt, h]

theorem tyVal_unsigned {t : Ty} (h : t.isSigned = false) (x : Nat) : tyVal t x = x := by simp [tyVal, iInt, h]

theorem tyVal_toNat_signed {t : Ty} (h : t.isSigned = true) (a : BitVec t.width) : tyVal t a.toNat = a.toInt := by
  rw [tyVal_signed h, sInt_toNat (width_pos t)]

/-- Int reads a pattern as a number that reduces to the pattern. -/
@[simp] theorem ofInt_tyVal {t : Ty} (a : BitVec t.width) : BitVec.ofInt t.width (tyVal t a.toNat) = a := by
  cases h : t.isSigned with
  | true => rw [tyVal_toNat_signed h, BitVec.ofInt_toInt]
  | false => rw [tyVal_unsigned h, BitVec.ofInt_natCast, BitVec.ofNat_toNat, BitVec.setWidth_eq]

/-- The value lies in the range of the type. -/
def inTypeRange (t : Ty) (v : Int) : Prop := intMin t.isSigned t.width ≤ v ∧ v ≤ intMax t.isSigned t.width

theorem inTypeRange_signed {t : Ty} (h : t.isSigned = true) (v : Int) :
    inTypeRange t v ↔ -(2 ^ (t.width - 1) : Nat) ≤ v ∧ v < (2 ^ (t.width - 1) : Nat) := by
  simp only [inTypeRange, intMin, intMax, h, if_true]
  omega

theorem inTypeRange_unsigned {t : Ty} (h : t.isSigned = false) (v : Int) : inTypeRange t v ↔ 0 ≤ v ∧ v < (2 ^ t.width : Nat) := by
  simp only [inTypeRange, intMin, intMax, h, Bool.false_eq_true, if_false]
  omega

theorem tyVal_inTypeRange {t : Ty} {a : Nat} (h : a < 2 ^ t.width) : inTypeRange t (tyVal t a) := by
  have half := two_mul_two_pow_pred (width_pos t)
  cases hs : t.isSigned with
  | true =>
    rw [inTypeRange_signed hs, tyVal_signed hs, sInt]
    split <;> omega
  | false =>
    rw [inTypeRange_unsigned hs, tyVal_unsigned hs]
    omega

/-- Wrap keeps a value of the type's range. -/
theorem tyVal_wrap {t : Ty} {v : Int} (h : inTypeRange t v) : tyVal t (wrap t.width v) = v := by
  cases hs : t.isSigned with
  | true =>
    obtain ⟨low, high⟩ := (inTypeRange_signed hs v).mp h
    rw [wrap_eq_ofInt, tyVal_toNat_signed hs, BitVec.toInt_ofInt_eq_self (width_pos t)] <;> exact_mod_cast ‹_›
  | false =>
    obtain ⟨low, high⟩ := (inTypeRange_unsigned hs v).mp h
    rw [tyVal_unsigned hs, wrap, Int.emod_eq_of_lt low high, Int.toNat_of_nonneg low]

/-! ### Shifts and reversal -/

/-- An arithmetic shift by the width or more leaves copies of the sign. -/
theorem toInt_ediv_two_pow_min {w : Nat} (h : 0 < w) (x : BitVec w) (i : Nat) : x.toInt / 2 ^ min i w = x.toInt / 2 ^ i := by
  rcases Nat.le_total i w with hi | hi
  · rw [Nat.min_eq_left hi]
  · have wide : ((2 ^ w : Nat) : Int) ≤ (2 ^ i : Nat) := by exact_mod_cast Nat.pow_le_pow_right (by decide) hi
    have half : (2 * 2 ^ (w - 1) : Int) = (2 ^ w : Nat) := by exact_mod_cast two_mul_two_pow_pred h
    have low := x.le_toInt
    have high := x.toInt_lt
    push_cast at wide half
    rw [Nat.min_eq_right hi]
    rcases Int.lt_or_le x.toInt 0 with neg | nonneg
    · rw [Int.ediv_eq_neg_one_of_neg_of_le neg (by omega), Int.ediv_eq_neg_one_of_neg_of_le neg (by omega)]
    · rw [Int.ediv_eq_zero_of_lt nonneg (by omega), Int.ediv_eq_zero_of_lt nonneg (by omega)]

theorem sarVal_eq_sshiftRight {t : Ty} (a : BitVec t.width) (i : Nat) : sarVal t a.toNat i = (a.sshiftRight i).toNat := by
  rw [sarVal, sInt_toNat (width_pos t), toInt_ediv_two_pow_min (width_pos t), wrap_eq_ofInt, BitVec.sshiftRight_eq, Int.shiftRight_eq_div_pow]
  norm_cast

theorem rotlVal_eq_rotateLeft {t : Ty} (a : BitVec t.width) (i : Nat) : rotlVal t a.toNat i = (a.rotateLeft i).toNat :=
  BitVec.toNat_rotateLeft.symm

theorem testBit_reverseBits (n x i : Nat) : (reverseBits n x).testBit i = (decide (i < n) && x.testBit (n - 1 - i)) := by
  induction n generalizing x with
  | zero => simp [reverseBits]
  | succ n ih =>
    have top : ((x % 2) <<< n).testBit i = (decide (i = n) && x.testBit 0) := by
      rw [Nat.testBit_shiftLeft]
      rcases Nat.lt_trichotomy i n with h | rfl | h
      · simp [Nat.not_le.mpr h, h.ne]
      · simp
      · have : x % 2 < 2 ^ (i - n) := Nat.lt_of_lt_of_le (Nat.mod_lt _ (by decide)) (Nat.le_self_pow (by omega) 2)
        simp [Nat.testBit_lt_two_pow this, h.ne']
    rw [reverseBits, Nat.testBit_or, top, ih]
    rcases Nat.lt_trichotomy i n with h | rfl | h
    · have : n - i = n - 1 - i + 1 := by omega
      simp [h, h.ne, Nat.lt_succ_of_lt h, Nat.testBit_succ, this]
    · simp
    · simp [Nat.not_lt.mpr h.le, h.ne', Nat.not_lt.mpr h]

/-- Settles O7: Wrap and Int are the maps between integers and bit vectors of the width, which keep sums, differences and products. -/
theorem wrappingIsModularArithmetic : Obligations.WrappingIsModularArithmetic := by
  intro t _ a b
  refine ⟨?add, ?sub, ?mul, ?andn, fun hs => ?signed, fun hs => ?unsigned, sarVal_eq_sshiftRight a, rotlVal_eq_rotateLeft a, fun i hi => ?brev⟩
  case add => rw [wrap_eq_ofInt, BitVec.ofInt_add, ofInt_tyVal, ofInt_tyVal]
  case sub => rw [wrap_eq_ofInt, Int.sub_eq_add_neg, BitVec.ofInt_add, BitVec.ofInt_neg, ofInt_tyVal, ofInt_tyVal, ← BitVec.sub_eq_add_neg]
  case mul => rw [wrap_eq_ofInt, BitVec.ofInt_mul, ofInt_tyVal, ofInt_tyVal]
  case andn => rw [BitVec.toNat_and, BitVec.toNat_not]
  case signed => rw [tyVal_toNat_signed hs, tyVal_toNat_signed hs, BitVec.sle_iff_toInt_le]
  case unsigned => rw [tyVal_unsigned hs, tyVal_unsigned hs, BitVec.ule_iff_toNat_le, Int.ofNat_le]
  case brev => rw [testBit_reverseBits, decide_eq_true hi, Bool.true_and, BitVec.testBit_toNat]

end Sys2Proof.Laws
end

section
/-!
SUPPORT. The integer forms compute the formulas of their tables (spec/05 R122 to R125).
-/
namespace Sys2Proof.Laws

open Sys2Proof Sys2Proof.Machine

/-! ### The table of R122 -/

theorem plain_ite_tyLe {t : Ty} {a b x y : Nat} :
    plain (if tyLe t a b then x else y) = (if tyVal t a ≤ tyVal t b then x else y, 0) := by simp [plain, tyLe]

theorem satFlag_satTo_natAbs (t : Ty) (a : Nat) : satFlag (satTo true t.width (tyVal t a).natAbs) =
    ((satTo true t.width |tyVal t a|).1, if (satTo true t.width |tyVal t a|).2 then flagSat else 0) := by
  rw [Int.abs_eq_natAbs, satFlag]

theorem shlVal_eq (t : Ty) (a k : Nat) : shlVal t a k = if t.width ≤ k then 0 else a * 2 ^ k % 2 ^ t.width := by
  rw [shlVal, Nat.shiftLeft_eq]

theorem shrVal_eq (t : Ty) (a k : Nat) : shrVal t a k = if t.width ≤ k then 0 else a / 2 ^ k := by
  rw [shrVal, Nat.shiftRight_eq_div_pow]

theorem rotlVal_eq (t : Ty) (a k : Nat) :
    rotlVal t a k = (a * 2 ^ (k % t.width) % 2 ^ t.width ||| a / 2 ^ (t.width - k % t.width)) := by
  simp only [rotlVal, Nat.shiftLeft_eq, Nat.shiftRight_eq_div_pow]

/-- Settles O4: each form's meaning is `computeSem` of its row of the table. -/
theorem integerFormsFollowTheTable : Obligations.IntegerFormsFollowTheTable := by
  refine ⟨?iadd, ?isub, ?imul, ?imulh, ?imad, ?imin, ?imax, ?iabs, ?isat, ?and, ?or, ?xor, ?andn, ?shl, ?shr, ?sar, ?rotl, ?rshr, ?clz, ?popc, ?brev⟩
  case imin | imax =>
    refine completes_elementwise (fun _ _ => rfl) ?_
    funext _ t _ a b _
    exact plain_ite_tyLe.symm
  case iabs =>
    refine completes_elementwise (fun _ _ => rfl) ?_
    funext _ t _ a _ _
    exact (satFlag_satTo_natAbs t a).symm
  case shl =>
    refine completes_elementwise (fun _ _ => rfl) ?_
    funext _ t _ a k _
    rw [plain, shlVal_eq]
  case shr =>
    refine completes_elementwise (fun _ _ => rfl) ?_
    funext _ t _ a k _
    rw [plain, shrVal_eq]
  case rotl =>
    refine completes_elementwise (fun _ _ => rfl) ?_
    funext _ t _ a k _
    rw [plain, rotlVal_eq]
  all_goals exact completes_elementwise (fun _ _ => rfl) rfl

end Sys2Proof.Laws
end

section
/-!
SUPPORT. Division: the table of results, the borderline cases, and the identity of quotient and remainder (spec/05 R123).
-/
namespace Sys2Proof.Laws

open Sys2Proof Sys2Proof.Machine

/-! ### The patterns of the bounds of a type -/

theorem wrap_natCast {w n : Nat} (h : n < 2 ^ w) : wrap w n = n := by
  rw [wrap, ← Int.natCast_mod, Int.toNat_natCast, Nat.mod_eq_of_lt h]

theorem wrap_intMin {w : Nat} (h : 0 < w) : wrap w (intMin true w) = 2 ^ (w - 1) := by
  have half := two_mul_two_pow_pred h
  have lifted : intMin true w = ((2 ^ (w - 1) : Nat) : Int) + -1 * (2 ^ w : Nat) := by simp only [intMin, if_true]; omega
  rw [wrap, lifted, Int.add_mul_emod_self_right]
  exact wrap_natCast (by have := Nat.two_pow_pos (w - 1); omega)

theorem wrap_intMax (signed : Bool) {w : Nat} (h : 0 < w) : wrap w (intMax signed w) = if signed then 2 ^ (w - 1) - 1 else 2 ^ w - 1 := by
  have half := two_mul_two_pow_pred h
  have pos := Nat.two_pow_pos (w - 1)
  have nat : intMax signed w = ((if signed then 2 ^ (w - 1) - 1 else 2 ^ w - 1 : Nat) : Int) := by
    cases signed <;> simp only [intMax, if_true, if_false, Bool.false_eq_true] <;> omega
  rw [nat, wrap_natCast]
  cases signed <;> simp only [if_true, if_false, Bool.false_eq_true] <;> omega

/-! ### The table of R123 -/

/-- A division by zero, or the one whose quotient is past the signed type. -/
def borderline (t : Ty) (a b : Nat) : Bool := tyVal t b == 0 || (t.isSigned && tyVal t a == intMin true t.width && tyVal t b == -1)

/-- The quotient of the table. -/
def quotientOf (t : Ty) (a b : Nat) : Nat :=
  if tyVal t b = 0 then
    if t.isSigned = false then 2 ^ t.width - 1 else if 0 ≤ tyVal t a then 2 ^ (t.width - 1) - 1 else 2 ^ (t.width - 1)
  else if borderline t a b then 2 ^ (t.width - 1) - 1
  else wrap t.width ((tyVal t a).tdiv (tyVal t b))

/-- The remainder of the table. -/
def remainderOf (t : Ty) (a b : Nat) : Nat :=
  if tyVal t b = 0 then a else if borderline t a b then 0 else wrap t.width ((tyVal t a).tmod (tyVal t b))

theorem divide_eq (t : Ty) (a b : Nat) : divide t a b = (quotientOf t a b, remainderOf t a b, borderline t a b) := by
  unfold divide quotientOf remainderOf
  by_cases zero : tyVal t b = 0
  · have edge : borderline t a b = true := by simp [borderline, zero]
    have quotient : wrap t.width (if t.isSigned && decide (tyVal t a < 0) then intMin true t.width else intMax t.isSigned t.width) =
        if t.isSigned = false then 2 ^ t.width - 1 else if 0 ≤ tyVal t a then 2 ^ (t.width - 1) - 1 else 2 ^ (t.width - 1) := by
      cases hs : t.isSigned with
      | false => simp [wrap_intMax false (width_pos t)]
      | true =>
        by_cases neg : tyVal t a < 0
        · simp [neg, Int.not_le.mpr neg, wrap_intMin (width_pos t)]
        · simp [neg, Int.not_lt.mp neg, wrap_intMax true (width_pos t)]
    simp only [zero, if_true, quotient, edge]
  · have edge : borderline t a b = (t.isSigned && tyVal t a == intMin true t.width && tyVal t b == -1) := by simp [borderline, zero]
    simp only [zero, if_false, ← edge]
    cases borderline t a b with
    | false => rfl
    | true => simp only [if_true, wrap_intMax true (width_pos t)]

/-! ### Quotient and remainder outside the borderline cases -/

section

variable {t : Ty} {a b : Nat} (h : borderline t a b = false)

include h

theorem quotientOf_eq_wrap : quotientOf t a b = wrap t.width ((tyVal t a).tdiv (tyVal t b)) := by
  have zero : tyVal t b ≠ 0 := by intro zero; simp [borderline, zero] at h
  rw [quotientOf, if_neg zero, h]
  rfl

theorem remainderOf_eq_wrap : remainderOf t a b = wrap t.width ((tyVal t a).tmod (tyVal t b)) := by
  have zero : tyVal t b ≠ 0 := by intro zero; simp [borderline, zero] at h
  rw [remainderOf, if_neg zero, h]
  rfl

end

/-- A quotient is no larger than its dividend, and at most half of it once the divisor is more than one in magnitude. -/
theorem two_mul_natAbs_tdiv_le {x y : Int} (h : 2 ≤ y.natAbs) : 2 * (x.tdiv y).natAbs ≤ x.natAbs := by
  rw [Int.natAbs_tdiv]
  exact (Nat.mul_le_mul_right _ h).trans (Nat.mul_div_le _ _)

theorem tdiv_inTypeRange {t : Ty} {x y : Int} (hx : inTypeRange t x) (hy : inTypeRange t y) (zero : y ≠ 0)
    (edge : ¬ (t.isSigned = true ∧ x = intMin true t.width ∧ y = -1)) : inTypeRange t (x.tdiv y) := by
  cases hs : t.isSigned with
  | false =>
    rw [inTypeRange_unsigned hs] at hx hy ⊢
    have small := Int.natAbs_tdiv_le_natAbs x y
    have nonneg := Int.tdiv_nonneg hx.1 hy.1
    omega
  | true =>
    rw [inTypeRange_signed hs] at hx ⊢
    simp only [hs, true_and, intMin, if_true] at edge
    rcases Nat.lt_or_ge y.natAbs 2 with unit | large
    · have : y = 1 ∨ y = -1 := by omega
      rcases this with rfl | rfl
      · rwa [Int.tdiv_one]
      · rw [Int.tdiv_neg, Int.tdiv_one]
        omega
    · have := two_mul_natAbs_tdiv_le (x := x) large
      omega

theorem natAbs_tmod_lt (x : Int) {y : Int} (h : y ≠ 0) : (x.tmod y).natAbs < y.natAbs := by
  rw [Int.natAbs_tmod]
  exact Nat.mod_lt _ (by omega)

/-- A remainder that is not zero has the sign of the dividend. -/
theorem tmod_sign (x y : Int) : x.tmod y = 0 ∨ (0 < x.tmod y ↔ 0 < x) := by
  rcases Int.le_total 0 x with nonneg | nonpos
  · have := Int.tmod_nonneg y nonneg
    rcases Int.lt_or_eq_of_le nonneg with pos | rfl
    · omega
    · simp
  · have := Int.tmod_nonneg y (Int.neg_nonneg.mpr nonpos)
    rw [Int.neg_tmod] at this
    omega

theorem tmod_inTypeRange {t : Ty} {x y : Int} (hx : inTypeRange t x) : inTypeRange t (x.tmod y) := by
  have small : (x.tmod y).natAbs ≤ x.natAbs := by rw [Int.natAbs_tmod]; exact Nat.mod_le _ _
  have sign := tmod_sign x y
  cases hs : t.isSigned with
  | false => rw [inTypeRange_unsigned hs] at hx ⊢; omega
  | true => rw [inTypeRange_signed hs] at hx ⊢; omega

/-- Settles O5: the model's `divide` is the table, and outside the borderline cases quotient and remainder stay in the range of the type. -/
theorem divisionFollowsItsTable : Obligations.DivisionFollowsItsTable := by
  refine ⟨?idiv, ?irem, fun t _ a b ha hb edge => ?identity⟩
  case idiv =>
    refine completes_elementwise (fun _ _ => rfl) ?_
    funext _ t _ a b _
    rw [divide_eq]
    rfl
  case irem =>
    refine completes_elementwise (fun _ _ => rfl) ?_
    funext _ t _ a b _
    rw [divide_eq]
    rfl
  case identity =>
    have zero : tyVal t b ≠ 0 := by intro zero; simp [zero] at edge
    have range := tyVal_inTypeRange ha
    have quotient : inTypeRange t ((tyVal t a).tdiv (tyVal t b)) :=
      tdiv_inTypeRange range (tyVal_inTypeRange hb) zero fun ⟨hs, least, minus⟩ => by simp [hs, least, minus] at edge
    have smaller := natAbs_tmod_lt (tyVal t a) zero
    refine ⟨_, _, (Int.tdiv_mul_add_tmod _ _).symm, by rw [Int.abs_eq_natAbs, Int.abs_eq_natAbs]; exact_mod_cast smaller, tmod_sign _ _, ?_, ?_⟩
    · exact (congrArg (tyVal t) (quotientOf_eq_wrap edge)).trans (tyVal_wrap quotient)
    · exact (congrArg (tyVal t) (remainderOf_eq_wrap edge)).trans (tyVal_wrap (tmod_inTypeRange range))

end Sys2Proof.Laws
end

section
/-!
SUPPORT. Bit fields and moves (spec/05 R124, R125; spec/02 R49).
-/
namespace Sys2Proof.Laws

open Sys2Proof Sys2Proof.Machine

theorem bits_eq (x lo n : Nat) : bits x lo n = x / 2 ^ lo % 2 ^ n := by rw [bits, Nat.shiftRight_eq_div_pow]

theorem putBits_eq (x lo n v : Nat) : putBits x lo n v = x - x / 2 ^ lo % 2 ^ n * 2 ^ lo + v / 2 ^ 0 % 2 ^ n * 2 ^ lo := by
  simp only [putBits, bits_eq, Nat.shiftLeft_eq, pow_zero, Nat.div_one]

theorem cellBits_eq (t : Ty) (x : Nat) : cellBits t x = if t = .f6e3 then x % 64 else x := by simp [cellBits]

/-- Settles O6: the field of BFX and BFI is `fieldOf`, and `bits` and `putBits` read and replace it. -/
theorem fieldAndMoveForms : Obligations.FieldAndMoveForms := by
  refine ⟨?bfx, ?bfi, ?lea, ?mov, ?movl⟩
  case bfx =>
    refine completes_elementwise (fun _ _ => rfl) ?_
    funext _ t _ a ctl _
    simp only [plain, bfxVal, fieldOf, bits_eq]
  case bfi =>
    refine completes_elementwise (fun _ _ => rfl) ?_
    funext _ t _ a b ctl
    simp only [plain, bfiVal, fieldOf, putBits_eq]
  case mov =>
    refine completes_elementwise (fun _ _ => rfl) ?_
    funext _ t _ a _ _
    rw [plain, cellBits_eq]
  all_goals exact completes_elementwise (fun _ _ => rfl) rfl

end Sys2Proof.Laws
end

section
/-!
SUPPORT. Compares and selects write the truth, or the choice, of each element (spec/05 R126 to R129).
-/
namespace Sys2Proof.Laws

open Sys2Proof Sys2Proof.Machine

theorem computing_congr {op : Nat} {w : IWord} {out out' : Env → Out} (h : ∀ e, out e = out' e) : computing op w out = computing op w out' := by
  rw [funext h]

theorem results_congr {e : Env} {w : IWord} {t : Ty} {word : Bool} {span : Nat} {sr : Bool} {f g : Nat → Nat → Nat → Nat → Nat × Nat}
    (h : ∀ q lane i n, f q lane i n = g q lane i n) : e.results w t word span sr f = e.results w t word span sr g := by
  rw [show f = g from funext fun q => funext fun lane => funext fun i => funext (h q lane i)]

theorem ite_eq_truth {b c : Bool} (h : b = c) : ((if b then 1 else 0 : Nat), 0) = truth c := by rw [h, truth, b2n]

/-- Settles O8: the three forms are `testOut` of their conditions. -/
theorem comparesWriteTruth : Obligations.ComparesWriteTruth :=
  ⟨completes_compute (out := fun w => testOut w (typedTy w) (icmpCond (typedTy w) (condOf w))) (fun _ _ => rfl)
     fun _ => computing_congr fun _ => results_congr fun _ _ _ _ => ite_eq_truth rfl,
   completes_compute (out := fun w => testOut w (floatTy w) (fcmpCond (Fmt.ofTy (floatTy w)) (condOf w))) (fun _ _ => rfl)
     fun _ => computing_congr fun _ => results_congr fun _ _ _ _ => ite_eq_truth rfl,
   completes_compute (out := fclassOut) (fun _ _ => rfl)
     fun _ => computing_congr fun _ => results_congr fun _ _ _ _ => ite_eq_truth rfl⟩

/-- Settles O9: the model's `selOut` is the stated choice. -/
theorem selectTakesAWhereTheMaskIsSet : Obligations.SelectTakesAWhereTheMaskIsSet :=
  completes_compute (out := selOut) (fun _ _ => rfl) fun _ => computing_congr fun _ => results_congr fun _ _ _ _ =>
    congrArg plain (cellBits_eq _ _).symm

end Sys2Proof.Laws
end

section
/-!
SUPPORT. Mask logic bit by bit, and the mask bits of a path's threads (spec/05 R130, R131).
-/
namespace Sys2Proof.Laws

open Sys2Proof Sys2Proof.Machine

theorem getLsbD_plogBits (tt : Nat) (a b : MaskBits) {i : Nat} (hi : i < 1024) :
    (plogBits tt a b).getLsbD i = tt.testBit (2 * b2n (a.getLsbD i) + b2n (b.getLsbD i)) := by
  have term (k : Nat) (x : MaskBits) : (if bit tt k then x else 0).getLsbD i = (tt.testBit k && x.getLsbD i) := by
    cases h : tt.testBit k <;> simp [bit, h]
  simp only [plogBits, BitVec.getLsbD_or, term, BitVec.getLsbD_and, BitVec.getLsbD_not, hi, decide_true, Bool.true_and]
  cases a.getLsbD i <;> cases b.getLsbD i <;> simp [b2n]

/-- A lane's 32 bits of a mask. -/
theorem testBit_laneBits (l : List Nat) (i : Nat) : (laneBits l).testBit i = decide (i / 32 ∈ l) := by
  induction l with
  | nil => simp [laneBits]
  | cons t r ih =>
    have here : ((0xFFFFFFFF : Nat) <<< (32 * t)).testBit i = decide (i / 32 = t) := by
      rw [Nat.testBit_shiftLeft, show (0xFFFFFFFF : Nat) = 2 ^ 32 - 1 from rfl, Nat.testBit_two_pow_sub_one, ← Bool.decide_and, decide_eq_decide]
      omega
    rw [laneBits, Nat.testBit_or, here, ih, ← Bool.decide_or, decide_eq_decide, List.mem_cons]

theorem getLsbD_pathBits {e : Env} (h : e.view.inSlot = false) {i : Nat} (hi : i < 1024) : e.pathBits.getLsbD i = e.mask.getLsbD (i / 32) := by
  have lane : i / 32 < 32 := by omega
  rw [Env.pathBits, h, if_neg Bool.false_ne_true, BitVec.getLsbD_ofNat, testBit_laneBits]
  simp [hi, lane]

theorem pathBits_inSlot {e : Env} (h : e.view.inSlot = true) : e.pathBits = BitVec.allOnes 1024 := if_pos h

/-- Settles O10: PLOG's truth table holds bit by bit, and the three forms of PMOV are `pmovMask` and `pmovVec`. -/
theorem maskLogicAndMoves : Obligations.MaskLogicAndMoves := by
  refine ⟨completes_compute (out := plogOut) (fun _ _ => rfl) fun _ => rfl, fun tt a b _ => getLsbD_plogBits tt a b, fun _ h _ => getLsbD_pathBits h,
    fun _ => pathBits_inSlot, completes_compute (out := pmovMask) (fun _ _ => rfl) fun w => computing_congr fun e => ?_,
    completes_compute (out := pmovVec) (fun _ _ => rfl) fun w => computing_congr fun e => ?_,
    completes_compute (out := pmovMask) (fun _ _ => rfl) fun w => computing_congr fun e => ?_⟩
  · simp only [pmovMask, truth, b2n, bne_iff_ne]
  · simp only [pmovVec, plain, bne_iff_ne]
  · simp only [pmovMask, truth, b2n, bne_iff_ne]

end Sys2Proof.Laws
end

section
/-!
SUPPORT. The candidate bits of PCNT and PFIRST, and the words that are legal for them (spec/05 R132; spec/03 R94).
-/
namespace Sys2Proof.Laws

open Sys2Proof Sys2Proof.Machine

/-! ### The candidates -/

/-- The bits from which the candidates are taken: every bit, or the thread bits. -/
def candidateRange (g : Bool) : List Nat := if g then List.range 1024 else (List.range 32).map (32 * ·)

theorem mem_candidateRange {g : Bool} {b : Nat} : b ∈ candidateRange g ↔ b < 1024 ∧ (g = true ∨ b % 32 = 0) := by
  cases g with
  | true => simp only [candidateRange, if_true, List.mem_range, true_or, and_true]
  | false =>
    simp only [candidateRange, Bool.false_eq_true, if_false, List.mem_map, List.mem_range, false_or]
    constructor
    · rintro ⟨t, ht, rfl⟩; omega
    · rintro ⟨hb, hm⟩; exact ⟨b / 32, by omega, by omega⟩

theorem candidateRange_sorted (g : Bool) : (candidateRange g).Pairwise (· < ·) := by
  cases g with
  | true => simpa only [candidateRange, if_true] using List.pairwise_lt_range
  | false => exact List.pairwise_map.mpr (List.pairwise_lt_range.imp fun h => by omega)

theorem mem_candidates {e : Env} {g : Bool} {m : MaskBits} {b : Nat} : b ∈ e.candidates g m ↔
    b < 1024 ∧ (g = true ∨ b % 32 = 0) ∧ (e.view.inSlot = true ∨ e.mask.getLsbD (b / 32) = true) ∧ m.getLsbD b = true := by
  have h : b ∈ e.candidates g m ↔ b ∈ candidateRange g ∧ ((e.view.inSlot || e.mask.getLsbD (b / 32)) && m.getLsbD b) = true := List.mem_filter
  rw [h, mem_candidateRange, Bool.and_eq_true, Bool.or_eq_true, and_assoc]

theorem candidates_sorted (e : Env) (g : Bool) (m : MaskBits) : (e.candidates g m).Pairwise (· < ·) := (candidateRange_sorted g).filter _

/-! ### Legal words -/

/-- The form of PCNT and PFIRST: an s register, a mask, and nothing else. -/
def maskCountForm (ctor : IWord → Instr) : Form := { d := .dstS, a := .srcM, lat := 2, slots := slotsS, ctor := ctor }

/-- An unused operand field of a legal word holds 0. -/
theorem useBad_none {v : View} {mat : Bool} {rows : Nat} {lits : List Word32} {isD wide word : Bool} {o : Operand}
    (h : useBad v mat rows lits isD { Use.none with wide := wide, word := word } (some o) = []) : o = zeroOperand := by
  simp only [useBad, Use.none, Bool.not_false, if_true] at h
  split at h
  · simpa using ‹(some o == some zeroOperand) = true›
  · split at h <;> cases h

/-- A field for an s register as destination holds one. -/
theorem useBad_dstS {v : View} {mat : Bool} {rows : Nat} {lits : List Word32} {wide word : Bool} {o : Operand}
    (h : useBad v mat rows lits true { Use.dstS with wide := wide, word := word } (some o) = []) : ∃ n, o = .sreg n := by
  cases o with
  | sreg n => exact ⟨n, rfl⟩
  | vec k n | mask i | special i | small n | lit p j => simp [useBad, Use.dstS] at h

/-- A field for a mask as source holds one. -/
theorem useBad_srcM {v : View} {mat : Bool} {rows : Nat} {lits : List Word32} {wide word : Bool} {o : Operand}
    (h : useBad v mat rows lits false { Use.srcM with wide := wide, word := word } (some o) = []) : ∃ m, o = .mask m := by
  cases o with
  | mask m => exact ⟨m, rfl⟩
  | vec k n | sreg i | special i | small n | lit p j => simp [useBad, Use.srcM] at h

/-- What a word that meets no condition as PCNT or PFIRST is. -/
theorem formBad_maskCount {v : View} {rows op : Nat} {w : IWord} {ctor : IWord → Instr} (h : formBad v rows (.ofIWord op w) (maskCountForm ctor) = []) :
    (∀ s, v = .slot s → s = .s0 ∨ s = .s1) ∧ (∃ n, w.d = .sreg n) ∧ (∃ m, w.a = .mask m) ∧ w.b = zeroOperand ∧ w.c = zeroOperand := by
  simp only [formBad, Raw.ofIWord, maskCountForm, List.append_eq_nil_iff] at h
  obtain ⟨⟨⟨⟨⟨⟨⟨hd, ha⟩, hb⟩, hc⟩, -⟩, -⟩, -⟩, hv⟩ := h
  refine ⟨fun s hs => ?_, useBad_dstS hd, useBad_srcM ha, useBad_none hb, useBad_none hc⟩
  subst hs
  cases s <;> simp [slotsS] at hv ⊢

theorem formOf_pcnt (v : View) (ext : Nat) (b : Operand) :
    formOf v 0x26 ext b = if v = .stream then .badOp else if 1 < ext then .badExt else .form (maskCountForm .pcnt) := by
  cases v <;> rfl

theorem formOf_pfirst (v : View) (ext : Nat) (b : Operand) :
    formOf v 0x27 ext b = if v = .stream then .badOp else if 1 < ext then .badExt else .form (maskCountForm .pfirst) := by
  cases v <;> rfl

/-- What a legal word of an opcode with the form of PCNT and PFIRST is. -/
theorem legalIn_maskCount {v : View} {rows op : Nat} {w : IWord} {ctor : IWord → Instr} (parts : instrParts (ctor w) = some (op, w))
    (form : ∀ ext b, formOf v op ext b = if v = .stream then .badOp else if 1 < ext then .badExt else .form (maskCountForm ctor))
    (legal : legalIn v rows (ctor w) = true) :
    (v = .simt ∨ v = .slot .s0 ∨ v = .slot .s1) ∧ w.ext.toNat ≤ 1 ∧ (∃ n, w.d = .sreg n) ∧ (∃ m, w.a = .mask m) ∧ w.b = zeroOperand ∧
    w.c = zeroOperand := by
  obtain ⟨op', w', f, parts', valid, form', -, -⟩ := legalIn_iff.mp legal
  obtain ⟨rfl, rfl⟩ : op = op' ∧ w = w' := by simpa [parts] using parts'
  rw [form] at form'
  obtain ⟨admitted, g, rfl⟩ : v ≠ .stream ∧ w.ext.toNat ≤ 1 ∧ maskCountForm ctor = f := by
    split at form'
    case isTrue => cases form'
    case isFalse admitted =>
      split at form'
      case isTrue => cases form'
      case isFalse g => exact ⟨admitted, Nat.not_lt.mp g, FormRes.form.inj form'⟩
  have fields : formBad v rows (.ofIWord op w) (maskCountForm ctor) = [] := by
    simpa [violations, Raw.ofIWord, form, admitted, Nat.not_lt.mpr g] using valid
  obtain ⟨slots, operands⟩ := formBad_maskCount fields
  refine ⟨?_, g, operands⟩
  cases v with
  | simt => exact .inl rfl
  | stream => exact absurd rfl admitted
  | slot s => rcases slots s rfl with rfl | rfl <;> simp

/-- Settles O11: the candidates are a sorted list of bits, and both opcodes have the form `maskCountForm`. -/
theorem maskCountsSeeTheCandidates : Obligations.MaskCountsSeeTheCandidates := by
  refine ⟨completes_compute (out := pcntOut) (fun _ _ => rfl) fun _ => rfl,
    completes_compute (out := pfirstOut) (fun _ _ => rfl) fun w => computing_congr fun e => ?_,
    fun _ _ _ _ => mem_candidates, candidates_sorted, fun v rows w legal => ?_⟩
  · unfold pfirstOut
    dsimp only
    cases e.candidates (w.ext.getLsbD 0) (e.maskOf w.a) <;> rfl
  · rcases legal with legal | legal
    · exact legalIn_maskCount (ctor := .pcnt) rfl (formOf_pcnt v) legal
    · exact legalIn_maskCount (ctor := .pfirst) rfl (formOf_pfirst v) legal

end Sys2Proof.Laws
end

section
/-!
SUPPORT. Masks of a warp: what a name reads after a write of every bit of one, and after a rotation (spec/01 R31).
-/
namespace Sys2Proof.Machine.Warp

open Sys2Proof Sys2Proof.Laws

@[simp] theorem setMask_v (w : Warp) (n : Nat) (v : MaskBits) : (w.setMask n v).v = w.v := rfl
@[simp] theorem setMask_s (w : Warp) (n : Nat) (v : MaskBits) : (w.setMask n v).s = w.s := rfl
@[simp] theorem setMask_vliw (w : Warp) (n : Nat) (v : MaskBits) : (w.setMask n v).vliw = w.vliw := rfl
@[simp] theorem setMask_vrot (w : Warp) (n : Nat) (v : MaskBits) : (w.setMask n v).vrot = w.vrot := rfl
@[simp] theorem setMask_mrot (w : Warp) (n : Nat) (v : MaskBits) : (w.setMask n v).mrot = w.mrot := rfl

@[simp] theorem mask_setMask_self (w : Warp) (n : Nat) (v : MaskBits) : (w.setMask n v).mask n = v := Tbl.getD_set_self _ _ _ _

theorem mask_setMask_ne (w : Warp) {n k : Nat} (v : MaskBits) (hn : n < 16) (hk : k < 16) (h : n ≠ k) : (w.setMask n v).mask k = w.mask k :=
  Tbl.getD_set_ne _ _ _ fun same => h (physMask_injective w.mrot hn hk same)

/-- What a warp has beside its masks stays while some of them are written. -/
theorem foldl_setMask_keeps {β : Type} (p : Warp → β) (hp : ∀ w n v, p (w.setMask n v) = p w) (v : MaskBits) (l : List Nat) (w : Warp) :
    p (l.foldl (fun y i => y.setMask i v) w) = p w := by
  induction l generalizing w with
  | nil => rfl
  | cons n r ih => rw [List.foldl_cons, ih, hp]

theorem mask_foldl_setMask (v : MaskBits) {l : List Nat} (hl : ∀ n ∈ l, n < 16) (w : Warp) {k : Nat} (hk : k < 16) :
    (l.foldl (fun y i => y.setMask i v) w).mask k = if k ∈ l then v else w.mask k := by
  induction l generalizing w with
  | nil => simp
  | cons n r ih =>
    rw [List.foldl_cons, ih fun m hm => hl m (List.mem_cons_of_mem n hm)]
    by_cases hr : k ∈ r
    · simp [hr]
    · by_cases hn : k = n
      · subst hn; simp [hr]
      · simp [hr, hn, mask_setMask_ne w v (hl n List.mem_cons_self) hk (Ne.symm hn)]

@[simp] theorem rotate_v (w : Warp) : w.rotate.v = w.v := rfl
@[simp] theorem rotate_s (w : Warp) : w.rotate.s = w.s := rfl

/-- A fixed mask reads the same after a rotation. -/
theorem mask_rotate_fixed (w : Warp) {k : Nat} (h : k < 8) : w.rotate.mask k = w.mask k := by
  simp only [mask, physMask_fixed _ h, rotate]

/-- A rotation moves each rotating mask to the name above it. -/
theorem mask_rotate_succ (w : Warp) {k : Nat} (h : 8 ≤ k) (hk : k < 15) : w.rotate.mask (k + 1) = w.mask k := by
  have place : physMask ((w.mrot + 1) % 8) (k + 1) = physMask w.mrot k := by
    rw [physMask_rotating _ h, physMask_rotating _ (by omega)]; omega
  simp only [mask, rotate, place]

end Sys2Proof.Machine.Warp
end

section
/-!
SUPPORT. The end of a loop body (spec/05 R144).
-/
namespace Sys2Proof.Laws

open Sys2Proof Sys2Proof.Machine

/-- A warp whose rows and masks have rotated at the end of a body, with its stage mask set while the count `n` lasts. -/
def bodyRotated (n : Loop) (w : Warp) : Warp :=
  if 0 < n.count then (w.rotate.setMask 8 0).setMask 8 (BitVec.allOnes 1024) else w.rotate.setMask 8 0

/-- A warp after the end of a body that left the entry `n` on top of `rest`: it returns to START, or leaves the loop for `out`. -/
def bodyEnded (x : Vliw) (n : Loop) (rest : List Loop) (out : Nat) (w : Warp) : Warp :=
  { bodyRotated n w with
    vliw := some (if n.count = 0 ∧ n.epi = 0 then { x with loops := rest, pc := out } else { x with loops := n :: rest, pc := n.start }) }

section

variable (n : Loop) (w : Warp)

@[simp] theorem bodyRotated_mrot : (bodyRotated n w).mrot = (w.mrot + 1) % 8 := by unfold bodyRotated; split <;> rfl

@[simp] theorem bodyRotated_vrot : (bodyRotated n w).vrot = if w.rows = 64 then (w.vrot + 1) % 16 else w.vrot := by unfold bodyRotated; split <;> rfl

@[simp] theorem bodyRotated_v : (bodyRotated n w).v = w.v := by unfold bodyRotated; split <;> rfl

@[simp] theorem bodyRotated_s : (bodyRotated n w).s = w.s := by unfold bodyRotated; split <;> rfl

theorem bodyRotated_stageMask : (bodyRotated n w).mask 8 = if 0 < n.count then BitVec.allOnes 1024 else 0 := by
  unfold bodyRotated
  split <;> exact Warp.mask_setMask_self _ _ _

theorem bodyRotated_otherMask {k : Nat} (hk : k < 16) (h : k ≠ 8) : (bodyRotated n w).mask k = w.rotate.mask k := by
  unfold bodyRotated
  split
  · rw [Warp.mask_setMask_ne _ _ (by decide) hk h.symm, Warp.mask_setMask_ne _ _ (by decide) hk h.symm]
  · rw [Warp.mask_setMask_ne _ _ (by decide) hk h.symm]

end

/-- The counts of an entry after one more run of its body. -/
theorem loop_next_counts (e : Loop) : e.next.iter = (e.iter + 1) % 2 ^ 32 ∧ (0 < e.count → e.next.count = e.count - 1 ∧ e.next.epi = e.epi) ∧
    (e.count = 0 → e.next.count = 0 ∧ e.next.epi = e.epi - 1) := by
  rcases Nat.eq_zero_or_pos e.count with zero | more
  · simp [Loop.next, zero]
  · simp [Loop.next, more, more.ne']

/-- A body ends unless control left it, the item is not the one at END, or the loop was entered by this very item. -/
theorem bodyGoesOn_iff {x : Vliw} {e : Loop} {rest : List Loop} (pc before : Nat) (hl : x.loops = e :: rest) :
    (x.jumped || e.last != pc || decide (before < x.loops.length)) = true ↔ ¬ (x.jumped = false ∧ e.last = pc ∧ rest.length + 1 ≤ before) := by
  simp only [hl, Bool.or_eq_true, bne_iff_ne, decide_eq_true_eq, List.length_cons]
  cases x.jumped
  · simp only [Bool.false_eq_true, false_or, true_and]; omega
  · simp

section

variable {s : State} {key pc before : Nat} {after : Nat → Nat} {w : Warp} {x : Vliw} {e : Loop} {rest : List Loop}
  (hw : s.warps.get? key = some w) (hx : w.vliw = some x) (hl : x.loops = e :: rest)

include hw hx hl

theorem loopEnd_warp_ends (ends : x.jumped = false ∧ e.last = pc ∧ rest.length + 1 ≤ before) :
    (loopEnd s key pc before after).warp key = bodyEnded x e.next rest (after e.last) w := by
  have here := (bodyGoesOn_iff pc before hl).not.mpr (not_not_intro ends)
  rw [loopEnd, modWarp_of_get? hw, State.setWarp_warp]
  simp only [hx, hl] at here ⊢
  rw [if_neg here]
  unfold bodyEnded bodyRotated
  split <;> rfl

theorem loopEnd_warp_stays (h : ¬ (x.jumped = false ∧ e.last = pc ∧ rest.length + 1 ≤ before)) : (loopEnd s key pc before after).warp key = w := by
  have elsewhere := (bodyGoesOn_iff pc before hl).mpr h
  rw [loopEnd, modWarp_of_get? hw, State.setWarp_warp]
  simp only [hx, hl] at elsewhere ⊢
  rw [if_pos elsewhere]

end

/-- Settles O31: the end of a body leaves the warp `bodyEnded`, and any other item leaves it as it was. -/
theorem loopBodyEnds : Obligations.LoopBodyEnds := by
  intro s key pc before after w x e rest hw hx hl t
  split
  case isTrue ends =>
    have warp : t = bodyEnded x e.next rest (after e.last) w := loopEnd_warp_ends hw hx hl ends
    have masks (k : Nat) : t.mask k = (bodyRotated e.next w).mask k := by rw [warp]; rfl
    obtain ⟨iter, runs, drains⟩ := loop_next_counts e
    refine ⟨by rw [warp]; exact bodyRotated_mrot _ _, by rw [warp]; exact bodyRotated_vrot _ _, by rw [warp]; exact bodyRotated_v _ _,
      by rw [warp]; exact bodyRotated_s _ _, (masks 8).trans (bodyRotated_stageMask _ _), fun k hk => ?_, fun k low high => ?_, iter, runs, drains,
      by rw [warp]; rfl⟩
    · rw [masks, bodyRotated_otherMask _ _ (by omega) (by omega), Warp.mask_rotate_fixed w hk]
    · rw [masks, bodyRotated_otherMask _ _ (by omega) (by omega), Warp.mask_rotate_succ w low high]
  case isFalse stays => exact loopEnd_warp_stays hw hx hl stays

end Sys2Proof.Laws
end

section
/-!
SUPPORT. The branches, CALL, RET, JOIN and EXIT complete (spec/05 R133 to R140).
-/
namespace Sys2Proof.Laws

open Sys2Proof Sys2Proof.Machine

/-- A uniform form that moves control completes when its own limit and the room for its record let it pass. -/
theorem completes_uniform {mk : IWord → Instr} {op : Nat} {gate : IWord → Env → Gate} {taken : IWord → Env → Bool} {target : IWord → Env → Nat}
    {before : IWord → Env → State → State} {ready : IWord → Env → State → Prop} {f : IWord → Env → State → State}
    (hx : ∀ w s, exec (mk w) s = runSem (uniformSem op w (gate w) (taken w) (target w) (before w)) s)
    (passes : ∀ w e s, ready w e s → gate w e = .ok)
    (room : ∀ w e s, ready w e s → e.view ≠ .stream → traceRoom e s (b2n (taken w e)) = true)
    (effect : ∀ w e s, f w e s = if taken w e then (before w e s).goto e (target w e) else before w e s) : CompletesWhen mk op ready f := by
  refine completes_when (sem := fun w => uniformSem op w (gate w) (taken w) (target w) (before w)) hx (fun _ => rfl) (fun _ => rfl) (fun w e s h => ?_)
    (fun w => ?_)
  · simp only [uniformSem, passes w e s h, moveGate_ok (room w e s h)]
  · funext e s
    exact (effect w e s).symm

/-! ### Branches -/

theorem branchGate_ok {op : Nat} {w : IWord} {e : Env} {s : State}
    (h : e.view ≠ .stream → traceRoom e s (if e.view = .simt then e.branchRecords w (e.target w w.a) else b2n (e.scalarPred w)) = true) :
    (branchSem op w).gate e s = .ok := by
  simp only [branchSem]
  cases hv : e.view with
  | simt => exact traceGate_ok (by simpa [hv] using h)
  | slot sl => exact traceGate_ok (by simpa [hv] using h)
  | stream => rfl

theorem branch_eff (op : Nat) (w : IWord) (e : Env) (s : State) : (branchSem op w).eff e s =
    if e.view = .simt then branchSimt e w (e.target w w.a) s
    else if e.view = .stream ∨ e.scalarPred w = true then s.goto e (e.target w w.a)
    else s := by
  simp only [branchSem]
  cases hv : e.view <;> simp

theorem completes_branch {mk : IWord → Instr} {op : Nat} (hx : ∀ w s, exec (mk w) s = runSem (branchSem op w) s) :
    CompletesWhen mk op
      (fun w e s => e.view ≠ .stream → traceRoom e s (if e.view = .simt then e.branchRecords w (e.target w w.a) else b2n (e.scalarPred w)) = true)
      fun w e s =>
        if e.view = .simt then branchSimt e w (e.target w w.a) s
        else if e.view = .stream ∨ e.scalarPred w = true then s.goto e (e.target w w.a)
        else s :=
  completes_when hx (fun _ => rfl) (fun _ => rfl) (fun _ _ _ => branchGate_ok) fun w => funext fun e => funext (branch_eff op w e)

/-! ### JOIN and EXIT -/

theorem joinGate_ok {w : IWord} {e : Env} {s : State}
    (h : e.rejoins = true → traceRoom e s (e.w.atJoin e.pathNo e.pc e.next (joinRpc e w)).mergeRecords.length = true) : (semJoin w).gate e s = .ok := by
  simp only [semJoin]
  split
  case isTrue rejoins => exact traceGate_ok (h rejoins)
  case isFalse => rfl

theorem exitGate_ok {w : IWord} {e : Env} {s : State}
    (h : if e.exitsAll w then decisionRoom e s (s.departRecords e) = true
      else e.view = .simt → e.survivors w = 0 → traceRoom e s (e.w.dropPath e.pathNo).mergeRecords.length = true) : (semExit w).gate e s = .ok := by
  simp only [semExit]
  split at h
  case isTrue ends => rw [if_pos ends, decisionGate_ok h]
  case isFalse stays =>
    rw [if_neg stays]
    cases hv : e.view with
    | simt =>
      simp only
      split
      case isTrue none => exact traceGate_ok (h hv none)
      case isFalse => rfl
    | slot _ | stream => rfl

/-! ### Targets -/

/-- A register target is its address rounded down to an instruction. -/
theorem target_sreg {e : Env} {w : IWord} {o : Operand} {n : Fin 64} (h : o = .sreg n) :
    e.target w o = ((e.w.sreg n.val).toNat % 2 ^ 57) - (e.w.sreg n.val).toNat % 2 ^ 57 % 8 := by
  subst h
  simp only [Env.target]
  omega

/-- Settles O49: each form's gate opens on the room that its records have. -/
theorem branchesComplete : Obligations.BranchesComplete := by
  refine ⟨completes_branch fun _ _ => rfl, completes_branch fun _ _ => rfl,
    completes_uniform (fun _ _ => rfl) (fun _ _ _ _ => rfl) (fun _ _ _ room => room) fun _ _ _ => rfl,
    completes_uniform (fun _ _ => rfl) (fun _ _ _ _ => rfl) (fun _ _ _ room => room) fun _ _ _ => rfl,
    completes_when (fun _ _ => rfl) (fun _ => rfl) (fun _ => rfl) (fun _ _ _ => joinGate_ok) fun _ => rfl,
    completes_when (fun _ _ => rfl) (fun _ => rfl) (fun _ => rfl) (fun _ _ _ => exitGate_ok) fun _ => rfl,
    fun e w => ⟨fun n h => ?_, fun n h => target_sreg h⟩⟩
  rw [h]
  rfl

end Sys2Proof.Laws
end

section
/-!
SUPPORT. The threads that a branch takes, and the paths that a split leaves (spec/05 R135 to R137).
-/
namespace Sys2Proof.Laws

open Sys2Proof Sys2Proof.Machine

/-! ### The taken threads -/

theorem mem_takenSet {e : Env} {w : IWord} {k : Nat} : (e.takenSet w).getLsbD k = true ↔ k < 32 ∧ k ∈ e.lanesOn w := by
  have sorted : (e.lanesOn w).SortedLT := (List.pairwise_lt_range.filter _).sortedLT
  rw [Env.takenSet, BitVec.getLsbD_ofNat, Bool.and_eq_true, decide_eq_true_eq, ← Nat.mem_bitIndices, Nat.bitIndices_sum_map_two_pow sorted]

/-- A branch takes threads of its path only. -/
theorem takenSet_subset {e : Env} {w : IWord} (hv : e.view = .simt) {k : Nat} (h : (e.takenSet w).getLsbD k = true) : e.mask.getLsbD k = true := by
  obtain ⟨-, taken⟩ := mem_takenSet.mp h
  obtain ⟨-, issues⟩ := List.mem_filter.mp taken
  obtain ⟨active, -⟩ := (Bool.and_eq_true _ _).mp issues
  simpa [Env.active, View.inSlot, hv] using active

/-! ### Traces -/

/-- Whether a core traces does not depend on a warp beside its launch. -/
theorem traced_modWarp (e : Env) (s : State) (k : Nat) {f : Warp → Warp} (hf : ∀ w, (f w).launch = w.launch) : e.traced (s.modWarp k f) = e.traced s := by
  have launch (l : Nat) : ((s.modWarp k f).warp l).launch = (s.warp l).launch := s.modWarp_keeps k l f Warp.launch hf
  have works : (s.modWarp k f).partyLaunch e.party = s.partyLaunch e.party := by
    unfold State.partyLaunch
    cases e.party with
    | path g sl i | thread g sl => simp only [launch]; rfl
    | service g | seq n => rfl
  have part : (s.modWarp k f).partyPart e.party = s.partyPart e.party := by
    unfold State.partyPart
    rw [works]
    rfl
  unfold Env.traced
  rw [part]
  rfl

theorem trace_untraced {e : Env} {s : State} (h : e.traced s = false) (l : List (Nat × Nat × Nat)) : s.trace e l = s := by
  rw [State.trace, h, if_neg Bool.false_ne_true]

/-! ### The warp a branch leaves -/

/-- The path does not wait at a JOIN. -/
def notJoining (p : Path) : Prop := match p.wait with | .join _ _ => False | _ => True

theorem notJoining_iff {p : Path} : notJoining p ↔ ∀ n r, p.wait ≠ .join n r := by
  unfold notJoining
  cases p.wait <;> simp

theorem joinAt_eq_self {w : Warp} (h : ∀ k p, w.paths.get? k = some p → notJoining p) (j : Nat) : w.joinAt j = w := by
  have free (k : Nat) : notJoining (w.paths.getD k State.path0) := by
    unfold Tbl.getD
    cases hk : w.paths.get? k with
    | none => trivial
    | some p => exact h k p hk
  unfold Warp.joinAt
  dsimp only
  split
  case h_1 n r waits => exact absurd waits (notJoining_iff.mp (free _) n r)
  case h_2 => rfl

/-- Nothing merges in a warp where no path waits at a JOIN. -/
theorem joinAll_eq_self {w : Warp} (h : ∀ k p, w.paths.get? k = some p → notJoining p) : w.joinAll = w := by
  unfold Warp.joinAll
  induction w.joinable with
  | nil => rfl
  | cons j r ih => rw [List.foldl_cons, joinAt_eq_self h, ih]

/-- The warp `y` is `x` but for its path table. -/
def sameButPaths (x y : Warp) : Prop := ∃ l, y = { x with paths := l }

theorem sameButPaths_trans {x y z : Warp} (h : sameButPaths x y) (k : sameButPaths y z) : sameButPaths x z := by
  obtain ⟨l, rfl⟩ := h
  obtain ⟨m, rfl⟩ := k
  exact ⟨m, rfl⟩

theorem sameButPaths_joinAt (w : Warp) (j : Nat) : sameButPaths w (w.joinAt j) := by
  unfold Warp.joinAt
  dsimp only
  split
  · unfold Warp.merge
    split <;> exact ⟨_, rfl⟩
  · exact ⟨_, rfl⟩

theorem sameButPaths_joinAll (w : Warp) : sameButPaths w w.joinAll := by
  unfold Warp.joinAll
  generalize w.joinable = l
  induction l generalizing w with
  | nil => exact ⟨_, rfl⟩
  | cons j r ih => exact sameButPaths_trans (sameButPaths_joinAt w j) (ih _)

theorem sameButPaths_branch (x : Warp) (e : Env) (w : IWord) (target : Nat) : sameButPaths x (x.branch e w target).1 := by
  unfold Warp.branch
  split
  · exact ⟨_, rfl⟩
  · dsimp only
    split
    · exact sameButPaths_trans ⟨_, rfl⟩ (sameButPaths_joinAll _)
    · exact ⟨_, rfl⟩

/-! ### The two entries of a split -/

/-- The entry that keeps the threads that fall through. -/
def fallsThrough (e : Env) (w : IWord) (p : Path) : Path :=
  { p with mask := e.mask &&& ~~~(e.takenSet w), rpc := if w.ext.getLsbD 0 then some (e.target w w.b) else p.rpc }

/-- The entry that takes the taken threads. -/
def branchesOff (e : Env) (w : IWord) (target : Nat) (p : Path) : Path :=
  { fallsThrough e w p with pc := target, mask := e.takenSet w, wait := .none, synced := none, slept := false, held := false, steps := 0, released := false }

theorem freePath_none {x : Warp} {j : Nat} (h : x.freePath = some j) : x.paths.get? j = none := by
  simpa using List.find?_some h

section

variable {x : Warp} {e : Env} {w : IWord} {i j target : Nat} {p : Path} (hp : x.paths.get? i = some p) (hj : x.freePath = some j)

include hp

theorem split_eq : x.split e w i j target = { x with paths := Tbl.set (Tbl.set x.paths i (fallsThrough e w p)) j (branchesOff e w target p) } := by
  simp only [Warp.split, Tbl.getD, hp, Option.getD_some]
  rfl

theorem split_taken : (x.split e w i j target).paths.get? j = some (branchesOff e w target p) := by
  rw [split_eq hp]
  exact Tbl.get?_set_self _ _ _

theorem split_others {k : Nat} (hki : k ≠ i) (hkj : k ≠ j) : (x.split e w i j target).paths.get? k = x.paths.get? k := by
  rw [split_eq hp]
  exact (Tbl.get?_set_ne _ _ hkj.symm).trans (Tbl.get?_set_ne _ _ hki.symm)

include hj

theorem split_kept : (x.split e w i j target).paths.get? i = some (fallsThrough e w p) := by
  have other : j ≠ i := by
    rintro rfl
    rw [freePath_none hj] at hp
    cases hp
  rw [split_eq hp]
  exact (Tbl.get?_set_ne _ _ other).trans (Tbl.get?_set_self _ _ _)

/-- A split makes no path wait at a JOIN. -/
theorem split_notJoining (h : ∀ k q, x.paths.get? k = some q → notJoining q) (k : Nat) (q : Path) (hq : (x.split e w i j target).paths.get? k = some q) :
    notJoining q := by
  by_cases hkj : k = j
  · subst hkj
    rw [split_taken hp] at hq
    cases hq
    trivial
  · by_cases hki : k = i
    · subst hki
      rw [split_kept hp hj] at hq
      cases hq
      exact h k p hp
    · rw [split_others hp hki hkj] at hq
      exact h k q hq

theorem branch_eq_split (hi : e.pathNo = i) (h : w.ext.getLsbD 0 = true → ∀ k q, x.paths.get? k = some q → notJoining q) :
    (x.branch e w target).1 = x.split e w i j target := by
  unfold Warp.branch
  rw [hj, hi]
  dsimp only
  split
  case isTrue names => exact joinAll_eq_self (split_notJoining hp hj (h names))
  case isFalse => rfl

end

/-! ### The state a branch leaves -/

/-- A warp whose path `i` goes to an address. -/
def pathMoved (i target : Nat) (x : Warp) : Warp := { x with paths := x.paths.modify i fun p => { p with pc := target } }

section

variable {s : State} {e : Env} {w : IWord} {target g sl i : Nat} (hv : e.view = .simt) (hp : e.party = .path g sl i) (hk : e.key = warpKey g sl)
  (quiet : e.traced s = false)

theorem branchSimt_none (none : e.takenSet w = 0) : branchSimt e w target s = s := if_pos none

include hv hp hk quiet in
theorem branchSimt_all (all : e.takenSet w = e.mask) (some : e.takenSet w ≠ 0) : branchSimt e w target s = s.modWarp e.key (pathMoved i target) := by
  have moved : s.setPc e.party target = s.modWarp e.key (pathMoved i target) := by
    rw [hp, hk]
    rfl
  have quiet' : e.traced (s.modWarp e.key (pathMoved i target)) = false := by
    rw [traced_modWarp (f := pathMoved i target) e s e.key fun _ => rfl, quiet]
  unfold branchSimt State.goto
  rw [if_neg some, if_pos all, hv]
  dsimp only
  rw [moved, trace_untraced quiet']

include quiet in
theorem branchSimt_split (some : e.takenSet w ≠ 0) (notAll : e.takenSet w ≠ e.mask) :
    branchSimt e w target s = s.modWarp e.key fun x => (x.branch e w target).1 := by
  have launch (x : Warp) : (x.branch e w target).1.launch = x.launch := by
    obtain ⟨l, h⟩ := sameButPaths_branch x e w target
    rw [h]
  unfold branchSimt
  rw [if_neg some, if_neg notAll]
  exact trace_untraced ((traced_modWarp e s e.key launch).trans quiet) _

end

/-- What changes only path tables of one warp leaves every register, every other warp and everything outside the issuers as it was. -/
theorem modWarp_sameButPaths {s : State} {k : Nat} {f : Warp → Warp} (hf : ∀ x, sameButPaths x (f x)) :
    sameOutside s (s.modWarp k f) ∧ sameRegisters s (s.modWarp k f) ∧ ∀ l, l ≠ k → (s.modWarp k f).warps.get? l = s.warps.get? l := by
  have keeps {β : Type} (p : Warp → β) (hp : ∀ x l, p { x with paths := l } = p x) (n : Nat) : p ((s.modWarp k f).warp n) = p (s.warp n) :=
    s.modWarp_keeps k n f p fun x => by
      obtain ⟨l, h⟩ := hf x
      rw [h, hp]
  obtain ⟨outside, -, -, others⟩ := s.modWarp_frame k f
  exact ⟨outside, fun n => ⟨keeps Warp.v (fun _ _ => rfl) n, keeps Warp.s (fun _ _ => rfl) n, keeps Warp.m (fun _ _ => rfl) n⟩, others⟩

/-- The threads of a path and the part of them that is taken: the two masks of a split. -/
theorem split_masks {m t : Word32} (h : ∀ k, t.getLsbD k = true → m.getLsbD k = true) : (m &&& ~~~t) ||| t = m ∧ (m &&& ~~~t) &&& t = 0 := by
  constructor <;> refine BitVec.eq_of_getLsbD_eq fun k hk => ?_
  · rw [BitVec.getLsbD_or, BitVec.getLsbD_and, BitVec.getLsbD_not]
    cases ht : t.getLsbD k with
    | false => simp [hk]
    | true => simp [h k ht]
  · cases ht : t.getLsbD k <;> simp [ht]

/-- Settles O50: a branch leaves the state as it was, moves its path, or leaves `Warp.split`. -/
theorem branchesSplitPaths : Obligations.BranchesSplitPaths := by
  intro s e w target g sl i x p hv hp hk quiet hx hpath hmask taken t y
  have subset (k : Nat) : taken.getLsbD k = true → e.mask.getLsbD k = true := takenSet_subset hv
  have frame : sameOutside s t ∧ sameRegisters s t ∧ ∀ k, k ≠ e.key → t.warps.get? k = s.warps.get? k := by
    by_cases none : taken = 0
    · rw [show t = s from branchSimt_none none]
      exact ⟨⟨rfl, rfl, rfl, rfl, rfl, rfl, rfl, rfl, rfl⟩, fun _ => ⟨rfl, rfl, rfl⟩, fun _ _ => rfl⟩
    · by_cases all : taken = e.mask
      · rw [show t = _ from branchSimt_all hv hp hk quiet all none]
        exact modWarp_sameButPaths fun _ => ⟨_, rfl⟩
      · rw [show t = _ from branchSimt_split quiet none all]
        exact modWarp_sameButPaths fun _ => sameButPaths_branch _ _ _ _
  obtain ⟨outside, registers, others⟩ := frame
  have changed {f : Warp → Warp} (h : t = s.modWarp e.key f) : y = f x := by
    refine (congrArg (fun u => u.warp e.key) h).trans ?_
    rw [State.modWarp_warp _ _ _ (by rw [hx]; rfl), State.warp_of_get? hx]
  refine ⟨subset, outside, registers, others, branchSimt_none, fun all some => ?_, fun some notAll waits j hj => ?_⟩
  · have warp := changed (branchSimt_all hv hp hk quiet all some)
    rw [warp]
    exact ⟨by simp [pathMoved, hpath], fun j hji => Tbl.get?_modify_ne _ _ hji.symm⟩
  · have warp : y = x.split e w i j target :=
      (changed (branchSimt_split quiet some notAll)).trans (branch_eq_split hpath hj (by rw [Env.pathNo, hp]) waits)
    obtain ⟨together, apart⟩ := split_masks subset
    rw [warp]
    exact ⟨_, _, split_kept hpath hj, split_taken hpath, together, apart, rfl, rfl, rfl, rfl, rfl, fun k hki hkj => split_others hpath hki hkj⟩

end Sys2Proof.Laws
end

section
/-!
SUPPORT. The loop forms (spec/05 R142, R143, R147; spec/14 R366).
-/
namespace Sys2Proof.Laws

open Sys2Proof Sys2Proof.Machine

/-! ### The limits of a logit program -/

theorem lpLoop_ok {e : Env} {count : Nat} {taken : Bool} (h : ∀ m, e.lpMode = some m → count ≤ 4096 ∧ (taken = true → m.taken < 2 ^ 20)) :
    lpLoop e count taken = .ok := by
  unfold lpLoop
  cases hm : e.lpMode with
  | none => rfl
  | some m =>
    obtain ⟨short, few⟩ := h m hm
    refine if_neg ?_
    simp only [Bool.or_eq_true, Bool.and_eq_true, decide_eq_true_eq]
    rintro (long | ⟨goes, many⟩)
    · omega
    · have := few goes
      omega

theorem lpBreak_ok {w : IWord} {e : Env} (h : e.lpMode.isSome = true → e.pc < e.target w w.b) : lpBreak w e = .ok := by
  refine if_neg ?_
  simp only [Bool.and_eq_true, decide_eq_true_eq]
  rintro ⟨limited, back⟩
  have := h limited
  omega

/-! ### LOOP.push and LBREAK -/

/-- A form that leaves a loop goes on once the header at END is read and its record has room. -/
theorem afterEndGate_ok {e : Env} {s : State} {last : Nat} (found : ∃ t va, e.afterEnd s last = .at t va) (room : traceRoom e s 1 = true) :
    (match (e.afterEnd s last).toGate with | .ok => e.traceGate s 1 | g => g) = .ok := by
  obtain ⟨t, va, found⟩ := found
  rw [found]
  exact traceGate_ok room

theorem loopPushGate_ok {w : IWord} {e : Env} {s : State} (limit : e.lpMode.isSome = true → pushCount e w ≤ 4096)
    (h : if pushCount e w = 0 then (∃ t va, e.afterEnd s (e.target w w.b) = .at t va) ∧ traceRoom e s 1 = true else e.depth < 8) :
    (semLoopPush w).gate e s = .ok := by
  have short : lpLoop e (pushCount e w) false = .ok := lpLoop_ok fun m hm => ⟨limit (by rw [hm]; rfl), fun goes => absurd goes Bool.false_ne_true⟩
  simp only [semLoopPush, short]
  split at h
  case isTrue passed =>
    obtain ⟨found, room⟩ := h
    rw [if_pos passed]
    exact afterEndGate_ok found room
  case isFalse enters => rw [if_neg enters, if_neg (Nat.not_le.mpr h)]

theorem lbreakGate_ok {w : IWord} {e : Env} {s : State}
    (h : ∀ l, e.breaks w = some l → (∃ t va, e.afterEnd s l.last = .at t va) ∧ traceRoom e s 1 = true) : (semLbreak w).gate e s = .ok := by
  simp only [semLbreak]
  cases hb : e.breaks w with
  | none => rfl
  | some l =>
    obtain ⟨found, room⟩ := h l hb
    exact afterEndGate_ok found room

/-- The entry that LOOP.push makes: K prologue and epilogue runs, and K + 1 stages. -/
def pushedLoop (w : IWord) (e : Env) : Loop :=
  let k := bits w.ext.toNat 2 4
  { start := e.next, last := e.target w w.b, count := pushCount e w, pro := k, epi := k, stages := k + 1, iter := 0 }

/-- A warp that enters a loop: stage mask 8 is set, and those above it are clear. -/
def loopEntered (l : Loop) (x : Warp) : Warp :=
  (range 9 16).foldl (fun (y : Warp) i => y.setMask i 0)
    (({ x with vliw := x.vliw.map fun (y : Vliw) => { y with loops := l :: y.loops } } : Warp).setMask 8 (BitVec.allOnes 1024))

theorem loopPush_warp {w : IWord} {e : Env} {s : State} {x : Warp} (enters : pushCount e w ≠ 0) (hx : s.warps.get? e.key = some x) :
    ((semLoopPush w).eff e s).warp e.key = loopEntered (pushedLoop w e) x := by
  have eff : (semLoopPush w).eff e s = s.modWarp e.key (loopEntered (pushedLoop w e)) := if_neg enters
  rw [eff, modWarp_of_get? hx, State.setWarp_warp]

theorem mem_range {lo hi n : Nat} : n ∈ range lo hi ↔ lo ≤ n ∧ n < hi := by
  simp only [range, List.mem_map, List.mem_range]
  constructor
  · rintro ⟨d, hd, rfl⟩; omega
  · rintro ⟨hl, hh⟩; exact ⟨n - lo, by omega, by omega⟩

theorem loopEntered_mask (l : Loop) (x : Warp) {n : Nat} (hn : n < 16) :
    (loopEntered l x).mask n = if 9 ≤ n then 0 else if n = 8 then BitVec.allOnes 1024 else x.mask n := by
  rw [loopEntered, Warp.mask_foldl_setMask 0 (fun m hm => (mem_range.mp hm).2) _ hn]
  simp only [mem_range, hn, and_true]
  refine if_congr Iff.rfl rfl ?_
  split
  case isTrue stage => rw [stage, Warp.mask_setMask_self]
  case isFalse other => exact Warp.mask_setMask_ne _ _ (by decide) hn (Ne.symm other)

/-- Settles O51: each form's gate opens, and LOOP.push leaves the warp `loopEntered`. -/
theorem loopFormsComplete : Obligations.LoopFormsComplete := by
  refine ⟨?dec, completes_when (fun _ _ => rfl) (fun _ => rfl) (fun _ => rfl) (fun _ _ _ ⟨limit, h⟩ => loopPushGate_ok limit h) fun _ => rfl,
    completes_when (fun _ _ => rfl) (fun _ => rfl) (fun _ => rfl) (fun _ _ _ => lbreakGate_ok) fun _ => rfl, ?z, ?nz, ?entered⟩
  case dec =>
    refine completes_uniform (fun _ _ => rfl) (fun w e s ⟨limit, _⟩ => lpLoop_ok fun m hm => ?_) (fun w e s ⟨_, room⟩ stream => ?_) fun w e s => ?_
    · simpa using limit m hm
    · simpa [b2n] using room stream
    · by_cases goes : 1 < loopCount e w <;> simp [goes]
  case z =>
    refine completes_uniform (fun _ _ => rfl) (fun _ _ _ ⟨ahead, _⟩ => lpBreak_ok ahead) (fun w e s ⟨_, room⟩ stream => ?_) fun w e s => ?_
    · simpa [b2n, breakZero] using room stream
    · simp [breakZero]
  case nz =>
    refine completes_uniform (fun _ _ => rfl) (fun _ _ _ ⟨ahead, _⟩ => lpBreak_ok ahead) (fun w e s ⟨_, room⟩ stream => ?_) fun w e s => ?_
    · have := room stream
      by_cases zero : e.u64 w w.a = 0 <;> simpa [b2n, breakZero, zero] using this
    · by_cases zero : e.u64 w w.a = 0 <;> simp [breakZero, zero]
  case entered =>
    intro w e s x v enters hx hv t k
    have warp : t = loopEntered (pushedLoop w e) x := loopPush_warp enters hx
    have keeps {β : Type} (p : Warp → β) (hp : ∀ w n v, p (w.setMask n v) = p w) :
        p t = p { x with vliw := x.vliw.map fun (y : Vliw) => { y with loops := pushedLoop w e :: y.loops } } := by
      rw [warp, loopEntered, Warp.foldl_setMask_keeps p hp, hp]
    have mask {n : Nat} (hn : n < 16) := (congrArg (Warp.mask · n) warp).trans (loopEntered_mask (pushedLoop w e) x hn)
    refine ⟨?_, mask (by decide), fun n low high => ?_, fun n low => ?_, keeps Warp.v fun _ _ _ => rfl, keeps Warp.s fun _ _ _ => rfl⟩
    · rw [keeps Warp.vliw fun _ _ _ => rfl, hv]
      rfl
    · rw [mask high, if_pos low]
    · rw [mask (by omega), if_neg (by omega), if_neg (by omega)]

end Sys2Proof.Laws
end

section
/-!
SUPPORT. Changes of mode, NOP and SLEEP (spec/05 R141, R148 to R150).
-/
namespace Sys2Proof.Laws

open Sys2Proof Sys2Proof.Machine

theorem modeVliwGate_ok {e : Env} {s : State}
    (h : e.w.inflight = [] ∧ (s.group e.group).mode = .dual ∧ e.w.paths.length = 1 ∧ e.mask = 0xFFFFFFFF ∧ s.pending e.key = []) :
    modeVliwGate e s = .ok := by
  obtain ⟨landed, dual, onePath, full, none⟩ := h
  simp [modeVliwGate, landed, dual, onePath, full, none]

theorem modeSimtGate_ok {e : Env} {s : State}
    (h : (s.group e.group).mode = .dual ∧ s.pending e.key = [] ∧ (headerOf e.header).yield = true ∧ e.depth = 0) : modeSimtGate e s = .ok := by
  obtain ⟨dual, none, yield, noLoop⟩ := h
  simp [modeSimtGate, dual, none, yield, noLoop]

theorem sleepGate_ok {w : IWord} {e : Env} {s : State} (h : s.sleptOf e.party = true ∨ e.scalarPred w = false ∨ sleepLimit e w ≤ e.ccnt) :
    (semSleep w).gate e s = .ok :=
  if_pos (by simpa [or_assoc] using h)

theorem exec_modeVliwContextTaken {s : State} {g sl c : Nat} (free : s.freeContext g = some c) (first : s.contextWaiter g = some (warpKey g sl)) :
    exec (.modeVliwContextTaken g sl) s =
      .next ((s.modWarp (warpKey g sl) fun w => { w with vliw := w.vliw.map fun x => { x with ctx := some c, wait := .none } }).rouse (g / 2) 1) := by
  show execModeVliwContextTaken g sl s = _
  unfold execModeVliwContextTaken
  rw [free]
  exact if_pos first

theorem exec_sleepExpiry {s : State} {p : Party} {n : Nat} (sleeps : s.waitOf p = .sleep n) (due : n ≤ s.ccnt) :
    exec (.sleepExpiry p) s = .next (((s.setWait p .none).setSlept p true).rouse (partyCore p) 7) := by
  show execSleepExpiry p s = _
  unfold execSleepExpiry
  rw [sleeps]
  exact if_pos due

/-- Settles O52: each gate opens under its condition, and a change of mode is one change of the issuer's warp. -/
theorem modesAndSleepComplete : Obligations.ModesAndSleepComplete := by
  refine ⟨completes_when (fun _ _ => rfl) (fun _ => rfl) (fun _ => rfl) (fun _ _ _ => modeVliwGate_ok) fun _ => rfl,
    completes_when (fun _ _ => rfl) (fun _ => rfl) (fun _ => rfl) (fun _ _ _ => modeSimtGate_ok) fun _ => rfl,
    fun _ _ _ _ => exec_modeVliwContextTaken, fun w _ _ h => runSem_free (sem := semNop w) h rfl,
    completes_when (fun _ _ => rfl) (fun _ => rfl) (fun _ => rfl) (fun _ _ _ => sleepGate_ok) fun _ => rfl, fun _ _ _ => exec_sleepExpiry,
    fun s e x hx => ?_⟩
  unfold modeVliwEff modeSimtEff
  dsimp only
  rw [modWarp_of_get? hx, modWarp_of_get? hx, State.setWarp_warp, State.setWarp_warp]
  exact ⟨rfl, ⟨_, rfl, rfl, rfl, rfl⟩, rfl, rfl, rfl, rfl, ⟨_, rfl, rfl, rfl, rfl⟩, rfl, rfl, rfl⟩

end Sys2Proof.Laws
end

section
/-!
SUPPORT. Float forms: the two that choose an operand, and the table of R155 (spec/06 R155 to R157).
-/
namespace Sys2Proof.Laws

open Sys2Proof Sys2Proof.Machine

/-- A form that only computes sends any output that equals the model's. -/
theorem completes_of_out {mk : IWord → Instr} {op : Nat} {out out' : IWord → Env → Out}
    (hx : ∀ w s, exec (mk w) s = runSem (computeSem op w (out w)) s) (h : ∀ w e, out' w e = out w e) :
    CompletesAlways mk op fun w => computing op w (out' w) :=
  completes_compute hx fun w => computing_congr (h w)

theorem fMinMax_eq (f : Fmt) (isMax : Bool) (a b : Nat) : fMinMax f isMax a b =
    if isNaN f a && isNaN f b then quiet f a else if isNaN f a then b else if isNaN f b then a
    else if (fRank f a < fRank f b) != isMax then a else b := by
  cases ha : isNaN f a <;> cases hb : isNaN f b <;> simp [fMinMax, ha, hb]

theorem fMinMax_min (f : Fmt) (a b : Nat) : fMinMax f false a b =
    if isNaN f a && isNaN f b then quiet f a else if isNaN f a then b else if isNaN f b then a else if fRank f a < fRank f b then a else b := by
  simp only [fMinMax_eq, Bool.bne_false, decide_eq_true_eq]

theorem fMinMax_max (f : Fmt) (a b : Nat) : fMinMax f true a b =
    if isNaN f a && isNaN f b then quiet f a else if isNaN f a then b else if isNaN f b then a else if fRank f a < fRank f b then b else a := by
  simp only [fMinMax_eq, Bool.bne_true, Bool.not_eq_true', decide_eq_false_iff_not, ite_not]

/-- Settles O12: each form's output is `floatOut`, `floatExact` or `dotOut` of its row of the table. -/
theorem floatFormsComplete : Obligations.FloatFormsComplete := by
  refine ⟨?fadd, ?fsub, ?fmul, ?ffma, ?fmin, ?fmax, ?fneg, ?fabs, ?frnd, ?fscale, ?fdot2, ?fdot4⟩
  case fmin =>
    exact completes_of_out (out := fun w => floatExact w fun f a b => fMinMax f false a b) (fun _ _ => rfl) fun _ _ => results_congr fun _ _ _ _ =>
      congrArg plain (fMinMax_min _ _ _).symm
  case fmax =>
    exact completes_of_out (out := fun w => floatExact w fun f a b => fMinMax f true a b) (fun _ _ => rfl) fun _ _ => results_congr fun _ _ _ _ =>
      congrArg plain (fMinMax_max _ _ _).symm
  all_goals exact completes_of_out (fun _ _ => rfl) fun _ _ => rfl

end Sys2Proof.Laws
end

section
/-!
SUPPORT. Conversions: the places of the source elements, and packed f6e3 values (spec/06 R159 to R165).
-/
namespace Sys2Proof.Laws

open Sys2Proof Sys2Proof.Machine

/-- The registers of a destination: a pair or a quad when its elements are two or four times as wide as the source's. -/
theorem ratioSpans_fst {ws : Nat} (h : 0 < ws) (wd : Nat) :
    ((ratioSpans wd ws).getD (1, 1)).1 = if wd = 2 * ws then 2 else if wd = 4 * ws then 4 else 1 := by
  unfold ratioSpans
  split_ifs <;> simp <;> omega

/-- A conversion reads each element at its place under `convPlace` (spec/06 R159). -/
theorem convOut_eq (w : IWord) (dt st : Ty) (mode : RMode) (sr : Bool) (f : Nat → Nat → Nat × Nat) (e : Env) :
    convOut w dt st mode sr f e =
      e.results w dt false (if dt.width = 2 * st.width then 2 else if dt.width = 4 * st.width then 4 else 1) sr fun q lane i n =>
        f (e.randIf mode n) (e.elem w st false w.a (convPlace dt.width st.width q i).1 lane (convPlace dt.width st.width q i).2) := by
  rw [convOut, ratioSpans_fst (width_pos st)]

/-- The three bytes that hold the four values from `4 g` on, as one number (spec/06 R163). -/
def packedGroup (f : Nat → Nat) (g : Nat) : Nat := f (4 * g) + f (4 * g + 1) * 2 ^ 6 + f (4 * g + 2) * 2 ^ 12 + f (4 * g + 3) * 2 ^ 18

theorem packByte_eq {f : Nat → Nat} (small : ∀ j, f j < 64) (g : Nat) {k : Nat} (hk : k < 3) :
    packByte f (3 * g + k) = bits (packedGroup f g) (8 * k) 8 := by
  have group : (3 * g + k) / 3 = g := by omega
  have place : (3 * g + k) % 3 = k := by omega
  simp only [packByte, packedGroup, group, place, fun j => Nat.mod_eq_of_lt (small j)]

theorem packedGroup_lt {f : Nat → Nat} (small : ∀ j, f j < 64) (g : Nat) : packedGroup f g < 2 ^ 24 := by
  have := small (4 * g + 3)
  have := small (4 * g + 2)
  have := small (4 * g + 1)
  have := small (4 * g)
  unfold packedGroup
  omega

theorem three_bytes {v : Nat} (h : v < 2 ^ 24) : bits v (8 * 0) 8 + bits v (8 * 1) 8 * 2 ^ 8 + bits v (8 * 2) 8 * 2 ^ 16 = v := by
  simp only [bits_eq]
  omega

theorem bits_packedGroup {f : Nat → Nat} (small : ∀ j, f j < 64) (g : Nat) {r : Nat} (hr : r < 4) : bits (packedGroup f g) (6 * r) 6 = f (4 * g + r) := by
  have := small (4 * g + 3)
  have := small (4 * g + 2)
  have := small (4 * g + 1)
  have := small (4 * g)
  rw [bits_eq, packedGroup]
  interval_cases r <;> simp only [Nat.reduceMul, Nat.reducePow, Nat.add_zero] <;> omega

/-- What PACK puts in three bytes, UNPK takes out again. -/
theorem unpackVal_packByte {f : Nat → Nat} (small : ∀ j, f j < 64) (i : Nat) : unpackVal (packByte f) i = f i := by
  have bytes : packByte f (3 * (i / 4)) + packByte f (3 * (i / 4) + 1) * 2 ^ 8 + packByte f (3 * (i / 4) + 2) * 2 ^ 16 = packedGroup f (i / 4) := by
    rw [← three_bytes (packedGroup_lt small (i / 4)), ← packByte_eq small _ (by decide), ← packByte_eq small _ (by decide),
      ← packByte_eq small _ (by decide)]
    rfl
  simp only [unpackVal, bytes, bits_packedGroup small _ (Nat.mod_lt i (by decide : 4 > 0)), Nat.div_add_mod]

/-- Settles O14: a conversion is `convOut` of its types, read at the places of `convPlace`, and packed f6e3 values are read back as they were. -/
theorem conversionsComplete : Obligations.ConversionsComplete := by
  refine ⟨?fcvt, ?icvt, ?pack, ?unpk, ?bscale, fun signed n v => rfl, fun f i small _ => unpackVal_packByte small i⟩
  case fcvt =>
    refine completes_of_out (out := fcvtOut) (fun _ _ => rfl) fun w e => ?_
    simp only [fcvtOut, convOut_eq, bits_eq]
    rfl
  case icvt =>
    refine completes_of_out (out := icvtOut) (fun _ _ => rfl) fun w e => ?_
    cases dst : (typedTy w).isInt with
    | false =>
      simp only [icvtOut, convOut_eq, dst, Bool.false_and]
      rfl
    | true =>
      cases src : ((Ty.ofCode (smallOf w.b).toNat).getD .i32).isInt <;> simp only [icvtOut, convOut_eq, dst, src, Bool.and_false, Bool.and_true] <;> rfl
  case pack => exact completes_of_out (out := packOut) (fun _ _ => rfl) fun _ _ => rfl
  case unpk => exact completes_of_out (out := unpkOut) (fun _ _ => rfl) fun _ _ => rfl
  case bscale =>
    refine completes_of_out (out := bscaleOut) (fun _ _ => rfl) fun w e => ?_
    simp only [bscaleOut, ratioSpans_fst (width_pos _), bits_eq]
    rfl

end Sys2Proof.Laws
end

section
/-!
SUPPORT. Lane moves: the bytes PERM picks and the threads BALLOT gathers (spec/06 R167 to R172).
-/
namespace Sys2Proof.Laws

open Sys2Proof Sys2Proof.Machine

/-! ### The bytes of PERM -/

/-- Byte `m` of two rows of 16 bytes, one above the other. -/
theorem byte_of_pair {a : Nat} (ha : a < 2 ^ 128) (b : Nat) {m : Nat} :
    bits (a + b * 2 ^ 128) (8 * m) 8 = if m < 16 then a / 2 ^ (8 * m) % 256 else b / 2 ^ (8 * (m - 16)) % 256 := by
  rw [bits_eq, show 2 ^ 8 = 256 from rfl]
  split
  case isTrue low =>
    have above : b * 2 ^ 128 = b * 2 ^ (120 - 8 * m) * 256 * 2 ^ (8 * m) := by
      rw [mul_assoc, mul_assoc, show 256 = 2 ^ 8 from rfl, ← pow_add, ← pow_add]
      congr 2
      omega
    rw [above, Nat.add_mul_div_right _ _ (by positivity), Nat.add_mul_mod_self_right]
  case isFalse high =>
    have past : 8 * m = 128 + 8 * (m - 16) := by omega
    rw [past, pow_add, ← Nat.div_div_eq_div_mul, Nat.add_mul_div_right _ _ (by decide), Nat.div_eq_of_lt ha, Nat.zero_add]

theorem testBit_gatherBits (l : List (Nat × Nat × Nat)) (i : Nat) :
    (gatherBits l).1.testBit i = true ↔ ∃ x ∈ l, x.1 ≤ i ∧ i < x.1 + x.2.1 ∧ x.2.2.testBit (i - x.1) = true := by
  induction l with
  | nil => simp [gatherBits]
  | cons x r ih =>
    have field : ((x.2.2 % 2 ^ x.2.1) <<< x.1).testBit i = true ↔ x.1 ≤ i ∧ i < x.1 + x.2.1 ∧ x.2.2.testBit (i - x.1) = true := by
      simp only [Nat.testBit_shiftLeft, Nat.testBit_mod_two_pow, Bool.and_eq_true, decide_eq_true_eq]
      exact and_congr_right fun low => and_congr_left' (Nat.sub_lt_iff_lt_add' low)
    rw [gatherBits, Nat.testBit_or, Bool.or_eq_true, ih, field, List.exists_mem_cons_iff, or_comm]

/-- Bytes gathered one after another are the bytes of the number. -/
theorem byte_gatherBits {f : Nat → Nat} (small : ∀ j, f j < 256) {n j : Nat} (hj : j < n) :
    (gatherBits ((List.range n).map fun j => (8 * j, 8, f j))).1 / 2 ^ (8 * j) % 256 = f j := by
  refine Nat.eq_of_testBit_eq fun i => ?_
  rw [show 256 = 2 ^ 8 from rfl, Nat.testBit_mod_two_pow, Nat.testBit_div_two_pow]
  by_cases hi : i < 8
  · rw [decide_eq_true hi, Bool.true_and, Bool.eq_iff_iff, testBit_gatherBits]
    simp only [List.mem_map, List.mem_range, exists_exists_and_eq_and]
    constructor
    · rintro ⟨k, -, low, high, set⟩
      obtain rfl : k = j := by omega
      rwa [Nat.add_sub_cancel] at set
    · intro set
      exact ⟨j, hj, by omega, by omega, by rwa [Nat.add_sub_cancel]⟩
  · rw [decide_eq_false hi, Bool.false_and]
    exact (Nat.testBit_lt_two_pow ((small j).trans_le (Nat.pow_le_pow_right (n := 2) (by decide) (Nat.not_lt.mp hi)))).symm

/-! ### The threads of BALLOT -/

theorem testBit_foldl_or (l : List Nat) (acc i : Nat) :
    (l.foldl (fun acc t => acc ||| 2 ^ t) acc).testBit i = true ↔ acc.testBit i = true ∨ i ∈ l := by
  induction l generalizing acc with
  | nil => simp
  | cons t r ih =>
    rw [List.foldl_cons, ih, Nat.testBit_or, Bool.or_eq_true, Nat.testBit_two_pow, decide_eq_true_eq, List.mem_cons, or_assoc, eq_comm (a := t)]

/-- BALLOT sets the bits of the threads that pass their predicate and have their bit 32t of the mask set. -/
theorem ballotOut_writes {w : IWord} {n : Fin 64} (hd : w.d = .sreg n) (hn : n ≠ 0) (e : Env) :
    ∃ r, (ballotOut w e).writes = [r] ∧ r.reg = .s n.val ∧ r.mask = 2 ^ 64 - 1 ∧
      ∀ t, r.value.testBit t = true ↔ t ∈ e.lanesOn w ∧ (e.maskOf w.a).getLsbD (32 * t) = true := by
  simp only [ballotOut, hd, if_neg hn]
  refine ⟨_, rfl, rfl, rfl, fun t => ?_⟩
  simp [testBit_foldl_or]

/-- Settles O15: each form's output is the model's, and the bytes of PERM and the bits of BALLOT are read off the numbers they gather. -/
theorem laneMovesComplete : Obligations.LaneMovesComplete := by
  refine ⟨?perm, ?shuf, ?bcast, ?ballot, fun w e n hd hn => ballotOut_writes hd hn e, ?vote, ?xmov, fun a b q ha _ => congrArg (ite _ 0) (byte_of_pair ha b),
    fun f small j hj => byte_gatherBits small hj⟩
  all_goals exact completes_of_out (fun _ _ => rfl) fun _ _ => rfl

end Sys2Proof.Laws
end

section
/-!
SUPPORT. Reductions: the order of MAXI and MINI, and the sums of integer trees and scans (spec/06 R173 to R176).
-/
namespace Sys2Proof.Laws

open Sys2Proof Sys2Proof.Machine

/-! ### The winner of MAXI and MINI -/

/-- What the order of MAXI and MINI compares: the number, negated for the least one; a NaN stands below every number (spec/06 R176). -/
def rankKey (t : Ty) (isMax : Bool) (x : Nat) : WithBot Int :=
  if t == .f32 && isNaN .f32 x then ⊥
  else
    let v := if t == .f32 then fRank .f32 x else tyVal t x
    ((if isMax then v else -v : Int) : WithBot Int)

theorem rankBefore_iff {t : Ty} {isMax : Bool} {x y : Nat} : rankBefore t isMax x y = true ↔ rankKey t isMax y < rankKey t isMax x := by
  unfold rankBefore rankKey
  cases t == .f32 with
  | false => cases isMax <;> simp
  | true => cases isNaN .f32 x <;> cases isNaN .f32 y <;> cases isMax <;> simp

/-- One pair goes before another: its value has the greater rank, or the same one and its index is no larger. -/
def Beats (t : Ty) (isMax : Bool) (x y : Nat × Nat) : Prop :=
  rankKey t isMax y.1 ≤ rankKey t isMax x.1 ∧ (rankKey t isMax x.1 ≤ rankKey t isMax y.1 → x.2 ≤ y.2)

theorem Beats.refl {t : Ty} {isMax : Bool} (x : Nat × Nat) : Beats t isMax x x := ⟨le_refl _, fun _ => le_refl _⟩

theorem Beats.trans {t : Ty} {isMax : Bool} {x y z : Nat × Nat} (h : Beats t isMax x y) (k : Beats t isMax y z) : Beats t isMax x z :=
  ⟨k.1.trans h.1, fun tie => (h.2 (tie.trans k.1)).trans (k.2 (h.1.trans tie))⟩

/-- Of a first pair and the winner of the others, one goes before the other and wins. -/
theorem winner_cons {t : Ty} {isMax : Bool} {x y : Nat × Nat} {r : List (Nat × Nat)} (h : winner t isMax r = some y) :
    winner t isMax (x :: r) = some y ∧ Beats t isMax y x ∨ winner t isMax (x :: r) = some x ∧ Beats t isMax x y := by
  simp only [winner, h, rankBefore_iff]
  split
  case isTrue less => exact .inl ⟨rfl, less.le, fun tie => absurd less tie.not_gt⟩
  case isFalse notLess =>
    have above := not_lt.mp notLess
    split
    case isTrue more => exact .inr ⟨rfl, more.le, fun tie => absurd more tie.not_gt⟩
    case isFalse notMore =>
      have below := not_lt.mp notMore
      split
      case isTrue first => exact .inl ⟨rfl, below, fun _ => first.le⟩
      case isFalse last => exact .inr ⟨rfl, above, fun _ => not_lt.mp last⟩

theorem winner_eq_none {t : Ty} {isMax : Bool} {l : List (Nat × Nat)} (h : winner t isMax l = none) : l = [] := by
  cases l with
  | nil => rfl
  | cons x r =>
    cases hr : winner t isMax r with
    | none => simp [winner, hr] at h
    | some y => rcases winner_cons (x := x) hr with ⟨won, -⟩ | ⟨won, -⟩ <;> rw [won] at h <;> cases h

/-- The winner of a list is a pair of it that goes before every other. -/
theorem winner_spec {t : Ty} {isMax : Bool} {l : List (Nat × Nat)} {w : Nat × Nat} (h : winner t isMax l = some w) :
    w ∈ l ∧ ∀ x ∈ l, Beats t isMax w x := by
  induction l generalizing w with
  | nil => cases h
  | cons x r ih =>
    rw [List.forall_mem_cons]
    cases hr : winner t isMax r with
    | none =>
      obtain rfl : x = w := by simpa [winner, hr] using h
      simp [winner_eq_none hr, Beats.refl]
    | some y =>
      obtain ⟨mem, best⟩ := ih hr
      rcases winner_cons (x := x) hr with ⟨won, beats⟩ | ⟨won, beats⟩ <;> obtain rfl := Option.some.inj (won.symm.trans h)
      · exact ⟨List.mem_cons_of_mem _ mem, beats, best⟩
      · exact ⟨List.mem_cons_self, .refl _, fun z hz => beats.trans (best z hz)⟩

/-! ### Sums of an integer type -/

theorem isFloat_of_isInt {t : Ty} : t.isInt = true → t.isFloat = false := by cases t <;> decide

/-- A summand may be reduced to the width before it is added. -/
theorem wrap_add_tyVal_wrap (t : Ty) (u v : Int) : wrap t.width (u + tyVal t (wrap t.width v)) = wrap t.width (u + v) := by
  rw [wrap_eq_ofInt _ (u + _), BitVec.ofInt_add, wrap_eq_ofInt, ofInt_tyVal, ← BitVec.ofInt_add, ← wrap_eq_ofInt]

theorem wrap_tyVal {t : Ty} {x : Nat} (h : x < 2 ^ t.width) : wrap t.width (tyVal t x) = x := by
  have pattern := ofInt_tyVal (t := t) (BitVec.ofNat t.width x)
  rw [BitVec.toNat_ofNat, Nat.mod_eq_of_lt h] at pattern
  rw [wrap_eq_ofInt, pattern, BitVec.toNat_ofNat, Nat.mod_eq_of_lt h]

/-- An integer add of a sum reduced to the width and one more pattern. -/
theorem combine_add {t : Ty} (ht : t.isInt = true) (mode : RMode) (rnd : Nat) (v : Int) (x : Nat) :
    combine t 0 mode rnd (wrap t.width v) x = (wrap t.width (v + tyVal t x), 0) := by
  simp only [combine, isFloat_of_isInt ht, Bool.false_eq_true, if_false, plain, add_comm _ (tyVal t x), wrap_add_tyVal_wrap]

/-- The value a lane adds: that of its element, or 0 when it does not participate. -/
def laneValue (t : Ty) (leaf : Nat → Option Nat) (lane : Nat) : Int := match leaf lane with | some x => tyVal t x | none => 0

/-- A node of a tree of integer adds holds the sum `v` reduced to the width, without a flag; an absent one stands for 0. -/
def HoldsSum (t : Ty) (v : Int) : Option (Nat × Nat) → Prop
  | some r => r = (wrap t.width v, 0)
  | none => v = 0

theorem treeNode_holdsSum {t : Ty} (ht : t.isInt = true) (mode : RMode) (rnd : Nat) {u v : Int} {a b : Option (Nat × Nat)}
    (ha : HoldsSum t u a) (hb : HoldsSum t v b) : HoldsSum t (u + v) (treeNode t 0 mode rnd a b) := by
  cases a with
  | none => cases ha; rwa [zero_add]
  | some a =>
    cases ha
    cases b with
    | none => cases hb; rw [add_zero]; rfl
    | some b =>
      cases hb
      simp [treeNode, HoldsSum, combine_add ht, wrap_add_tyVal_wrap]

theorem treeNode_absent (t : Ty) (op : Nat) (mode : RMode) (rnd : Nat) (x : Option (Nat × Nat)) :
    treeNode t op mode rnd x none = x ∧ treeNode t op mode rnd none x = x := by
  cases x <;> exact ⟨rfl, rfl⟩

/-- The sum of the values of `2 ^ n` lanes is that of the lower and that of the upper half. -/
theorem sum_range_two_pow_succ (f : Nat → Int) (n i : Nat) :
    ((List.range (2 ^ (n + 1))).map fun l => f (2 ^ (n + 1) * i + l)).sum =
      ((List.range (2 ^ n)).map fun l => f (2 ^ n * (2 * i) + l)).sum + ((List.range (2 ^ n)).map fun l => f (2 ^ n * (2 * i + 1) + l)).sum := by
  have double : 2 ^ (n + 1) = 2 ^ n + 2 ^ n := by omega
  rw [double, List.range_add, List.map_append, List.sum_append, List.map_map]
  congr 3 <;> funext l <;> refine congrArg f ?_ <;> ring

/-- A tree of integer adds holds the sum of the values of its lanes. -/
theorem tree_holdsSum {t : Ty} (ht : t.isInt = true) (mode : RMode) (rnd : Nat → Nat) {leaf : Nat → Option Nat}
    (small : ∀ l x, leaf l = some x → x < 2 ^ t.width) (n i : Nat) :
    HoldsSum t ((List.range (2 ^ n)).map fun l => laneValue t leaf (2 ^ n * i + l)).sum
      (tree t 0 mode rnd (fun l => (leaf l).map fun x => (x, 0)) n i) := by
  induction n generalizing i with
  | zero =>
    cases h : leaf i with
    | none => simp [tree, HoldsSum, laneValue, h]
    | some x => simp [tree, HoldsSum, laneValue, h, wrap_tyVal (small i x h)]
  | succ n ih =>
    rw [sum_range_two_pow_succ]
    exact treeNode_holdsSum ht _ _ (ih _) (ih _)

/-- A scan of integer adds gives a participating lane the running sum up to it. -/
theorem scanAt_add {t : Ty} (ht : t.isInt = true) (mode : RMode) (rnd : Nat → Nat) {leaf : Nat → Option Nat} {lane : Nat} {x : Nat}
    (part : leaf lane = some x) {before : List Nat} (fresh : lane ∉ before) (after : List Nat) (v : Int) :
    scanAt (scan t 0 mode false rnd leaf (before ++ lane :: after) (wrap t.width v)) lane =
      (wrap t.width (v + ((before ++ [lane]).map (laneValue t leaf)).sum), 0) := by
  induction before generalizing v with
  | nil => simp [scan, part, scanAt, combine_add ht, laneValue]
  | cons k r ih =>
    rw [List.mem_cons, not_or] at fresh
    cases hk : leaf k with
    | none => simp [scan, hk, ih fresh.2, laneValue]
    | some y => simp [scan, hk, scanAt, combine_add ht, Ne.symm fresh.1, ih fresh.2, laneValue, add_assoc]

theorem range_eq_append_cons {l n : Nat} (h : l < n) : ∃ after, List.range n = List.range l ++ l :: after := by
  obtain ⟨k, rfl⟩ : ∃ k, n = l + (k + 1) := ⟨n - l - 1, by omega⟩
  exact ⟨(List.range k).map (l + 1 + ·), by simp [List.range_add, List.range_succ_eq_map, Nat.add_comm, Nat.add_left_comm]⟩

/-- Settles O16: the winner goes before every pair of its list, and each node of a tree and each step of a scan of integer adds holds a wrapped sum. -/
theorem reductionsComplete : Obligations.ReductionsComplete := by
  refine ⟨?redx, ?scanx, completes_of_out (fun _ _ => rfl) fun _ _ => rfl, completes_of_out (fun _ _ => rfl) fun _ _ => rfl,
    fun t isMax l v n h => ?winner, treeNode_absent, fun t ht rnd leaf small n r h => ?tree, fun t ht rnd leaf small n l hl part => ?scan⟩
  case redx =>
    refine completes_of_out (out := redxOut) (fun _ _ => rfl) fun w e => ?_
    simp only [redxOut, apply_ite (Option.map _), Option.map_some, Option.map_none]
  case scanx => exact completes_of_out (fun _ _ => rfl) fun _ _ => rfl
  case winner =>
    obtain ⟨mem, best⟩ := winner_spec h
    refine ⟨mem, fun x hx => ⟨?_, fun tie => (best x hx).2 ?_⟩⟩
    · rw [← Bool.not_eq_true, rankBefore_iff, not_lt]; exact (best x hx).1
    · rwa [← Bool.not_eq_true, rankBefore_iff, not_lt] at tie
  case tree =>
    have sum := tree_holdsSum ht .rne rnd small n 0
    simp only [h, Nat.mul_zero, Nat.zero_add] at sum
    exact sum
  case scan =>
    obtain ⟨x, hx⟩ := Option.isSome_iff_exists.mp part
    obtain ⟨after, lanes⟩ := range_eq_append_cons hl
    have running := scanAt_add ht .rne rnd hx List.not_mem_range_self after 0
    have zero : wrap t.width 0 = 0 := rfl
    rw [zero_add, zero, ← lanes, ← List.range_succ] at running
    exact running

end Sys2Proof.Laws
end

section
/-!
SUPPORT. Functions, ACT, RNDW and the transposes (spec/06 R177 to R184; spec/08 R236).
-/
namespace Sys2Proof.Laws

open Sys2Proof Sys2Proof.Machine

/-- ACT's gate is open while its bank is not busy. -/
theorem actGate_ok {e : Env} {s : State} (h : ∀ x ∈ (s.core e.core).sft, x.bank ≠ e.bank) : actGate e s = .ok :=
  if_neg (by simpa using h)

/-- The word a class-00 destination names; 0 for any other. -/
theorem destOf_fst (w : IWord) : (destOf w).1 = match w.d with | .vec k _ => k.val | _ => 0 := by
  unfold destOf
  cases w.d <;> rfl

/-- Settles O17: each form's output is the model's, and ACT's gate opens under its condition. -/
theorem functionsAndTransposesComplete : Obligations.FunctionsAndTransposesComplete := by
  refine ⟨?exp2, ?log2, ?rcp, ?rsq, ?sqrt, ?sinp, ?cosp,
    completes_when (sem := semAct) (fun _ _ => rfl) (fun _ => rfl) (fun _ => rfl) (fun _ _ _ => actGate_ok) fun _ => rfl,
    completes_of_out (out := rndwOut) (fun _ _ => rfl) fun w e => ?rndw, ?trn, ?trnw⟩
  case rndw =>
    simp only [rndwOut, destOf_fst]
    rfl
  all_goals exact completes_of_out (fun _ _ => rfl) fun _ _ => rfl

end Sys2Proof.Laws
end

section
/-!
SUPPORT. The table of ATOM's operations on patterns as bit vectors (spec/07 R199, R200).
-/
namespace Sys2Proof.Laws

open Sys2Proof Sys2Proof.Machine

/-- Bits of a pattern of an ATOM. -/
theorem atomWidth_pos (wide : Bool) : 0 < if wide then 64 else 32 := by cases wide <;> decide

/-- Int orders patterns as signed numbers. -/
theorem sInt_lt_sInt {n : Nat} (h : 0 < n) (x y : BitVec n) : sInt n x.toNat < sInt n y.toNat ↔ x.slt y = true := by
  rw [sInt_toNat h, sInt_toNat h, BitVec.slt_iff_toInt_lt]

section

variable (wide : Bool) (old c : BitVec (if wide then 64 else 32))

theorem atomNew_signedMin : (atomNew 1 wide old.toNat c.toNat).1 = (if c.slt old then c else old).toNat := by
  simp only [atomNew, sInt_lt_sInt (atomWidth_pos wide), apply_ite BitVec.toNat]

theorem atomNew_signedMax : (atomNew 2 wide old.toNat c.toNat).1 = (if old.slt c then c else old).toNat := by
  simp only [atomNew, sInt_lt_sInt (atomWidth_pos wide), apply_ite BitVec.toNat]

theorem atomNew_unsignedMin : (atomNew 3 wide old.toNat c.toNat).1 = (if c.ult old then c else old).toNat := by
  simp only [atomNew, BitVec.ult_iff_lt, BitVec.lt_def, apply_ite BitVec.toNat]
  split <;> omega

theorem atomNew_unsignedMax : (atomNew 4 wide old.toNat c.toNat).1 = (if old.ult c then c else old).toNat := by
  simp only [atomNew, BitVec.ult_iff_lt, BitVec.lt_def, apply_ite BitVec.toNat]
  split <;> omega

end

/-- Only the floating addition sets flags. -/
theorem atomNew_noFlags (wide : Bool) (old c : Nat) {op : Nat} (h : op < 9) : (atomNew op wide old c).2 = 0 := by
  interval_cases op <;> rfl

/-- Settles O42: each row of the table, read on bit vectors of the width. -/
theorem atomicsFollowTheirTable : Obligations.AtomicsFollowTheirTable := by
  intro wide old c
  refine ⟨(BitVec.toNat_add old c).symm, atomNew_signedMin wide old c, atomNew_signedMax wide old c, atomNew_unsignedMin wide old c,
    atomNew_unsignedMax wide old c, (BitVec.toNat_and old c).symm, (BitVec.toNat_or old c).symm, (BitVec.toNat_xor old c).symm, rfl,
    fun _ => atomNew_noFlags wide _ _, rfl, rfl, rfl, fun nv => ?_⟩
  simp only [actNew, BitVec.toNat_inj]

end Sys2Proof.Laws
end

section
/-!
SUPPORT. The gates of the scratchpad forms (spec/07 R190 to R195).
-/
namespace Sys2Proof.Laws

open Sys2Proof Sys2Proof.Machine

/-- A form that sets granules full goes on once its release has nothing to wait for. -/
theorem fillGate_ok {e : Env} {s : State} {fill : Bool} {g : Gate} (open' : g = .ok) (released : fill = true → releaseWaits s e.party 2 = false) :
    fillGate e s fill g = .ok := by
  subst open'
  cases fill with
  | false => rfl
  | true => simp [fillGate, released rfl]

/-- Settles O37: what each form asks for opens its gate. -/
theorem scratchpadFormsComplete : Obligations.ScratchpadFormsComplete := by
  refine ⟨?lds, ?sts, ?ldsx, ?stsx, ?feset, ?feclr⟩
  case lds | ldsx | feclr => exact completes_when (fun _ _ => rfl) (fun _ => rfl) (fun _ => rfl) (fun _ _ _ => scratchGate_ok) fun _ => rfl
  case sts =>
    refine completes_when (sem := semSts) (fun _ _ => rfl) (fun _ => rfl) (fun _ => rfl) (fun w e s h => ?_) fun w => by rw [semSts]
    obtain ⟨ready, released⟩ := h
    exact fillGate_ok (scratchGate_ok ready) fun fill => released (beq_iff_eq.mp fill)
  case stsx =>
    refine completes_when (sem := semStsx) (fun _ _ => rfl) (fun _ => rfl) (fun _ => rfl) (fun w e s h => ?_) fun _ => rfl
    obtain ⟨ready, released⟩ := h
    exact fillGate_ok (scratchGate_ok ready) fun fill => released (beq_iff_eq.mp fill)
  case feset =>
    exact completes_when (fun _ _ => rfl) (fun _ => rfl) (fun _ => rfl) (fun _ _ _ h => fillGate_ok (scratchGate_ok h.1) fun _ => h.2) fun _ => rfl

end Sys2Proof.Laws
end

section
/-!
SUPPORT. PREF, CINV and FENCE (spec/07 R198, R202; spec/10 R275, R285; spec/11 R308).
-/
namespace Sys2Proof.Laws

open Sys2Proof Sys2Proof.Machine

theorem prefGate_ok {w : IWord} {e : Env} {s : State} (h : bit w.ext.toNat 0 = true ∨ ∀ x ∈ cacheLanes 0x84 w e s, inRefresh s x.1 = false) :
    prefGate w e s = .ok := by
  unfold prefGate
  rw [if_neg]
  rintro blocked
  simp only [Bool.and_eq_true, Bool.not_eq_true', List.any_eq_true] at blocked
  obtain ⟨fills, x, lane, refresh⟩ := blocked
  rcases h with h | h
  · rw [h] at fills; cases fills
  · rw [h x lane] at refresh; cases refresh

theorem fenceGate_ok {w : IWord} {e : Env} {s : State}
    (h : (bits w.ext.toNat 4 2 ≠ 1 → fenceWaits s e.party (bits w.ext.toNat 1 3 + 1) = false) ∧
      (bits w.ext.toNat 4 2 ≠ 0 → s.anyAcc e.party (·.returnsValue) = false)) : fenceGate w e s = .ok := by
  obtain ⟨writes, results⟩ := h
  unfold fenceGate
  rw [if_neg (by simpa using writes), if_neg (by simpa using results)]

end Sys2Proof.Laws
end

section
/-!
SUPPORT. The gates of the barrier and ring forms (spec/07 R203 to R209; spec/08 R232, R233; spec/02 R63).
-/
namespace Sys2Proof.Laws

open Sys2Proof Sys2Proof.Machine

/-- Whether the issuer's arrival at a barrier, if it exists, completes its phase. -/
def completesPhase (e : Env) (s : State) : Option BarRef → Bool
  | some r => (s.barrier r).completes (memberKey (e.w.bid, e.w.wid))
  | none => false

/-- What an arrival waits for has come: SATURATE is not pending, the release has nothing to wait for, and its record has room. -/
def mayArrive (e : Env) (s : State) (level : Nat) (r : Option BarRef) : Prop :=
  (level = 0 → e.view ≠ .stream → satfArm e.w.csr.satf = false ∨ satfFlags e.w.csr.satf = 0) ∧
  (e.view ≠ .stream → releaseWaits s e.party (if level = 0 then 2 else if level = 1 then 3 else 5) = false) ∧
  decisionRoom e s (b2n (completesPhase e s r)) = true

theorem levelScope_eq (level : Nat) : levelScope level = if level = 0 then 2 else if level = 1 then 3 else 5 := by
  match level with
  | 0 | 1 | _ + 2 => rfl

theorem saturateGate_ok {c : Csrs} (h : satfArm c.satf = false ∨ satfFlags c.satf = 0) : saturateGate c = .ok := by
  unfold saturateGate
  rw [if_neg]
  rcases h with h | h <;> simp [h]

theorem releaseGate_ok {e : Env} {s : State} {scope : Nat} (h : e.view ≠ .stream → releaseWaits s e.party scope = false) :
    e.releaseGate s scope = .ok := by
  unfold Env.releaseGate
  split
  case h_1 => rfl
  case h_2 notStream => rw [if_neg (by simp [h notStream])]

theorem arriveGate_ok {e : Env} {s : State} {level : Nat} {r : Option BarRef} (h : mayArrive e s level r) : arriveGate e s level r = .ok := by
  obtain ⟨noTrap, released, room⟩ := h
  have saturate : (if level = 0 && e.view != .stream then saturateGate e.w.csr else .ok) = .ok := by
    split
    case isTrue block =>
      simp only [Bool.and_eq_true, decide_eq_true_eq, bne_iff_ne] at block
      exact saturateGate_ok (noTrap block.1 block.2)
    case isFalse => rfl
  unfold arriveGate
  rw [saturate, levelScope_eq, releaseGate_ok released]
  have := decisionGate_ok room
  cases r <;> exact this

/-- BAR sync goes on when the phase that it recorded has passed, or its own arrival completes the phase. -/
theorem syncGate_ok {e : Env} {s : State} {level idx : Nat}
    (h : (∃ p, s.syncedOf e.party = some p ∧ (s.syncedOf e.party = some 2 ∨ s.phaseOf (s.barRef e.party level idx) ≠ p)) ∨
      (s.syncedOf e.party = none ∧ mayArrive e s level (s.barRef e.party level idx) ∧ completesPhase e s (s.barRef e.party level idx) = true)) :
    syncGate e s level idx = .ok := by
  unfold syncGate
  rcases h with ⟨p, recorded, passed⟩ | ⟨first, may, completes⟩
  · rw [recorded]
    exact phaseGate_ok passed
  · simp only [first, arriveGate_ok may]
    exact if_pos completes

theorem racqGate_ok {producer : Bool} {w : IWord} {e : Env} {s : State}
    (h : ∀ x, s.ringOf e.party (idxOf w) = some x → x.has producer e.w.wid = true →
      let c := s.cursorOf e.party (idxOf w)
      s.syncedOf e.party = some 2 ∨ s.phaseOf (s.barRef e.party 0 (x.bar (!producer) c)) ≠ if producer then 1 - c.lap else c.lap) :
    racqGate producer w e s = .ok := by
  unfold racqGate
  split
  case h_1 => rfl
  case h_2 x ring =>
    cases role : x.has producer e.w.wid with
    | false => rfl
    | true => exact phaseGate_ok (h x ring role)

theorem ringGate_ok {producer : Bool} {w : IWord} {e : Env} {s : State}
    (h : ∀ x, s.ringOf e.party (idxOf w) = some x → x.has producer e.w.wid = true →
      mayArrive e s 0 (s.barRef e.party 0 (x.bar producer (s.cursorOf e.party (idxOf w))))) : ringGate producer w e s = .ok := by
  unfold ringGate
  split
  case h_1 x ring =>
    split
    case isTrue role => exact arriveGate_ok (h x ring role)
    case isFalse => rfl
  case h_2 => rfl

/-- Settles O44: what each form waits for opens its gate. -/
theorem barrierFormsComplete : Obligations.BarrierFormsComplete := by
  refine ⟨?barArrive, ?barWait, ?barSync, ?mbarArrive, ?mbarWait, ?mbarSync, ?racqP, ?racqC, ?mbarRacqP, ?mbarRacqC, ?rcommit, ?rrel, ?mbarRcommit,
    ?mbarRrel, fun w _ _ h => runSem_free (sem := semBarq w) h rfl, fun w _ _ h => runSem_free (sem := semWarpsync w) h rfl⟩
  case barArrive | mbarArrive =>
    exact completes_when (fun _ _ => rfl) (fun _ => rfl) (fun _ => rfl) (fun _ _ _ => arriveGate_ok) fun _ => rfl
  case barWait | mbarWait => exact completes_when (fun _ _ => rfl) (fun _ => rfl) (fun _ => rfl) (fun _ _ _ => phaseGate_ok) fun _ => rfl
  case barSync | mbarSync => exact completes_when (fun _ _ => rfl) (fun _ => rfl) (fun _ => rfl) (fun _ _ _ => syncGate_ok) fun _ => rfl
  case racqP | racqC | mbarRacqP | mbarRacqC =>
    exact completes_when (fun _ _ => rfl) (fun _ => rfl) (fun _ => rfl) (fun _ _ _ => racqGate_ok) fun _ => rfl
  case rcommit | rrel | mbarRcommit | mbarRrel =>
    exact completes_when (fun _ _ => rfl) (fun _ => rfl) (fun _ => rfl) (fun _ _ _ => ringGate_ok) fun _ => rfl

end Sys2Proof.Laws
end

section
/-!
SUPPORT. The copy forms: what stands before CPY and CTABLE, and the command that they enter (spec/07 R210 to R215; spec/12 R337).
-/
namespace Sys2Proof.Laws

open Sys2Proof Sys2Proof.Machine

/-- What the entry of a command waits for has come. -/
theorem enterGate_ok {e : Env} {s : State}
    (h : releaseWaits s e.party 4 = false ∧ decisionRoom e s 1 = true ∧ passes (copyRoom e s) = true) : enterGate e s none = .ok := by
  obtain ⟨released, records, room⟩ := h
  unfold enterGate
  rw [if_neg (by simp [released]), decisionGate_ok records]
  exact passes_ok room

theorem cpyGate_ok {w : IWord} {e : Env} {s : State}
    (h : e.scalarPred w = true → scratchReady e s [(cpyOffset e w, 256)] false false = true ∧ cpyTrap e s w = none ∧
      releaseWaits s e.party 4 = false ∧ decisionRoom e s 1 = true ∧ passes (copyRoom e s) = true) : cpyGate w e s = .ok := by
  unfold cpyGate
  split
  case isTrue => rfl
  case isFalse on =>
    obtain ⟨ready, wellFormed, enters⟩ := h (by simpa using on)
    rw [scratchGate_ok ready, wellFormed]
    exact enterGate_ok enters

theorem ctableGate_ok {w : IWord} {e : Env} {s : State}
    (h : e.scalarPred w = true → releaseWaits s e.party 4 = false ∧ decisionRoom e s 1 = true ∧ passes (copyRoom e s) = true) :
    (semCtable w).gate e s = .ok := by
  simp only [semCtable]
  split
  case isTrue on => exact enterGate_ok (h on)
  case isFalse => rfl

theorem cwaitGate_ok {w : IWord} {e : Env} {s : State} (h : e.scalarPred w = true → (unfinished e s).length ≤ min (e.u64 w w.a) 8) :
    (semCwait w).gate e s = .ok := by
  simp only [semCwait]
  rw [if_neg]
  intro waits
  simp only [Bool.and_eq_true, decide_eq_true_eq] at waits
  exact absurd (h waits.1) (by omega)

/-- A core's copy buffer, and the commands that have entered it. -/
def commandsOf (c : Core) : List CopyCmd × Nat := (c.copies, c.arrivals)

theorem modCore_commands {f : Core → Core} (keeps : ∀ x, commandsOf (f x) = commandsOf x) (s : State) (c k : Nat) :
    commandsOf ((s.modCore c f).core k) = commandsOf (s.core k) := by
  by_cases h : c = k
  · rw [← h, State.modCore_core, keeps]
  · rw [State.modCore_core_ne s f h]

theorem rouse_commands (s : State) (c cause k : Nat) : commandsOf ((s.rouse c cause).core k) = commandsOf (s.core k) := by
  unfold State.rouse
  split
  · exact modCore_commands (by exact fun _ => rfl) s c k
  · rfl

theorem request_commands (s : State) (g kind k : Nat) : commandsOf ((s.request g kind).core k) = commandsOf (s.core k) := by
  unfold State.request
  dsimp only
  split
  · split
    · rfl
    · rw [rouse_commands, State.modGroup_core]
  · rfl

theorem reserveLog_commands (s : State) (part g kind n k : Nat) :
    commandsOf ((s.reserveLog part g kind n).core k) = commandsOf (s.core k) := by
  unfold State.reserveLog
  split
  · rfl
  · dsimp only
    split
    · rw [request_commands, State.modPart_core]
    · rw [State.modPart_core]

theorem outstanding_commands (s : State) (c launch : Nat) (up : Bool) (k : Nat) :
    commandsOf ((s.outstanding c launch up).core k) = commandsOf (s.core k) :=
  modCore_commands (by exact fun _ => rfl) s c k

/-- The state in which a command enters: its record has room reserved, and its launch one more access outstanding. -/
def beforeEntry (s : State) (e : Env) : State :=
  (if !e.quiet && logOn s (s.partyPart e.party) 1 then s.reserveLog (s.partyPart e.party) e.group 1 1 else s).outstanding e.core e.w.launch true

theorem beforeEntry_commands (s : State) (e : Env) (k : Nat) : commandsOf ((beforeEntry s e).core k) = commandsOf (s.core k) := by
  unfold beforeEntry
  rw [outstanding_commands]
  split
  · exact reserveLog_commands s _ _ 1 1 k
  · rfl

/-- A command enters last, under the number of its arrival, and no other core's buffer changes. -/
theorem enterCommand_core (s : State) (e : Env) (b : Option (BitVec 2048)) (va time : Nat) :
    (∃ x, ((s.enterCommand e b va time).core e.core).copies = (s.core e.core).copies ++ [x] ∧ x.block = b ∧ x.arrival = (s.core e.core).arrivals ∧
      x.moving = false) ∧
    ∀ k, k ≠ e.core → ((s.enterCommand e b va time).core k).copies = (s.core k).copies := by
  obtain ⟨copies, arrivals⟩ := Prod.mk.inj (beforeEntry_commands s e e.core)
  constructor
  · refine ⟨_, (congrArg Core.copies (State.modCore_core (beforeEntry s e) e.core _)).trans (congrArg (· ++ _) copies), rfl, arrivals, rfl⟩
  · intro k other
    rw [← (Prod.mk.inj (beforeEntry_commands s e k)).1]
    exact congrArg Core.copies (State.modCore_core_ne (beforeEntry s e) _ (Ne.symm other))

/-- Settles O46: what each form asks for opens its gate, and a command enters last. -/
theorem copyFormsComplete : Obligations.CopyFormsComplete := by
  refine ⟨completes_when (fun _ _ => rfl) (fun _ => rfl) (fun _ => rfl) (fun _ _ _ => cpyGate_ok) fun _ => rfl,
    completes_when (fun _ _ => rfl) (fun _ => rfl) (fun _ => rfl) (fun _ _ _ => ctableGate_ok) fun _ => rfl,
    fun w _ _ h => runSem_free (sem := semCseal w) h rfl,
    completes_when (fun _ _ => rfl) (fun _ => rfl) (fun _ => rfl) (fun _ _ _ => cwaitGate_ok) fun _ => rfl,
    fun w _ _ h => runSem_free (sem := semCquery w) h rfl, fun s e b va time bounded room => ?_⟩
  obtain ⟨⟨x, last, entry⟩, others⟩ := enterCommand_core s e b va time
  refine ⟨⟨x, last, entry⟩, fun k => ?_⟩
  by_cases own : k = e.core
  · rw [own, last, List.length_append, List.length_singleton]
    exact room
  · rw [others k own]
    exact bounded k

end Sys2Proof.Laws
end

section
/-!
SUPPORT. The forms over sequence records (spec/07 R201; spec/08 R244 to R248; spec/14 R363 to R367).
-/
namespace Sys2Proof.Laws

open Sys2Proof Sys2Proof.Machine

/-- A logit program may reach the record of its LPCALL, and store to any word of it but word 1. -/
theorem lpRecord_ok {e : Env} {w : IWord} {store : Option Nat}
    (h : ∀ m, e.lpMode = some m → recordVa e w = roundDown m.record 256 ∧ store ≠ some 8) : lpRecord e w store = .ok := by
  unfold lpRecord
  split
  case h_1 => rfl
  case h_2 m lp =>
    obtain ⟨own, notWord1⟩ := h m lp
    rw [if_neg (by simp [own, notWord1])]

/-- A form that is one action of the unit completes when its record is its own and its access may go on. -/
theorem completes_unit {mk : IWord → Instr} {op : Nat} {pre : IWord → Env → Gate} {access : IWord → Env → State → Access}
    {ready : IWord → Env → Prop} (hx : ∀ w s, exec (mk w) s = runSem (unitSem op w (pre w) (access w)) s) (passes : ∀ w e, ready w e → pre w e = .ok) :
    CompletesWhen mk op (fun w e s => e.scalarPred w = true → ready w e ∧ accessReady e s (access w e s) = true)
      fun w e s => if !e.scalarPred w then s else s.issueAccess e (access w e s) := by
  refine completes_when (sem := fun w => unitSem op w (pre w) (access w)) hx (fun _ => rfl) (fun _ => rfl) (fun w e s h => ?_) fun _ => rfl
  simp only [unitSem]
  split
  case isTrue => rfl
  case isFalse on =>
    obtain ⟨own, may⟩ := h (by simpa using on)
    rw [passes w e own]
    exact globalGate_ok may

theorem wchkGate_ok {w : IWord} {e : Env} {s : State}
    (h : e.scalarPred w = true → (∀ m, e.lpMode = some m → recordVa e w = roundDown m.record 256 ∧ (false = true → recordOff e w ≠ 8)) ∧
      ∃ t a base slot, atUnit e s (wchkAccess w e s) = .at t a base slot ∧ wchkOk s base slot (e.u64 w w.c) = true) : wchkGate w e s = .ok := by
  unfold wchkGate
  split
  case isTrue => rfl
  case isFalse on =>
    obtain ⟨own, t, a, base, slot, reached, inWindow⟩ := h (by simpa using on)
    rw [lpRecord_ok fun m lp => ⟨(own m lp).1, by simp⟩, reached]
    exact if_pos inWindow

theorem sqbindGate_ok {w : IWord} {e : Env} {s : State} (h : e.scalarPred w = true → ∃ t a base slot, bindCheck w e s = .at t a base slot) :
    (semSqbind w).gate e s = .ok := by
  simp only [semSqbind]
  split
  case isTrue => rfl
  case isFalse on =>
    obtain ⟨t, a, base, slot, reached⟩ := h (by simpa using on)
    rw [reached]

theorem callGate_ok {w : IWord} {e : Env} {s : State} (h : ∃ t a base slot, atUnit e s (callAccess w e s) = .at t a base slot ∧
    (bits (callHandle t a).2 54 9 = 0 ∨ (callFits e (callHandle t a).2 = true ∧ (e.view ≠ .stream → traceRoom e s 1 = true)))) :
    callGate w e s = .ok := by
  obtain ⟨t, a, base, slot, reached, unbound | ⟨fits, room⟩⟩ := h
  · unfold callGate
    rw [reached]
    exact if_pos unbound
  · unfold callGate
    rw [reached]
    simp only [fits, if_true, moveGate_ok room, ite_self]

theorem lpretGate_ok {w : IWord} {e : Env} {s : State} (h : (∃ m, e.w.lp = some m) ∧ (e.view ≠ .stream → traceRoom e s 1 = true)) :
    (semLpret w).gate e s = .ok := by
  obtain ⟨⟨m, lp⟩, room⟩ := h
  simp only [semLpret, lp]
  exact moveGate_ok room

/-- Settles O54: what each form asks for opens its gate. -/
theorem recordFormsComplete : Obligations.RecordFormsComplete := by
  refine ⟨completes_unit (fun _ _ => rfl) fun _ _ _ => rfl, ?ld, ?st, ?hist, ?cinc, ?cget, completes_unit (fun _ _ => rfl) fun _ _ _ => rfl,
    completes_when (fun _ _ => rfl) (fun _ => rfl) (fun _ => rfl) (fun _ _ _ => wchkGate_ok) fun _ => rfl,
    completes_when (fun _ _ => rfl) (fun _ => rfl) (fun _ => rfl) (fun _ _ _ => sqbindGate_ok) fun _ => rfl,
    completes_when (fun _ _ => rfl) (fun _ => rfl) (fun _ => rfl) (fun _ _ _ => callGate_ok) fun _ => rfl,
    completes_when (fun _ _ => rfl) (fun _ => rfl) (fun _ => rfl) (fun _ _ _ => lpretGate_ok) fun _ => rfl⟩
  case st =>
    exact completes_unit (fun _ _ => rfl) fun w e own => lpRecord_ok fun m lp => ⟨(own m lp).1, by simpa using (own m lp).2 rfl⟩
  all_goals exact completes_unit (fun _ _ => rfl) fun w e own => lpRecord_ok fun m lp => ⟨(own m lp).1, by simp⟩

end Sys2Proof.Laws
end

section
/-!
SUPPORT. Steps that change neither memory, time nor a register: they only say what the issuers do next (spec/05 R133 to R149; spec/07 R203 to R209).
-/
namespace Sys2Proof.Laws

open Sys2Proof Sys2Proof.Machine

/-- Nothing outside the issuers changes, and no register. -/
structure Steered (s t : State) : Prop where
  outside : sameOutside s t
  registers : sameRegisters s t
  torn : t.torn = s.torn

namespace Steered

theorem refl (s : State) : Steered s s := ⟨⟨rfl, rfl, rfl, rfl, rfl, rfl, rfl, rfl, rfl⟩, fun _ => ⟨rfl, rfl, rfl⟩, rfl⟩

theorem trans {s t u : State} (h : Steered s t) (k : Steered t u) : Steered s u where
  outside := sameOutside_trans h.outside k.outside
  registers x := by
    obtain ⟨h1, h2, h3⟩ := h.registers x
    obtain ⟨k1, k2, k3⟩ := k.registers x
    exact ⟨k1.trans h1, k2.trans h2, k3.trans h3⟩
  torn := k.torn.trans h.torn

theorem ite {s t u : State} {p : Prop} [Decidable p] (h : Steered s t) (k : Steered s u) : Steered s (if p then t else u) := by
  split
  · exact h
  · exact k

theorem foldl {α : Type} {f : State → α → State} (step : ∀ s x, Steered s (f s x)) (l : List α) (s : State) : Steered s (l.foldl f s) := by
  induction l generalizing s with
  | nil => exact refl s
  | cons x l ih => exact (step s x).trans (ih _)

theorem modWarp (s : State) (k : Nat) {f : Warp → Warp} (keeps : ∀ x, (f x).v = x.v ∧ (f x).s = x.s ∧ (f x).m = x.m) : Steered s (s.modWarp k f) :=
  ⟨⟨rfl, rfl, rfl, rfl, rfl, rfl, rfl, rfl, rfl⟩,
    fun n => ⟨State.modWarp_keeps s k n f Warp.v fun x => (keeps x).1, State.modWarp_keeps s k n f Warp.s fun x => (keeps x).2.1,
      State.modWarp_keeps s k n f Warp.m fun x => (keeps x).2.2⟩, rfl⟩

theorem modCore (s : State) (c : Nat) (f : Core → Core) : Steered s (s.modCore c f) :=
  ⟨⟨rfl, rfl, rfl, rfl, rfl, rfl, rfl, rfl, rfl⟩, fun _ => ⟨rfl, rfl, rfl⟩, rfl⟩

theorem modGroup (s : State) (g : Nat) (f : Group → Group) : Steered s (s.modGroup g f) :=
  ⟨⟨rfl, rfl, rfl, rfl, rfl, rfl, rfl, rfl, rfl⟩, fun _ => ⟨rfl, rfl, rfl⟩, rfl⟩

theorem setWait (s : State) (p : Party) (r : Wait) : Steered s (s.setWait p r) := by
  unfold State.setWait
  cases p with
  | seq c => exact modCore s c _
  | path | thread | service => exact modWarp s _ fun _ => ⟨rfl, rfl, rfl⟩

theorem setSynced (s : State) (p : Party) (v : Option Nat) : Steered s (s.setSynced p v) := by
  unfold State.setSynced
  cases p with
  | seq c => exact modCore s c _
  | path | thread | service => exact modWarp s _ fun _ => ⟨rfl, rfl, rfl⟩

theorem setPc (s : State) (p : Party) (pc : Nat) : Steered s (s.setPc p pc) := by
  unfold State.setPc
  cases p with
  | seq c => exact modCore s c _
  | path | thread | service => exact modWarp s _ fun _ => ⟨rfl, rfl, rfl⟩

theorem setSlept (s : State) (p : Party) (v : Bool) : Steered s (s.setSlept p v) := by
  cases p with
  | seq c => exact refl s
  | path | thread | service => exact modWarp s _ fun _ => ⟨rfl, rfl, rfl⟩

theorem jump (s : State) (p : Party) (pc : Nat) : Steered s (s.jump p pc) := by
  cases p with
  | seq c => exact refl s
  | path | thread | service => exact modWarp s _ fun _ => ⟨rfl, rfl, rfl⟩

theorem rouse (s : State) (c cause : Nat) : Steered s (s.rouse c cause) := ite (modCore s c _) (refl s)

theorem wake (s : State) (p : Party) (w : Wait) : Steered s (s.wake p w) := ((setWait s p .none).trans (setSynced _ p _)).trans (rouse _ _ _)

end Steered

end Sys2Proof.Laws
end

section
/-!
SUPPORT. An arrival at a block barrier (spec/07 R204).
-/
namespace Sys2Proof.Laws

open Sys2Proof Sys2Proof.Machine

/-- Setting a block's barrier changes that barrier alone. -/
theorem barrier_setBarrier {s : State} {n : Nat} {blk : Block} (placed : s.block? n = some blk) (i j : Nat) (b : Barrier) :
    (s.setBarrier ⟨0, n, i⟩ b).barrier ⟨0, n, j⟩ = if i = j then b else s.barrier ⟨0, n, j⟩ := by
  have found : (s.setBarrier ⟨0, n, i⟩ b).block? n = some { blk with barriers := blk.barriers.set i b } := by
    show (s.sched.blocks.modify n _).get? n = _
    rw [Tbl.get?_modify, if_pos rfl, show s.sched.blocks.get? n = some blk from placed]
    rfl
  simp only [State.barrier, found, placed, Tbl.getD_set]

theorem barrier_of_sched {s t : State} (h : t.sched = s.sched) (r : BarRef) : t.barrier r = s.barrier r := by
  simp only [State.barrier, State.block?, State.launch?, h]

/-- The waiters that a completed phase wakes go on; nothing else changes. -/
theorem completePhase_steered (s : State) (r : BarRef) :
    Steered (s.setBarrier r { s.barrier r with arrived := [], phase := 1 - (s.barrier r).phase }) (s.completePhase r).1 :=
  .foldl (f := fun s (x : Party × Wait) => s.wake x.1 x.2) (fun s x => .wake s x.1 x.2) _ _

/-- What an arrival leaves: nothing for no member or one that has arrived, else its flag, else the next phase, with its waiters woken. -/
theorem arrive_eq (s : State) (r : BarRef) (m : Nat) : (s.arrive r m).1 =
    if m ∉ (s.barrier r).members ∨ m ∈ (s.barrier r).arrived then s
    else if ∀ x ∈ (s.barrier r).members, x = m ∨ x ∈ (s.barrier r).arrived then (s.completePhase r).1
    else s.setBarrier r { s.barrier r with arrived := (s.barrier r).arrived ++ [m] } := by
  unfold State.arrive
  by_cases out : m ∉ (s.barrier r).members ∨ m ∈ (s.barrier r).arrived
  · rw [if_pos out]
    dsimp only
    rw [if_pos (by simpa [imp_iff_not_or] using out)]
  · rw [if_neg out]
    dsimp only
    rw [if_neg (by simpa using out)]
    obtain ⟨member, first⟩ := not_or.mp out
    by_cases last : ∀ x ∈ (s.barrier r).members, x = m ∨ x ∈ (s.barrier r).arrived
    · rw [if_pos last, if_pos (by simpa [Barrier.completes, first, not_not.mp member] using last)]
    · rw [if_neg last, if_neg (by simpa [Barrier.completes, first, not_not.mp member] using last)]

/-- Settles O45: an arrival changes its barrier, and a completed phase beside it only steers the waiters. -/
theorem arrivalsCompleteThePhase : Obligations.ArrivalsCompleteThePhase := by
  intro s n i m blk placed
  have frame (b : Barrier) {t : State} (h : Steered (s.setBarrier ⟨0, n, i⟩ b) t) : t.mem = s.mem ∧ sameRegisters s t ∧ t.accs = s.accs ∧
      (∀ j, j ≠ i → t.barrier ⟨0, n, j⟩ = s.barrier ⟨0, n, j⟩) ∧ t.barrier ⟨0, n, i⟩ = b := by
    obtain ⟨-, -, mem, accs, -, -, sched, -, -⟩ := h.outside
    refine ⟨mem, h.registers, accs, fun j other => ?_, ?_⟩
    · rw [barrier_of_sched sched, barrier_setBarrier placed, if_neg (Ne.symm other)]
    · rw [barrier_of_sched sched, barrier_setBarrier placed, if_pos rfl]
  dsimp only
  rw [arrive_eq]
  split
  case isTrue out =>
    exact ⟨rfl, fun _ => ⟨rfl, rfl, rfl⟩, rfl, fun _ _ => rfl, fun _ => rfl, fun member first => absurd out (by simp [member, first]),
      fun member first => absurd out (by simp [member, first])⟩
  case isFalse counts =>
    split
    case isTrue last =>
      obtain ⟨mem, registers, accs, others, own⟩ := frame _ (completePhase_steered s ⟨0, n, i⟩)
      exact ⟨mem, registers, accs, others, fun out => absurd out counts, fun _ _ notLast => absurd last notLast, fun _ _ _ => own⟩
    case isFalse notLast =>
      obtain ⟨mem, registers, accs, others, own⟩ := frame _ (.refl _)
      exact ⟨mem, registers, accs, others, fun out => absurd out counts, fun _ _ _ => own, fun _ _ last => absurd last notLast⟩

end Sys2Proof.Laws
end

section
/-!
SUPPORT. What a FENCE leaves as it was (spec/07 R202; spec/11 R308).
-/
namespace Sys2Proof.Laws

open Sys2Proof Sys2Proof.Machine

/-- Nothing outside the issuers and the accesses changes but what blocks have acquired, and no access but the FENCE that it waits for. -/
structure Ordered (s t : State) : Prop where
  outside : sameOutside { s with accs := t.accs, sched := { s.sched with blocks := t.sched.blocks } } t
  accesses : sameAccesses s t
  registers : sameRegisters s t
  blocks : ∀ n b, s.block? n = some b → ∃ k, t.block? n = some { b with acquired := k }
  torn : t.torn = s.torn

namespace Ordered

theorem refl (s : State) : Ordered s s :=
  ⟨⟨rfl, rfl, rfl, rfl, rfl, rfl, rfl, rfl, rfl⟩, rfl, fun _ => ⟨rfl, rfl, rfl⟩, fun _ _ h => ⟨_, h⟩, rfl⟩

theorem trans {s t u : State} (h : Ordered s t) (k : Ordered t u) : Ordered s u where
  outside := by
    obtain ⟨h1, h2, h3, -, h5, h6, h7, h8, h9⟩ := h.outside
    obtain ⟨k1, k2, k3, -, k5, k6, k7, k8, k9⟩ := k.outside
    exact ⟨k1.trans h1, k2.trans h2, k3.trans h3, rfl, k5.trans h5, k6.trans h6,
      k7.trans (congrArg (fun x : Scheduler => { x with blocks := u.sched.blocks }) h7), k8.trans h8, k9.trans h9⟩
  accesses := k.accesses.trans h.accesses
  registers x := by
    obtain ⟨h1, h2, h3⟩ := h.registers x
    obtain ⟨k1, k2, k3⟩ := k.registers x
    exact ⟨k1.trans h1, k2.trans h2, k3.trans h3⟩
  blocks n b found := by
    obtain ⟨i, hi⟩ := h.blocks n b found
    obtain ⟨j, hj⟩ := k.blocks n _ hi
    exact ⟨j, hj⟩
  torn := k.torn.trans h.torn

theorem ite {s t u : State} {p : Prop} [Decidable p] (h : Ordered s t) (k : Ordered s u) : Ordered s (if p then t else u) := by
  split
  · exact h
  · exact k

theorem modWarp (s : State) (k : Nat) {f : Warp → Warp} (keeps : ∀ x, (f x).v = x.v ∧ (f x).s = x.s ∧ (f x).m = x.m) : Ordered s (s.modWarp k f) :=
  ⟨⟨rfl, rfl, rfl, rfl, rfl, rfl, rfl, rfl, rfl⟩, rfl,
    fun n => ⟨State.modWarp_keeps s k n f Warp.v fun x => (keeps x).1, State.modWarp_keeps s k n f Warp.s fun x => (keeps x).2.1,
      State.modWarp_keeps s k n f Warp.m fun x => (keeps x).2.2⟩, fun _ _ h => ⟨_, h⟩, rfl⟩

theorem modCore (s : State) (c : Nat) (f : Core → Core) : Ordered s (s.modCore c f) :=
  ⟨⟨rfl, rfl, rfl, rfl, rfl, rfl, rfl, rfl, rfl⟩, rfl, fun _ => ⟨rfl, rfl, rfl⟩, fun _ _ h => ⟨_, h⟩, rfl⟩

theorem fenceAccs (s : State) (p : Party) (scope : Nat) (both : Bool) : Ordered s (s.fenceAccs p scope both) :=
  ⟨⟨rfl, rfl, rfl, rfl, rfl, rfl, rfl, rfl, rfl⟩, by
    unfold sameAccesses State.fenceAccs
    rw [List.map_map]
    refine List.map_congr_left fun a _ => ?_
    simp only [Function.comp_apply]
    split <;> rfl,
    fun _ => ⟨rfl, rfl, rfl⟩, fun _ _ h => ⟨_, h⟩, rfl⟩

theorem blockAcquires (s : State) (n wide : Nat) : Ordered s (s.modBlock n fun b => { b with acquired := max b.acquired wide }) :=
  ⟨⟨rfl, rfl, rfl, rfl, rfl, rfl, rfl, rfl, rfl⟩, rfl, fun _ => ⟨rfl, rfl, rfl⟩, fun k b found => by
    have found : s.sched.blocks.get? k = some b := found
    show ∃ i, (s.sched.blocks.modify n _).get? k = some { b with acquired := i }
    by_cases own : n = k
    · subst own
      exact ⟨max b.acquired wide, by rw [Tbl.get?_modify, if_pos rfl, found]; rfl⟩
    · exact ⟨b.acquired, by rw [Tbl.get?_modify, if_neg own, found]⟩, rfl⟩

theorem setAcquired (s : State) (p : Party) (wide block : Nat) : Ordered s (s.setAcquired p wide block) := by
  unfold State.setAcquired
  rcases s.partyBlock p with _ | ⟨n, b⟩ <;> rcases p with ⟨g, sl, i⟩ | ⟨g, sl⟩ | g | c
  case none.seq => exact modCore s c _
  case none.path | none.thread | none.service => exact modWarp s _ fun _ => ⟨rfl, rfl, rfl⟩
  case some.seq => exact (blockAcquires s n wide).trans (modCore _ c _)
  case some.path | some.thread | some.service => exact (blockAcquires s n wide).trans (modWarp _ _ fun _ => ⟨rfl, rfl, rfl⟩)

theorem acquire (s : State) (p : Party) (scope : Nat) : Ordered s (s.acquire p scope) :=
  ite (refl s) (ite (setAcquired s p _ _) ((setAcquired s p _ _).trans (modCore _ _ _)))

end Ordered

theorem fence_ordered (w : IWord) (e : Env) (s : State) : Ordered s (fenceEff w e s) := by
  have released : Ordered s (if bits w.ext.toNat 4 2 = 1 ∨ bits w.ext.toNat 1 3 + 1 = 1 then s else s.modWarp e.key fun x => { x with fenced := s.serial }) :=
    .ite (.refl s) (.modWarp s e.key fun _ => ⟨rfl, rfl, rfl⟩)
  have waited := released.trans (.ite (p := bits w.ext.toNat 4 2 = 0) (.refl _) (.fenceAccs _ e.party (bits w.ext.toNat 1 3 + 1) (bits w.ext.toNat 4 2 == 2)))
  exact .ite waited ((waited.trans (.modCore _ e.core _)).trans (.acquire _ e.party _))

/-- Settles O40: PREF's and FENCE's gates open under their conditions, CINV has none, and what a FENCE changes is a step that only orders. -/
theorem cacheFormsAndFencesComplete : Obligations.CacheFormsAndFencesComplete := by
  refine ⟨completes_when (fun _ _ => rfl) (fun _ => rfl) (fun _ => rfl) (fun _ _ _ => prefGate_ok) fun _ => rfl,
    fun w _ _ h => runSem_free (sem := semCinvLine w) h rfl, fun w _ _ h => runSem_free (sem := semCinvTiles w) h rfl,
    fun w _ _ h => runSem_free (sem := semCinvAll w) h rfl,
    completes_when (fun _ _ => rfl) (fun _ => rfl) (fun _ => rfl) (fun _ _ _ => fenceGate_ok) fun _ => rfl,
    fun w e s => ?fence, fun w e s => ?tiles, fun w e s => ?all⟩
  case fence =>
    obtain ⟨outside, accesses, registers, blocks, -⟩ := fence_ordered w e s
    exact ⟨outside, accesses, registers, blocks⟩
  case tiles =>
    unfold cinvTilesEff
    refine ⟨by split <;> rfl, fun on => ?_⟩
    rw [if_pos on, State.modCore_core]
  case all =>
    unfold cinvAllEff
    refine ⟨by split <;> rfl, fun on => ?_⟩
    rw [if_pos on, State.modCore_core]
    exact ⟨rfl, rfl⟩

end Sys2Proof.Laws
end

section
/-!
SUPPORT. An access of the scratchpad's unit enters its core's list: it is not translated, reads no record and writes none (spec/07 R187; spec/11 R299).
-/
namespace Sys2Proof.Laws

open Sys2Proof Sys2Proof.Machine

theorem resolve_scratch {a : Access} (scratch : a.scratch = true) (plain : a.kind.recordIndex = none) (s : State) : resolve s a = .ok s a := by
  unfold resolve
  generalize a.kind = k at plain ⊢
  cases k with
  | ldb j word => cases plain
  | stb j word => cases plain
  | _ => exact if_pos scratch

/-- With no buffer record to read, nothing is performed at the issue. -/
theorem readRecords_plain {a : Access} (plain : a.kind.recordIndex = none) (s : State) : s.readRecords a = s := by
  simp only [State.readRecords, bufferLines, recordRanges, plain, List.flatMap_nil, List.eraseDups_nil, List.foldl_nil]

/-- An access counts in its launch slot, and takes a serial number. -/
def numbered (s : State) (a : Access) : State :=
  if a.counted then ({ s with serial := s.serial + 1 }).outstanding a.core a.launch true else { s with serial := s.serial + 1 }

theorem enter_scratch {a : Access} (scratch : a.scratch = true) (plain : a.kind.recordIndex = none) (s : State) :
    s.enter a = { numbered s a with accs := (numbered s a).accs ++ [{ a with id := s.serial, reserved := 0, reserved1 := false }] } := by
  have hits (t : State) : ({ a with id := s.serial } : Access).misses t { a with id := s.serial } = false := by simp [Access.misses, scratch]
  have unlogged (t : State) (p : Nat) (b : Bool) : (logOn t p 2 && !a.scratch && b) = false := by simp [scratch]
  unfold State.enter
  simp only [resolve_scratch (a := { a with id := s.serial }) scratch plain, hits, unlogged, if_pos scratch, Bool.false_and, if_true,
    Bool.false_eq_true, if_false]
  exact readRecords_plain (a := { a with id := s.serial, reserved := 0, reserved1 := false }) plain _

theorem numbered_steered (s : State) (a : Access) : Steered { s with serial := s.serial + 1 } (numbered s a) :=
  .ite (.modCore _ _ _) (.refl _)

/-- The access as it stands in the list: under its number. -/
def listed (s : State) (e : Env) (a : Access) : Access :=
  { a with key := none, code := partyCode s e.party, id := s.serial, reserved := 0, reserved1 := false }

theorem issueAccess_scratch {a : Access} (scratch : a.scratch = true) (plain : a.kind.recordIndex = none) (notAtomic : a.kind.atomic = false)
    (lanes : a.lanes ≠ []) (s : State) (e : Env) : s.issueAccess e a = { numbered s a with accs := s.accs ++ [listed s e a] } := by
  have kept : (numbered s a).accs = s.accs := (numbered_steered s a).outside.2.2.2.1
  have entered (n : Nat) : s.enter { a with key := none, reserved := n, code := partyCode s e.party } =
      { numbered s a with accs := (numbered s a).accs ++ [listed s e a] } :=
    enter_scratch (a := { a with key := none, reserved := n, code := partyCode s e.party }) scratch plain s
  unfold State.issueAccess
  rw [if_neg (by simpa using lanes)]
  simp only [notAtomic, Bool.false_and, Bool.false_eq_true, if_false, Option.isSome_none]
  have seen : (listed s e a).scratch = true := scratch
  rw [entered]
  simp only [kept, List.getLast?_concat, seen, Bool.true_or, if_true]

/-- The store that an item issued as torn leaves: of the lanes given by address, size and data. -/
def tornStore (s : State) (e : Env) (l : List (Nat × Nat × Nat)) : Access :=
  e.scratchAccess s .store (l.map fun x => { lane := 0, addr := x.1, size := x.2.1, data := x.2.2, data2 := 0, off := 0 }) .none []

/-- A scratchpad store that is left to be performed part by part is the last in the list of accesses. -/
theorem issueScratch_eq (s : State) (e : Env) {l : List (Nat × Nat × Nat)} (some : l ≠ []) :
    s.issueScratch e l = { numbered s (tornStore s e l) with accs := s.accs ++ [listed s e (tornStore s e l)] } :=
  issueAccess_scratch rfl rfl rfl (by simpa [tornStore, Env.scratchAccess, Env.access] using some) s e

end Sys2Proof.Laws
end

section
/-!
SUPPORT. What the forms that move no data leave as it was, one lemma for each operation that they share (spec/05 R133 to R149; spec/07 R187 to R212;
spec/08 R217, R238).
-/
namespace Sys2Proof.Laws

open Sys2Proof Sys2Proof.Machine

/-- Memory, time, the registers and the partitions stay; the accesses too, but for a store issued as torn and the FENCE an access waits for; and the
host's and the upkeep's state where no latent error waits. -/
structure Undisturbed (s t : State) : Prop where
  mem : t.mem = s.mem
  ccnt : t.ccnt = s.ccnt
  boot : t.boot = s.boot
  parts : t.parts = s.parts
  torn : t.torn = s.torn
  registers : sameRegisters s t
  accesses : s.torn = false → sameAccesses s t
  upkeep : s.ras.upsets = [] → t.host = s.host ∧ t.ras = s.ras

/-- No log buffer is on. -/
def unlogged (s : State) : Prop := ∀ p k, logOn s p k = false

namespace Steered

theorem undisturbed {s t : State} (h : Steered s t) : Undisturbed s t := by
  obtain ⟨ccnt, boot, mem, accs, parts, dies, sched, host, ras⟩ := h.outside
  exact ⟨mem, ccnt, boot, parts, h.torn, h.registers, fun _ => by rw [sameAccesses, accs], fun _ => ⟨host, ras⟩⟩

theorem unlogged {s t : State} (h : Steered s t) (off : unlogged s) : unlogged t := by
  obtain ⟨-, -, -, -, parts, -, -, -, -⟩ := h.outside
  intro p k
  rw [← off p k, logOn, logOn, State.part, State.part, parts]

end Steered

namespace Undisturbed

theorem refl (s : State) : Undisturbed s s := (Steered.refl s).undisturbed

theorem trans {s t u : State} (h : Undisturbed s t) (k : Undisturbed t u) : Undisturbed s u where
  mem := k.mem.trans h.mem
  ccnt := k.ccnt.trans h.ccnt
  boot := k.boot.trans h.boot
  parts := k.parts.trans h.parts
  torn := k.torn.trans h.torn
  registers x := by
    obtain ⟨h1, h2, h3⟩ := h.registers x
    obtain ⟨k1, k2, k3⟩ := k.registers x
    exact ⟨k1.trans h1, k2.trans h2, k3.trans h3⟩
  accesses whole := (k.accesses (h.torn.trans whole)).trans (h.accesses whole)
  upkeep clean := by
    obtain ⟨host, ras⟩ := h.upkeep clean
    obtain ⟨host', ras'⟩ := k.upkeep (by rw [ras, clean])
    exact ⟨host'.trans host, ras'.trans ras⟩

theorem ite {s t u : State} {p : Prop} [Decidable p] (h : Undisturbed s t) (k : Undisturbed s u) : Undisturbed s (if p then t else u) := by
  split
  · exact h
  · exact k

theorem foldl {α : Type} {f : State → α → State} (step : ∀ s x, Undisturbed s (f s x)) (l : List α) (s : State) : Undisturbed s (l.foldl f s) := by
  induction l generalizing s with
  | nil => exact refl s
  | cons x l ih => exact (step s x).trans (ih _)

theorem unlogged {s t : State} (h : Undisturbed s t) (off : unlogged s) : unlogged t := fun p k => by
  rw [← off p k, logOn, logOn, State.part, State.part, h.parts]

end Undisturbed

theorem Ordered.undisturbed {s t : State} (h : Ordered s t) : Undisturbed s t := by
  obtain ⟨ccnt, boot, mem, -, parts, dies, sched, host, ras⟩ := h.outside
  exact ⟨mem, ccnt, boot, parts, h.torn, h.registers, fun _ => h.accesses, fun _ => ⟨host, ras⟩⟩

/-! ### Operations that only steer -/

namespace Steered

variable (s : State) (e : Env)

theorem orBlockFlags (launch bid flags : Nat) : Steered s (s.orBlockFlags launch bid flags) := by
  refine ite (refl s) ⟨⟨rfl, rfl, rfl, rfl, rfl, rfl, rfl, rfl, rfl⟩, fun k => ?_, rfl⟩
  simp only [State.warp, Tbl.getD, Tbl.get?_mapVals]
  cases s.warps.get? k with
  | none => exact ⟨rfl, rfl, rfl⟩
  | some w =>
    simp only [Option.map_some, Option.getD_some]
    split <;> exact ⟨rfl, rfl, rfl⟩

theorem send (lat : Nat) (l : List Res) : Steered s (s.send e lat l) := by
  unfold State.send
  split
  · exact modCore s _ _
  · exact modWarp s _ fun _ => ⟨rfl, rfl, rfl⟩

theorem raiseFlags (flags : Nat) : Steered s (s.raiseFlags e flags) := by
  refine ite (refl s) ?_
  split
  · exact orBlockFlags s _ _ _
  · exact modWarp s _ fun _ => ⟨rfl, rfl, rfl⟩

theorem commit (lat : Nat) (o : Out) : Steered s (s.commit e lat o) :=
  have sent := (send s e lat o.writes).trans (raiseFlags _ e o.flags)
  ite (sent.trans (modWarp _ _ fun _ => ⟨rfl, rfl, rfl⟩)) sent

theorem sendS (w : IWord) (lat v : Nat) : Steered s (s.sendS e w lat v) := by
  unfold State.sendS
  split
  · exact ite (refl s) (send s e _ _)
  · exact refl s

theorem countTaken : Steered s (s.countTaken e) := by
  unfold State.countTaken
  split
  · exact refl s
  · exact modWarp s _ fun _ => ⟨rfl, rfl, rfl⟩

theorem charge (k : Nat) : Steered s (s.charge e k) := by
  refine ite (refl s) ((modGroup s _ _).trans (modWarp _ _ fun w => ?_))
  dsimp only
  split <;> exact ⟨rfl, rfl, rfl⟩

theorem markAct (before lat : Nat) : Steered s (s.markAct e before lat) := modWarp s _ fun _ => ⟨rfl, rfl, rfl⟩

theorem countArrival (p : Party) (level : Nat) : Steered s (s.countArrival p level) := by
  unfold State.countArrival
  cases p with
  | seq c => exact modCore s c _
  | path | thread | service => exact modWarp s _ fun _ => ⟨rfl, rfl, rfl⟩

theorem countAtomic (p : Party) : Steered s (s.countAtomic p) := by
  unfold State.countAtomic
  cases p with
  | seq c => exact modCore s c _
  | path | thread | service => exact modWarp s _ fun _ => ⟨rfl, rfl, rfl⟩

theorem advanceCursor (p : Party) (r depth : Nat) : Steered s (s.advanceCursor p r depth) := by
  unfold State.advanceCursor
  cases p with
  | seq c => exact modCore s c _
  | path | thread | service => exact modWarp s _ fun _ => ⟨rfl, rfl, rfl⟩

theorem openSft (core : Nat) : Steered s (s.openSft core) := ite (refl s) (modCore s core fun c => { c with sft := _ })

theorem advance (stall : Nat) : Steered s (s.advance e stall) := by
  unfold State.advance
  cases e.party with
  | seq c => exact modCore s c _
  | path | thread | service => exact modWarp s _ fun _ => ⟨rfl, rfl, rfl⟩

theorem samePaths (k : Nat) {f : Warp → Warp} (h : ∀ x, sameButPaths x (f x)) : Steered s (s.modWarp k f) :=
  modWarp s k fun x => by
    obtain ⟨l, hl⟩ := h x
    rw [hl]
    exact ⟨rfl, rfl, rfl⟩

end Steered

/-! ### Operations that a log would record -/

section Unlogged

variable {s : State} (off : unlogged s)

include off

theorem trace_unlogged (e : Env) (l : List (Nat × Nat × Nat)) : s.trace e l = s :=
  trace_untraced (by simp [Env.traced, off _ _]) l

theorem reserveLog_unlogged (part g kind n : Nat) : s.reserveLog part g kind n = s := by
  have none : (s.part part).logs.get? kind = none := by simpa [logOn] using off part kind
  simp only [State.reserveLog, none]

theorem decision_unlogged (part core g wid kind v0 v1 : Nat) : s.decision part core g wid kind v0 v1 = s :=
  if_neg (by rw [off]; exact Bool.false_ne_true)

theorem phaseRecord_unlogged (e : Env) (r : BarRef) (woken : List Party) : s.phaseRecord e r woken = s := by
  unfold State.phaseRecord
  rw [decision_unlogged off, ite_self]

end Unlogged

/-! ### Effects -/

theorem goto_steered {s : State} (off : unlogged s) (e : Env) (pc : Nat) : Steered s (s.goto e pc) := by
  unfold State.goto
  split
  · have moved := Steered.jump s e.party pc
    rwa [trace_unlogged (moved.unlogged off)]
  · have moved := Steered.setPc s e.party pc
    rwa [trace_unlogged (moved.unlogged off)]
  · exact .setPc s e.party pc

theorem branchSimt_steered {s : State} (off : unlogged s) (e : Env) (w : IWord) (target : Nat) : Steered s (branchSimt e w target s) := by
  refine .ite (.refl s) (.ite (goto_steered off e target) ?_)
  have split := Steered.samePaths s e.key fun x => sameButPaths_branch x e w target
  rwa [trace_unlogged (split.unlogged off)]

theorem sameButPaths_merge (w : Warp) (l : List Nat) (pc : Nat) (rpc : Option Nat) : sameButPaths w (w.merge l pc rpc) := by
  unfold Warp.merge
  split <;> exact ⟨_, rfl⟩

theorem sameButPaths_foldl {α : Type} {f : Warp → α → Warp} (step : ∀ x a, sameButPaths x (f x a)) (l : List α) (w : Warp) :
    sameButPaths w (l.foldl f w) := by
  induction l generalizing w with
  | nil => exact ⟨_, rfl⟩
  | cons a l ih => exact sameButPaths_trans (step w a) (ih _)

theorem sameButPaths_warpsync (w : Warp) : sameButPaths w w.warpsync := by
  unfold Warp.warpsync
  split
  · exact ⟨_, rfl⟩
  · exact sameButPaths_foldl (fun x _ => sameButPaths_merge x _ _ _) _ w

theorem setBarrier_undisturbed (s : State) (r : BarRef) (b : Barrier) : Undisturbed s (s.setBarrier r b) := by
  unfold State.setBarrier
  split <;> exact ⟨rfl, rfl, rfl, rfl, rfl, fun _ => ⟨rfl, rfl, rfl⟩, fun _ => rfl, fun _ => ⟨rfl, rfl⟩⟩

theorem arrive_undisturbed (s : State) (r : BarRef) (m : Nat) : Undisturbed s (s.arrive r m).1 := by
  rw [arrive_eq]
  exact .ite (.refl s) (.ite ((setBarrier_undisturbed s r _).trans (completePhase_steered s r).undisturbed) (setBarrier_undisturbed s r _))

theorem arriveFor_undisturbed {s : State} (off : unlogged s) (e : Env) (r : BarRef) : Undisturbed s (s.arriveFor e r) := by
  have arrived := arrive_undisturbed s r (memberKey (e.w.bid, e.w.wid))
  unfold State.arriveFor
  split
  case h_1 t woken eq =>
    rw [eq] at arrived
    rwa [phaseRecord_unlogged (arrived.unlogged off)]
  case h_2 t eq =>
    rw [eq] at arrived
    exact arrived

theorem arriveEff_undisturbed {s : State} (off : unlogged s) (e : Env) (level : Nat) (r : Option BarRef) : Undisturbed s (arriveEff e s level r) := by
  have counted := Steered.countArrival s e.party level
  unfold arriveEff
  cases r with
  | none => exact counted.undisturbed
  | some r => exact counted.undisturbed.trans (arriveFor_undisturbed (counted.unlogged off) e r)

theorem waitEff_undisturbed (s : State) (e : Env) (level : Nat) : Undisturbed s (waitEff e s level) :=
  (Steered.setSynced s e.party none).undisturbed.trans (Ordered.acquire _ e.party _).undisturbed

theorem syncEff_undisturbed {s : State} (off : unlogged s) (e : Env) (level idx : Nat) : Undisturbed s (syncEff e s level idx) :=
  (Undisturbed.ite (arriveEff_undisturbed off e level _) (.refl s)).trans (waitEff_undisturbed _ e level)

theorem racqEff_undisturbed (s : State) (producer : Bool) (w : IWord) (e : Env) : Undisturbed s (racqEff producer w e s) := by
  unfold racqEff
  split
  · exact .ite (waitEff_undisturbed s e 0) (.refl s)
  · exact .refl s

theorem ringEff_undisturbed {s : State} (off : unlogged s) (producer : Bool) (w : IWord) (e : Env) : Undisturbed s (ringEff producer w e s) := by
  unfold ringEff
  split
  · exact .ite ((arriveEff_undisturbed off e 0 _).trans (Steered.advanceCursor _ e.party _ _).undisturbed) (.refl s)
  · exact .refl s

theorem enterCommand_steered {s : State} (off : unlogged s) (e : Env) (b : Option (BitVec 2048)) (va time : Nat) :
    Steered s (s.enterCommand e b va time) := by
  unfold State.enterCommand
  simp only [reserveLog_unlogged off, ite_self]
  exact (Steered.modCore s _ _).trans (.modCore _ _ _)

theorem engEff_steered {s : State} (off : unlogged s) (op : EngOp) (e : Env) : Steered s (engEff op e s) := by
  unfold engEff
  simp only [reserveLog_unlogged off, ite_self]
  have keyed (b : Prop) [Decidable b] : Steered s (if b then s.countAtomic e.party else s) := .ite (.countAtomic s e.party) (.refl s)
  exact ((keyed _).trans (.ite (.modCore _ _ _) (.refl _))).trans (.modCore _ _ _)

theorem csealEff_steered (s : State) (w : IWord) (e : Env) : Steered s (csealEff w e s) :=
  .ite (.commit s e _ _) (.ite ((Steered.modWarp s e.key (f := fun x => { x with sealed := (s.warp e.key).sealed + 1 }) fun _ => ⟨rfl, rfl, rfl⟩).trans (.commit _ e _ _))
     ((Steered.modCore s e.core _).trans (.commit _ e _ _)))

/-- A store issued as torn is one more access; nothing else changes. -/
theorem issueScratch_undisturbed {s : State} (torn : s.torn = true) (e : Env) (l : List (Nat × Nat × Nat)) : Undisturbed s (s.issueScratch e l) := by
  by_cases none : l = []
  · rw [none]
    exact .refl s
  · obtain ⟨⟨ccnt, boot, mem, -, parts, -, -, host, ras⟩, registers, sameTorn⟩ := numbered_steered s (tornStore s e l)
    rw [issueScratch_eq s e none]
    exact ⟨mem, ccnt, boot, parts, sameTorn, registers, fun whole => absurd (torn.symm.trans whole) (by decide),
      fun _ => ⟨host, ras⟩⟩

/-! ### The prefetch, whose reads correct what they meet -/

theorem correct_undisturbed (s : State) (line : Nat) : Undisturbed s (s.correct line) := by
  unfold State.correct
  split
  case isTrue found =>
    have waits : s.ras.upsets ≠ [] := fun clean => by simp [clean] at found
    unfold State.countCe
    dsimp only
    split <;> exact ⟨rfl, rfl, rfl, rfl, rfl, fun _ => ⟨rfl, rfl, rfl⟩, fun _ => rfl, fun clean => absurd clean waits⟩
  case isFalse => exact .refl s

theorem correctWalk_undisturbed (s : State) (part va : Nat) : Undisturbed s (s.correctWalk part va) :=
  .ite (.refl s) (.foldl correct_undisturbed _ s)

theorem modDie_undisturbed (s : State) (d : Nat) (f : Die → Die) : Undisturbed s (s.modDie d f) :=
  ⟨rfl, rfl, rfl, rfl, rfl, fun _ => ⟨rfl, rfl, rfl⟩, fun _ => rfl, fun _ => ⟨rfl, rfl⟩⟩

theorem learn_undisturbed (s : State) (core : Nat) (l : List TlbEntry) : Undisturbed s (s.learn core l) := by
  have walked := Undisturbed.foldl (f := fun s (x : TlbEntry) => s.correctWalk x.partition x.va) (fun s x => correctWalk_undisturbed s x.partition x.va)
    (l.filter fun e => !(s.core core).tlb.contains e && !(s.die (dieOf core)).tlb.contains e) s
  unfold State.learn
  exact (walked.trans (Steered.modCore _ core _).undisturbed).trans (modDie_undisturbed _ _ _)

theorem fill_undisturbed (s : State) (core line : Nat) (stream : Bool) : Undisturbed s (s.fill core line stream) :=
  ⟨rfl, rfl, rfl, rfl, rfl, fun _ => ⟨rfl, rfl, rfl⟩, fun _ => rfl, fun _ => ⟨rfl, rfl⟩⟩

theorem prefEff_undisturbed (s : State) (w : IWord) (e : Env) : Undisturbed s (prefEff w e s) := by
  unfold prefEff
  refine .foldl (fun s x => ?_) _ s
  exact (learn_undisturbed s e.core x.2).trans (.ite (.refl _) ((correct_undisturbed _ _).trans (fill_undisturbed _ _ _ _)))

/-! ### Stores to the scratchpad -/

theorem stsEff_undisturbed (s : State) (w : IWord) (e : Env) : Undisturbed s (stsEff w e s) := by
  refine Undisturbed.trans ?_ (Steered.charge _ e _).undisturbed
  split
  case isTrue left => exact issueScratch_undisturbed (by simp_all) e _
  case isFalse => exact (Steered.modCore s e.core _).undisturbed

theorem stsxEff_undisturbed (s : State) (w : IWord) (e : Env) : Undisturbed s (stsxEff w e s) := by
  refine Undisturbed.trans ?_ (Steered.charge _ e _).undisturbed
  split
  case isTrue left => exact issueScratch_undisturbed (by simp_all) e _
  case isFalse => exact (Steered.modCore s e.core _).undisturbed

/-! ### The issue and the end of an item -/

theorem logDecisions_steered {s : State} {e : Env} (none : e.decisions s = 0) : Steered s (s.logDecisions e) := by
  unfold State.logDecisions
  split
  · rw [if_pos none]
    exact .modWarp s _ fun _ => ⟨rfl, rfl, rfl⟩
  · rw [if_pos none]
    exact .refl s
  · exact .refl s

theorem account_steered (s : State) (p : Party) (pc : Nat) (l : List (Slot × Nat)) : Steered s (s.account p pc l) := by
  unfold State.account
  split
  · exact .refl s
  · exact .modGroup s _ _

theorem takePorts_steered (s : State) (p : Party) (x : Ports) : Steered s (s.takePorts p x) := by
  unfold State.takePorts
  split
  · exact .modGroup s _ _
  · exact .refl s

theorem serviceSlot_steered (s : State) (p : Party) (b : Bool) : Steered s (s.serviceSlot p b) := by
  unfold State.serviceSlot
  split
  · exact .modGroup s _ _
  · exact .refl s

/-- Issuing an item changes neither memory nor a register. -/
theorem begun_steered {op : Nat} {w : IWord} {c : Cur} {s : State} (none : (opEnv op w c s).decisions s = 0) : Steered s (begun op w c s) := by
  unfold begun
  dsimp only
  split
  · refine ((logDecisions_steered none).trans ?_).trans (.advance _ _ _)
    split
    · exact .refl _
    · exact account_steered _ _ _ _
  · exact (((account_steered s _ _ _).trans (takePorts_steered _ _ _)).trans (serviceSlot_steered _ _ _)).trans (.modWarp _ _ fun _ => ⟨rfl, rfl, rfl⟩)

/-- No loop ends at an item before which none was entered. -/
theorem loopEnd_steered (s : State) (key pc : Nat) (after : Nat → Nat) : Steered s (loopEnd s key pc 0 after) := by
  refine .modWarp s key fun w => ?_
  split
  · exact ⟨rfl, rfl, rfl⟩
  · split
    · exact ⟨rfl, rfl, rfl⟩
    · rename_i loops
      rw [if_pos (by simp [loops])]
      exact ⟨rfl, rfl, rfl⟩

theorem endItem_steered {e : Env} (outside : e.depth = 0) (after : Nat) (s : State) : Steered s ((endItem e after s).getD s) := by
  have ends := loopEnd_steered s e.key e.pc fun _ => after
  unfold endItem
  rw [outside]
  split
  · exact ends
  · dsimp only
    split
    · exact ends
    · split
      · exact .refl s
      · exact ends.trans (.modWarp _ _ fun _ => ⟨rfl, rfl, rfl⟩)

theorem ended_steered {c : Cur} {s : State} (outside : (s.env c).depth = 0) (t : State) : Steered t (ended c s t) := by
  unfold ended
  split
  · exact .refl t
  · exact endItem_steered outside c.next t

/-! ### The forms -/

/-- What the effect of a form may be said to leave while no log is on. -/
def keepsData (m : Sem) : Prop := ∀ e s, unlogged s → Undisturbed s (m.eff e s)

/-- The frame of a form, and that it completes with it. -/
theorem keepsData_completes {i : Instr} {m : Sem} (means : ∀ s, exec i s = runSem m s) (keeps : keepsData m) {c : Cur} {s : State}
    (nothing : free m.op m.w c s = true) (open' : m.gate (opEnv m.op m.w c s) s = .ok) (off : unlogged s)
    (outside : ∀ x, (opEnv m.op m.w c s).w.vliw = some x → x.loops = []) : ∃ t, exec i s = .next t ∧ Undisturbed s t := by
  have noRecord : (opEnv m.op m.w c s).decisions s = 0 := by
    simp only [free, Bool.and_eq_true, beq_iff_eq] at nothing
    exact nothing.1.2
  have depth : (s.env c).depth = 0 := by
    unfold Env.depth
    split
    · rename_i x vliw
      rw [outside x vliw, List.length_nil]
    · rfl
  have issued := begun_steered noRecord
  exact ⟨_, (means s).trans (runSem_free nothing open'),
    (issued.undisturbed.trans (keeps _ _ (issued.unlogged off))).trans (ended_steered depth _).undisturbed⟩

theorem keepsData_steered {m : Sem} (h : ∀ e s, unlogged s → Steered s (m.eff e s)) : keepsData m := fun e s off => (h e s off).undisturbed

theorem keepsData_sts (w : IWord) : keepsData (semSts w) := fun e s _ => by
  unfold semSts
  dsimp only
  exact stsEff_undisturbed s w e

theorem keepsData_stsx (w : IWord) : keepsData (semStsx w) := fun e s _ => by
  unfold semStsx
  dsimp only
  exact stsxEff_undisturbed s w e

theorem feEff_steered (v : Bool) (w : IWord) (e : Env) (s : State) : Steered s (feEff v w e s) := .modCore s e.core fun c => c.setFull v _

theorem keepsData_barq (w : IWord) : keepsData (semBarq w) := keepsData_steered fun e s _ => by
  unfold semBarq
  exact .commit s e _ _

theorem keepsData_cquery (w : IWord) : keepsData (semCquery w) := keepsData_steered fun e s _ => by
  unfold semCquery
  exact .commit s e _ _

theorem keepsData_getsr (w : IWord) : keepsData (semGetsr w) := keepsData_steered fun e s _ => by
  unfold semGetsr
  exact .commit s e _ _

theorem keepsData_clk (w : IWord) : keepsData (semClk w) := keepsData_steered fun e s _ => by
  unfold semClk
  exact .commit s e _ _

theorem keepsData_arrive (op : Nat) (w : IWord) (level : Nat) : keepsData (arriveSem op w level) := fun e _ off => arriveEff_undisturbed off e level _

theorem keepsData_wait (op : Nat) (w : IWord) (level : Nat) : keepsData (waitSem op w level) := fun e s _ => waitEff_undisturbed s e level

theorem keepsData_sync (op : Nat) (w : IWord) (level : Nat) : keepsData (syncSem op w level) := fun e _ off => syncEff_undisturbed off e level _

theorem keepsData_eng (op : Nat) (w : IWord) (mk : IWord → Env → EngOp) (pre : Env → Option Trap) : keepsData (engSem op w mk pre) :=
  keepsData_steered fun e _ off => engEff_steered off (mk w e) e

theorem keepsData_branch (op : Nat) (w : IWord) : keepsData (branchSem op w) := keepsData_steered fun e s off => by
  unfold branchSem
  dsimp only
  split
  · exact branchSimt_steered off e w _
  · exact .ite (goto_steered off e _) (.refl s)
  · exact goto_steered off e _

theorem keepsData_uniform {op : Nat} {w : IWord} {gate : Env → Gate} {taken : Env → Bool} {target : Env → Nat} {before : Env → State → State}
    (h : ∀ e s, Steered s (before e s)) : keepsData (uniformSem op w gate taken target before) :=
  keepsData_steered fun e s off => .ite ((h e s).trans (goto_steered ((h e s).unlogged off) e _)) (h e s)

theorem keepsData_join (w : IWord) : keepsData (semJoin w) := keepsData_steered fun e s off => by
  have waits : Steered s (s.modWarp e.key fun x => x.atJoin e.pathNo e.pc e.next (joinRpc e w)) := .modWarp s _ fun _ => ⟨rfl, rfl, rfl⟩
  have joined := waits.trans (.samePaths _ e.key sameButPaths_joinAll)
  refine .ite ?_ (.refl s)
  rwa [trace_unlogged (joined.unlogged off)]

theorem keepsData_lpret (w : IWord) : keepsData (semLpret w) := keepsData_steered fun e s off => by
  unfold semLpret
  dsimp only
  split
  · exact .refl s
  · have left : Steered s (s.modWarp e.key fun x => { x with lp := none }) := .modWarp s _ fun _ => ⟨rfl, rfl, rfl⟩
    exact left.trans (goto_steered (left.unlogged off) e _)

theorem keepsData_setsr (w : IWord) : keepsData (semSetsr w) := keepsData_steered fun e s _ =>
  .ite ((Steered.openSft s e.core).trans (.modWarp _ _ fun _ => ⟨rfl, rfl, rfl⟩)) (.refl s)

theorem keepsData_warpsync (w : IWord) : keepsData (semWarpsync w) := keepsData_steered fun e s _ =>
  ((Steered.setPc s e.party e.pc).trans (.setWait _ e.party _)).trans (.samePaths _ e.key sameButPaths_warpsync)

theorem keepsData_cinvLine (w : IWord) : keepsData (semCinvLine w) := keepsData_steered fun e s _ => by
  refine .foldl (fun s x => ?_) _ s
  exact .modCore s e.core _

theorem form_keepsData {mk : IWord → Instr} {sem : IWord → Sem} (of : ∀ w, semOf (mk w) = some (sem w))
    (means : ∀ w s, exec (mk w) s = runSem (sem w) s) (keeps : ∀ w, keepsData (sem w)) (w : IWord) :
    ∃ m, semOf (mk w) = some m ∧ (∀ s, exec (mk w) s = runSem m s) ∧ keepsData m := ⟨sem w, of w, means w, keeps w⟩

/-- Each form issues with its meaning, and its effect moves no data. -/
theorem keepingForms_keepData : ∀ mk ∈ keepingForms, ∀ w, ∃ m, semOf (mk w) = some m ∧ (∀ s, exec (mk w) s = runSem m s) ∧ keepsData m := by
  simp only [keepingForms, List.forall_mem_cons, List.not_mem_nil, false_imp_iff, implies_true, and_true]
  refine ⟨?act, ?sts, ?stsx, ?feset, ?feclr, ?pref, ?cinvLine, ?cinvTiles, ?cinvAll, ?fence, ?barArrive, ?barWait, ?barSync, ?barq, ?racqP, ?racqC,
    ?rcommit, ?rrel, ?warpsync, ?cpy, ?cseal, ?cwait, ?ctable, ?cquery, ?mload, ?mperm, ?mzero, ?mma, ?mladr, ?mscale, ?mscaleClr, ?mdrain,
    ?mwait, ?mbarArrive, ?mbarWait, ?mbarSync, ?mbarRacqP, ?mbarRacqC, ?mbarRcommit, ?mbarRrel, ?bra, ?brx, ?call, ?ret, ?join, ?loopDec,
    ?lbreakZ, ?lbreakNz, ?modeVliw, ?modeSimt, ?nop, ?sleep, ?getsr, ?setsr, ?clk, ?lpret⟩
  case act => exact form_keepsData (fun _ => rfl) (fun _ _ => rfl) (fun w => keepsData_steered fun e s _ => (Steered.commit s e _ _).trans (.markAct _ e _ _))
  case sts => exact form_keepsData (fun _ => rfl) (fun _ _ => rfl) keepsData_sts
  case stsx => exact form_keepsData (fun _ => rfl) (fun _ _ => rfl) keepsData_stsx
  case feset | feclr => exact form_keepsData (fun _ => rfl) (fun _ _ => rfl) fun w => keepsData_steered fun e s _ => feEff_steered _ w e s
  case pref => exact form_keepsData (fun _ => rfl) (fun _ _ => rfl) (fun w e s _ => prefEff_undisturbed s w e)
  case cinvLine => exact form_keepsData (fun _ => rfl) (fun _ _ => rfl) keepsData_cinvLine
  case cinvTiles | cinvAll => exact form_keepsData (fun _ => rfl) (fun _ _ => rfl) (fun w => keepsData_steered fun e s _ => .ite (.modCore s e.core _) (.refl s))
  case fence => exact form_keepsData (fun _ => rfl) (fun _ _ => rfl) (fun w e s _ => (fence_ordered w e s).undisturbed)
  case barArrive | mbarArrive => exact form_keepsData (fun _ => rfl) (fun _ _ => rfl) (fun w => keepsData_arrive _ w _)
  case barWait | mbarWait => exact form_keepsData (fun _ => rfl) (fun _ _ => rfl) (fun w => keepsData_wait _ w _)
  case barSync | mbarSync => exact form_keepsData (fun _ => rfl) (fun _ _ => rfl) (fun w => keepsData_sync _ w _)
  case barq => exact form_keepsData (fun _ => rfl) (fun _ _ => rfl) keepsData_barq
  case cquery => exact form_keepsData (fun _ => rfl) (fun _ _ => rfl) keepsData_cquery
  case getsr => exact form_keepsData (fun _ => rfl) (fun _ _ => rfl) keepsData_getsr
  case clk => exact form_keepsData (fun _ => rfl) (fun _ _ => rfl) keepsData_clk
  case racqP | racqC | mbarRacqP | mbarRacqC => exact form_keepsData (fun _ => rfl) (fun _ _ => rfl) (fun w e s _ => racqEff_undisturbed s _ w e)
  case rcommit | rrel | mbarRcommit | mbarRrel => exact form_keepsData (fun _ => rfl) (fun _ _ => rfl) (fun w e s off => ringEff_undisturbed off _ w e)
  case warpsync => exact form_keepsData (fun _ => rfl) (fun _ _ => rfl) keepsData_warpsync
  case cpy | ctable => exact form_keepsData (fun _ => rfl) (fun _ _ => rfl) (fun w => keepsData_steered fun e s off => .ite (enterCommand_steered off e _ _ _) (.refl s))
  case cseal => exact form_keepsData (fun _ => rfl) (fun _ _ => rfl) (fun w => keepsData_steered fun e s _ => csealEff_steered s w e)
  case cwait | mwait | nop => exact form_keepsData (fun _ => rfl) (fun _ _ => rfl) (fun _ => keepsData_steered fun _ s _ => .refl s)
  case mload | mperm | mzero | mma | mladr | mscale | mscaleClr | mdrain => exact form_keepsData (fun _ => rfl) (fun _ _ => rfl) (fun w => keepsData_eng _ w _ _)
  case bra | brx => exact form_keepsData (fun _ => rfl) (fun _ _ => rfl) (fun w => keepsData_branch _ w)
  case call => exact form_keepsData (fun _ => rfl) (fun _ _ => rfl) (fun w => keepsData_uniform fun e s => .sendS s e w _ _)
  case ret | lbreakZ | lbreakNz => exact form_keepsData (fun _ => rfl) (fun _ _ => rfl) (fun _ => keepsData_uniform fun _ s => .refl s)
  case join => exact form_keepsData (fun _ => rfl) (fun _ _ => rfl) keepsData_join
  case loopDec => exact form_keepsData (fun _ => rfl) (fun _ _ => rfl) (fun w => keepsData_uniform fun e s => .ite ((Steered.sendS s e w _ _).trans (.countTaken _ e)) (.sendS s e w _ _))
  case modeVliw | modeSimt => exact form_keepsData (fun _ => rfl) (fun _ _ => rfl) (fun w => keepsData_steered fun e s _ => .modWarp s e.key fun _ => ⟨rfl, rfl, rfl⟩)
  case sleep => exact form_keepsData (fun _ => rfl) (fun _ _ => rfl) (fun w => keepsData_steered fun e s _ => .setSlept s e.party false)
  case setsr => exact form_keepsData (fun _ => rfl) (fun _ _ => rfl) keepsData_setsr
  case lpret => exact form_keepsData (fun _ => rfl) (fun _ _ => rfl) keepsData_lpret

/-- Settles O26: the effect of each form is made of operations that move no data, and so are its issue and the end of its item. -/
theorem otherFormsKeepRegistersAndMemory : Obligations.OtherFormsKeepRegistersAndMemory := by
  unfold Obligations.OtherFormsKeepRegistersAndMemory
  intro keeps mk listed w m sem
  obtain ⟨m', sem', means, moves⟩ := keepingForms_keepData mk listed w
  obtain rfl : m' = m := Option.some.inj (sem'.symm.trans sem)
  have frame {s t : State} (h : Undisturbed s t) : keeps s t := ⟨h.mem, h.ccnt, h.boot, h.registers, h.accesses, h.upkeep⟩
  refine ⟨fun e s off => frame (moves e s off), fun c s nothing open' off outside => ?_⟩
  obtain ⟨t, next, kept⟩ := keepsData_completes means moves nothing open' off outside
  exact ⟨t, next, frame kept⟩

end Sys2Proof.Laws
end

section
/-!
SUPPORT. The issue of a global access, and of a plain load that translates (spec/07 R187, R196 to R200; spec/11 R300; spec/19 R425).
-/
namespace Sys2Proof.Laws

open Sys2Proof Sys2Proof.Machine

theorem atomGate_ok {op : Nat} {w : IWord} {e : Env} {s : State} {a : Access}
    (h : if bit w.ext.toNat 5 then accessReady e s a = true
      else scratchReady e s ((e.memLanes op w).map fun t => (roundDown (e.scratchAddr w t) (if bit w.ext.toNat 4 then 8 else 4), if bit w.ext.toNat 4 then 8 else 4))
        false true = true) : atomGate op w e s a = .ok := by
  unfold atomGate
  split
  case isTrue isGlobal =>
    rw [if_pos isGlobal] at h
    exact globalGate_ok h
  case isFalse isScratch =>
    rw [if_neg isScratch] at h
    exact scratchGate_ok h

/-- An access of the global space completes when it may go on. -/
theorem completes_access {mk : IWord → Instr} {op : Nat} {access : IWord → Env → State → Access}
    (hx : ∀ w s, exec (mk w) s = runSem (accessSem op w (access w)) s) :
    CompletesWhen mk op (fun w e s => accessReady e s (access w e s) = true) fun w e s => s.issueAccess e (access w e s) :=
  completes_when (sem := fun w => accessSem op w (access w)) hx (fun _ => rfl) (fun _ => rfl) (fun _ _ _ => globalGate_ok) fun _ => rfl

/-! ### Translation does not see serial numbers -/

section Serial

variable (s : State) (n : Nat)

theorem walkAt_serial (part va : Nat) (acc : Acc) (level table : Nat) :
    walkAt { s with serial := n } part va acc level table = walkAt s part va acc level table := by
  induction level generalizing table with
  | zero =>
    unfold walkAt
    rfl
  | succ level ih =>
    unfold walkAt
    simp only [ih]
    rfl

theorem lookup_serial (core part va : Nat) (acc : Acc) : lookup { s with serial := n } core part va acc = lookup s core part va acc := by
  unfold lookup walk
  rw [walkAt_serial]
  rfl

theorem translateUnits_serial (core part : Nat) (acc : Acc) (l : List Nat) :
    translateUnits { s with serial := n } core part acc l = translateUnits s core part acc l := by
  induction l with
  | nil => rfl
  | cons va l ih => simp only [translateUnits, lookup_serial, ih]

theorem translate_serial (core part : Nat) (acc : Acc) (l : List (Nat × Nat)) :
    translate { s with serial := n } core part acc l = translate s core part acc l := translateUnits_serial s n core part acc _

theorem rangeTrap_serial (id : Nat) (k : GKind) (pages : List TlbEntry) (va m : Nat) :
    rangeTrap (({ s with serial := n } : State).routesAt id) k pages va m = rangeTrap (s.routesAt id) k pages va m := by
  have routes : ({ s with serial := n } : State).routesAt id = { s.routesAt id with serial := n } := by
    rcases old : s.host.oldRoutes.filter fun x => decide (id < x.1) with _ | ⟨x, l⟩ <;> simp only [State.routesAt, old]
  have home (t : State) (pa : Nat) (va : Nat) : homeTrap { t with serial := n } k va pa = homeTrap t k va pa := rfl
  rw [routes]
  simp only [rangeTrap, home]

end Serial

/-! ### Learning a translation -/

/-- What the correction of a line and the entry of translations leave of the accesses and of the debuggers. -/
structure SameIssue (s t : State) : Prop where
  accs : t.accs = s.accs
  serial : t.serial = s.serial
  dbg : ∀ c, (t.core c).dbg = (s.core c).dbg

theorem SameIssue.refl (s : State) : SameIssue s s := ⟨rfl, rfl, fun _ => rfl⟩

theorem SameIssue.trans {s t u : State} (h : SameIssue s t) (k : SameIssue t u) : SameIssue s u :=
  ⟨k.accs.trans h.accs, k.serial.trans h.serial, fun c => (k.dbg c).trans (h.dbg c)⟩

theorem correct_sameIssue (s : State) (line : Nat) : SameIssue s (s.correct line) := by
  unfold State.correct
  split
  · unfold State.countCe
    dsimp only
    split <;> exact ⟨rfl, rfl, fun _ => rfl⟩
  · exact .refl s

theorem foldl_sameIssue {α : Type} {f : State → α → State} (step : ∀ s x, SameIssue s (f s x)) (l : List α) (s : State) :
    SameIssue s (l.foldl f s) := by
  induction l generalizing s with
  | nil => exact .refl s
  | cons x l ih => exact (step s x).trans (ih _)

theorem correctWalk_sameIssue (s : State) (part va : Nat) : SameIssue s (s.correctWalk part va) := by
  unfold State.correctWalk
  split
  · exact .refl s
  · exact foldl_sameIssue correct_sameIssue _ s

theorem learn_sameIssue (s : State) (core : Nat) (l : List TlbEntry) : SameIssue s (s.learn core l) := by
  unfold State.learn
  refine (foldl_sameIssue (fun s (x : TlbEntry) => correctWalk_sameIssue s x.partition x.va) _ s).trans ⟨rfl, rfl, fun c => ?_⟩
  rw [show ∀ (t : State) d f, (State.modDie t d f).core c = t.core c from fun _ _ _ => rfl]
  by_cases own : core = c
  · rw [← own, State.modCore_core]
  · rw [State.modCore_core_ne _ _ own]

/-! ### A plain load -/

theorem resolve_global {a : Access} (isGlobal : a.scratch = false) (plain : a.kind.recordIndex = none) (s : State) : resolve s a = resolveRanges s a := by
  unfold resolve
  generalize a.kind = k at plain ⊢
  cases k with
  | ldb j word => cases plain
  | stb j word => cases plain
  | _ => exact if_neg (by simp [isGlobal])

theorem gkind_load {a : Access} {signed : Bool} (load : a.kind = .load signed) : a.gkind = .ld := by rw [Access.gkind, load]

/-- A load that translates, and that no home refuses, resolves to itself with its pages. -/
theorem resolveRanges_load {s : State} {a : Access} {signed : Bool} {pages : List TlbEntry} (load : a.kind = .load signed)
    (translates : translate s a.core a.partition .read (a.spans.getD []) = .ok pages)
    (allowed : (a.spans.getD []).findSome? (fun x => rangeTrap (s.routesAt a.id) .ld pages x.1 x.2) = none) :
    resolveRanges s a = .ok s { a with pages := pages, ready := true } := by
  have kind : a.gkind = .ld := gkind_load load
  have kind' : ({ a with pages := pages, ready := true } : Access).gkind = .ld := gkind_load load
  have acc : GKind.ld.acc = .read := rfl
  unfold resolveRanges
  simp only [kind, kind', acc, translates, allowed]

/-- With no replay buffer in use an access that resolves does not wait for one. -/
theorem misses_noReplay {s : State} {a b : Access} (empty : (s.core a.core).replay = []) : a.misses s b = false := by
  have full (acc : Acc) (l : List (Nat × Nat)) : missesFull s a.core a.partition acc l = false := by
    simp [missesFull, empty, Config.replayEntries]
  simp [Access.misses, full]

/-- A watchpoint that no debugger has set does not fire. -/
theorem watch_detached {s : State} (detached : ∀ c, s.attached c = false) (p : Party) (a : Access) : s.watch p a = s := by
  have off : (s.core a.core).dbg.dctl.getLsbD 63 = false := detached a.core
  have kinds : watchesKind s a = false := by rw [watchesKind, off, Bool.false_and]
  have none (l : List (Nat × Nat × Nat)) : watchOn s a.core l = none := by
    rw [watchOn, off]
    rfl
  unfold State.watch
  rw [kinds, none]
  split <;> rfl

/-- The access under its number, translated. -/
def translated (s : State) (pages : List TlbEntry) (a : Access) : Access :=
  { a with id := s.serial, pages := pages, ready := true, reserved := 0, reserved1 := false }

/-- The state in which it is listed: its number is taken, and its translations are learnt. -/
def learnt (s : State) (pages : List TlbEntry) (a : Access) : State := ({ s with serial := s.serial + 1 } : State).learn a.core pages

section Load

variable {s : State} {a : Access} {signed : Bool} {pages : List TlbEntry} (load : a.kind = .load signed) (isGlobal : a.scratch = false)
  (uncounted : a.counted = false) (off : logOn s a.partition 2 = false) (empty : (s.core a.core).replay = [])
  (translates : translate s a.core a.partition .read (a.spans.getD []) = .ok pages)
  (allowed : (a.spans.getD []).findSome? (fun x => rangeTrap (s.routesAt s.serial) .ld pages x.1 x.2) = none)

include load isGlobal uncounted off empty translates allowed

theorem enter_load : s.enter a = { learnt s pages a with accs := (learnt s pages a).accs ++ [translated s pages a] } := by
  have plain : a.kind.recordIndex = none := by rw [load]; rfl
  have resolves : resolve { s with serial := s.serial + 1 } { a with id := s.serial } =
      .ok { s with serial := s.serial + 1 } { a with id := s.serial, pages := pages, ready := true } := by
    rw [resolve_global (a := { a with id := s.serial }) isGlobal plain]
    refine resolveRanges_load (a := { a with id := s.serial }) load ?_ ?_
    · rw [translate_serial]
      exact translates
    · simp only [rangeTrap_serial]
      exact allowed
  have fits : ({ a with id := s.serial } : Access).misses { s with serial := s.serial + 1 } { a with id := s.serial, pages := pages, ready := true } = false :=
    misses_noReplay (a := { a with id := s.serial }) empty
  have unrecorded (t : State) (h : t.parts = s.parts) (b : Bool) : (logOn t a.partition 2 && !a.scratch && b) = false := by
    have : logOn t a.partition 2 = false := by rw [← off, logOn, logOn, State.part, State.part, h]
    rw [this, Bool.false_and, Bool.false_and]
  have known := learn_undisturbed { s with serial := s.serial + 1 } a.core pages
  have notCounted : ¬ a.counted = true := by rw [uncounted]; exact Bool.false_ne_true
  have notScratch : ¬ a.scratch = true := by rw [isGlobal]; exact Bool.false_ne_true
  unfold State.enter
  simp only [if_neg notCounted, resolves, fits, if_neg notScratch, Bool.false_eq_true, if_false, Bool.false_and, if_true, unrecorded _ known.parts]
  exact readRecords_plain (a := translated s pages a) plain _

/-- A plain load that translates is the last access, and nothing is watched. -/
theorem issueAccess_load (lanes : a.lanes ≠ []) (detached : ∀ c, s.attached c = false) (e : Env) :
    s.issueAccess e a = { learnt s pages a with accs := s.accs ++ [translated s pages { a with key := none, code := partyCode s e.party }] } := by
  have notAtomic : a.kind.atomic = false := by rw [load]; rfl
  have entered (n : Nat) : s.enter { a with key := none, reserved := n, code := partyCode s e.party } =
      { learnt s pages a with
        accs := (learnt s pages a).accs ++ [translated s pages { a with key := none, code := partyCode s e.party }] } :=
    enter_load (a := { a with key := none, reserved := n, code := partyCode s e.party }) load isGlobal uncounted off empty translates allowed
  have same := learn_sameIssue { s with serial := s.serial + 1 } a.core pages
  have accs : (learnt s pages a).accs = s.accs := same.accs
  unfold State.issueAccess
  rw [if_neg (by simpa using lanes)]
  simp only [notAtomic, Bool.false_and, Bool.false_eq_true, if_false, Option.isSome_none, entered, accs, List.getLast?_concat]
  split
  · rfl
  · refine watch_detached (fun c => ?_) e.party _
    exact (congrArg (fun d : CoreDebug => d.dctl.getLsbD 63) (same.dbg c)).trans (detached c)

end Load

/-- Settles O39: what each form asks for opens its gate, and a plain load that translates enters the list with its pages. -/
theorem globalAccessesIssue : Obligations.GlobalAccessesIssue := by
  refine ⟨completes_access fun _ _ => rfl, completes_access fun _ _ => rfl, completes_access fun _ _ => rfl, completes_access fun _ _ => rfl,
    completes_when (fun _ _ => rfl) (fun _ => rfl) (fun _ => rfl) (fun _ _ _ => atomGate_ok) fun _ => rfl,
    completes_when (fun _ _ => rfl) (fun _ => rfl) (fun _ => rfl) (fun _ _ _ => atomGate_ok) fun _ => rfl,
    completes_when (fun _ _ => rfl) (fun _ => rfl) (fun _ => rfl) (fun _ _ _ => globalGate_ok) fun _ => rfl,
    fun s e a none => if_pos (by rw [none]; rfl), ?_⟩
  intro s e a signed pages load lanes isGlobal uncounted _ _ off detached empty translates allowed
  dsimp only
  have known := learn_undisturbed { s with serial := s.serial + 1 } a.core pages
  have same := learn_sameIssue { s with serial := s.serial + 1 } a.core pages
  rw [issueAccess_load load isGlobal uncounted off empty translates allowed lanes detached e]
  exact ⟨known.mem, known.registers, same.serial, _, rfl, rfl, rfl, rfl, rfl, rfl, rfl, rfl, rfl⟩

end Sys2Proof.Laws
end

section
/-!
SUPPORT. The bytes and granules of a core's scratchpad store after its writes (spec/07 R187, R195; spec/10 R276).
-/
namespace Sys2Proof.Laws

open Sys2Proof Sys2Proof.Machine

/-! ### Fields of numbers -/

/-- A number around a replaced field. -/
theorem putBits_around (x lo n v : Nat) : putBits x lo n v = 2 ^ lo * (2 ^ n * (x / 2 ^ (lo + n)) + v % 2 ^ n) + x % 2 ^ lo := by
  have low := Nat.div_add_mod x (2 ^ lo)
  have high := Nat.div_add_mod (x / 2 ^ lo) (2 ^ n)
  rw [Nat.div_div_eq_div_mul, ← pow_add] at high
  rw [putBits_eq, pow_zero, Nat.div_one]
  generalize x / 2 ^ (lo + n) = q at *
  generalize x / 2 ^ lo % 2 ^ n = field at *
  generalize v % 2 ^ n = new
  generalize x % 2 ^ lo = rest at *
  rw [← low, ← high]
  ring_nf
  omega

theorem testBit_putBits (x lo n v i : Nat) : (putBits x lo n v).testBit i = if lo ≤ i ∧ i < lo + n then v.testBit (i - lo) else x.testBit i := by
  rw [putBits_around, Nat.testBit_two_pow_mul_add _ (Nat.mod_lt _ (by positivity)), Nat.testBit_two_pow_mul_add _ (Nat.mod_lt _ (by positivity)),
    Nat.testBit_mod_two_pow, Nat.testBit_mod_two_pow, Nat.testBit_div_two_pow]
  rcases Nat.lt_or_ge i lo with below | from'
  · simp [below, Nat.not_le.mpr below]
  · rcases Nat.lt_or_ge i (lo + n) with inside | above
    · simp [Nat.not_lt.mpr from', from', inside, show i - lo < n by omega]
    · simp [Nat.not_lt.mpr from', from', Nat.not_lt.mpr above, show ¬ i - lo < n by omega, show i - lo - n + (lo + n) = i by omega]

theorem testBit_bits (x lo n i : Nat) : (bits x lo n).testBit i = (decide (i < n) && x.testBit (lo + i)) := by
  rw [bits, Nat.testBit_mod_two_pow, Nat.testBit_shiftRight]

/-- Fields that do not meet: one is read after another is replaced, or the same is. -/
theorem bits_putBits (x v : Nat) {i j n : Nat} : bits (putBits x (n * i) n v) (n * j) n = if i = j then v % 2 ^ n else bits x (n * j) n := by
  refine Nat.eq_of_testBit_eq fun k => ?_
  rw [testBit_bits, testBit_putBits]
  by_cases small : k < n
  · by_cases same : i = j
    · subst same
      simp [small, Nat.testBit_mod_two_pow]
    · have apart : ¬ (n * i ≤ n * j + k ∧ n * j + k < n * i + n) := by
        rintro ⟨h1, h2⟩
        have : i < j + 1 := Nat.lt_of_mul_lt_mul_left (a := n) (by rw [Nat.mul_add]; omega)
        have : j < i + 1 := Nat.lt_of_mul_lt_mul_left (a := n) (by rw [Nat.mul_add]; omega)
        omega
      rw [if_neg apart, if_neg same, testBit_bits]
  · by_cases same : i = j <;> simp [same, small, Nat.testBit_mod_two_pow, testBit_bits]

/-! ### Bytes -/

theorem natLe_getElem? (n v i : Nat) : (natLe n v)[i]? = if i < n then some (BitVec.ofNat 8 (v / 2 ^ (8 * i))) else none := by
  induction n generalizing v i with
  | zero => rfl
  | succ n ih =>
    cases i with
    | zero => simp [natLe]
    | succ i =>
      rw [natLe, List.getElem?_cons_succ, ih]
      simp only [Nat.succ_lt_succ_iff, Nat.div_div_eq_div_mul, show 256 = 2 ^ 8 from rfl, ← pow_add, Nat.mul_add, Nat.add_comm 8, Nat.mul_one]

theorem bits_mod_two_pow {lo n m : Nat} (h : lo + n ≤ m) (x : Nat) : bits (x % 2 ^ m) lo n = bits x lo n := by
  refine Nat.eq_of_testBit_eq fun k => ?_
  rw [testBit_bits, testBit_bits, Nat.testBit_mod_two_pow]
  by_cases small : k < n
  · simp [small, show lo + k < m by omega]
  · simp [small]

theorem granule_sPut (c : Core) (a k : Nat) (v : Byte) : (c.sPut a v).scratch.getD k 0 =
    if a / 16 = k then BitVec.ofNat 128 (putBits (c.scratch.getD (a / 16) 0).toNat (8 * (a % 16)) 8 v.toNat) else c.scratch.getD k 0 := by
  unfold Core.sPut
  dsimp only
  split
  case isTrue zero =>
    by_cases same : a / 16 = k
    · rw [if_pos same, ← same, zero, Tbl.getD, Tbl.get?_erase, if_pos rfl]
      rfl
    · rw [if_neg same, Tbl.getD, Tbl.get?_erase, if_neg same, Tbl.getD]
  case isFalse => rw [Tbl.getD_set]

theorem sByte_sPut (c : Core) (a b : Nat) (v : Byte) : (c.sPut a v).sByte b = if a = b then v else c.sByte b := by
  have field (x : Nat) (j : Nat) (h : j < 16) : vbits (BitVec.ofNat 128 x) (8 * j) 8 = bits x (8 * j) 8 := by
    rw [vbits, BitVec.toNat_ofNat, bits_mod_two_pow (by omega)]
  unfold Core.sByte
  rw [granule_sPut]
  by_cases same : a / 16 = b / 16
  · rw [if_pos same, field _ _ (Nat.mod_lt _ (by decide)), bits_putBits]
    by_cases place : a % 16 = b % 16
    · rw [if_pos place, if_pos (by omega), Nat.mod_eq_of_lt v.isLt, BitVec.ofNat_toNat, BitVec.setWidth_eq]
    · rw [if_neg place, if_neg (by rintro rfl; exact place rfl), same]
      rfl
  · rw [if_neg same, if_neg (by rintro rfl; exact same rfl)]

theorem sByte_sPuts (l : List Byte) (c : Core) (a b : Nat) :
    (c.sPuts a l).sByte b = if a ≤ b then l[b - a]?.getD (c.sByte b) else c.sByte b := by
  induction l generalizing c a with
  | nil => simp [Core.sPuts]
  | cons v l ih =>
    rw [Core.sPuts, ih, sByte_sPut]
    rcases Nat.lt_trichotomy a b with less | same | more
    · obtain ⟨k, rfl⟩ := Nat.exists_eq_add_of_lt less
      rw [if_pos (show a + 1 ≤ a + k + 1 by omega), if_neg (show ¬ a = a + k + 1 by omega), if_pos (show a ≤ a + k + 1 by omega),
        show a + k + 1 - a = k + 1 by omega, show a + k + 1 - (a + 1) = k by omega,
        List.getElem?_cons_succ]
    · simp [same]
    · rw [if_neg (show ¬ a + 1 ≤ b by omega), if_neg (show ¬ a = b by omega), if_neg (show ¬ a ≤ b by omega)]

/-- The number that a store writes leaves its bytes at its address. -/
theorem sByte_sPuts_natLe (c : Core) (a n v b : Nat) : (c.sPuts a (natLe n v)).sByte b =
    if a ≤ b ∧ b < a + n then BitVec.ofNat 8 (v / 2 ^ (8 * (b - a))) else c.sByte b := by
  rw [sByte_sPuts, natLe_getElem?]
  by_cases from' : a ≤ b
  · by_cases inside : b < a + n
    · simp [from', inside, show b - a < n by omega]
    · simp [from', inside, show ¬ b - a < n by omega]
  · simp [from']

/-- A store of one lane: address, size and data. -/
def storeLane (c : Core) (x : Nat × Nat × Nat) : Core := c.sPuts x.1 (natLe x.2.1 x.2.2)

/-- Of lanes that write one byte, the last wins. -/
theorem sByte_storeLanes (l : List (Nat × Nat × Nat)) (c : Core) (a : Nat) : (l.foldl storeLane c).sByte a =
    match l.reverse.find? fun x => x.1 ≤ a && a < x.1 + x.2.1 with
    | some x => BitVec.ofNat 8 (x.2.2 / 2 ^ (8 * (a - x.1)))
    | none => c.sByte a := by
  induction l generalizing c with
  | nil => rfl
  | cons x l ih =>
    rw [List.foldl_cons, ih, List.reverse_cons, List.find?_append]
    cases l.reverse.find? fun x => x.1 ≤ a && a < x.1 + x.2.1 with
    | some y => rfl
    | none =>
      simp only [Option.none_or, List.find?_cons, List.find?_nil, storeLane, sByte_sPuts_natLe]
      by_cases inside : x.1 ≤ a ∧ a < x.1 + x.2.1
      · simp [inside]
      · rw [if_neg inside]
        have : (decide (x.1 ≤ a) && decide (a < x.1 + x.2.1)) = false := by simpa [Bool.and_eq_false_iff] using inside
        rw [this]

theorem sPuts_full (l : List Byte) (c : Core) (a : Nat) : (c.sPuts a l).full = c.full := by
  induction l generalizing c a with
  | nil => rfl
  | cons v l ih => exact ih (c.sPut a v) (a + 1)

theorem storeLanes_full (l : List (Nat × Nat × Nat)) (c : Core) : (l.foldl storeLane c).full = c.full := by
  induction l generalizing c with
  | nil => rfl
  | cons x l ih => exact (ih _).trans (sPuts_full _ c _)

/-! ### Granules -/

theorem setFull_true (c : Core) (l : List Nat) (g : Nat) : (c.setFull true l).full.getD g false = true ↔ c.full.getD g false = true ∨ g ∈ l := by
  unfold Core.setFull
  dsimp only
  generalize c.full = t
  induction l generalizing t with
  | nil => simp
  | cons k l ih =>
    rw [List.foldl_cons, ih, if_pos rfl, Tbl.getD_set, List.mem_cons]
    by_cases same : k = g
    · simp [same]
    · simp [same, Ne.symm same]

theorem setFull_false (c : Core) (l : List Nat) (g : Nat) : (c.setFull false l).full.getD g false = true ↔ c.full.getD g false = true ∧ g ∉ l := by
  unfold Core.setFull
  dsimp only
  generalize c.full = t
  induction l generalizing t with
  | nil => simp
  | cons k l ih =>
    rw [List.foldl_cons, ih, if_neg (by decide), Tbl.getD, Tbl.get?_erase, List.mem_cons]
    by_cases same : k = g
    · simp [same]
    · simp [same, Ne.symm same, Tbl.getD]

theorem mem_granulesOf {l : List (Nat × Nat)} {g : Nat} : g ∈ granulesOf l ↔ ∃ x ∈ l, 0 < x.2 ∧ x.1 / 16 ≤ g ∧ g ≤ (x.1 + x.2 - 1) / 16 := by
  unfold granulesOf
  rw [List.mem_eraseDups, List.mem_flatMap]
  refine exists_congr fun x => and_congr_right fun _ => ?_
  unfold granules
  by_cases empty : x.2 = 0
  · simp [empty]
  · rw [if_neg empty, mem_range]
    omega

end Sys2Proof.Laws
end

section
/-!
SUPPORT. The effects of the scratchpad stores, and of FESET and FECLR (spec/07 R192, R194, R195).
-/
namespace Sys2Proof.Laws

open Sys2Proof Sys2Proof.Machine

theorem charge_core (s : State) (e : Env) (k c : Nat) : (s.charge e k).core c = s.core c := by
  unfold State.charge
  split <;> rfl

/-- A core once lanes have been stored, with .fill their granules too. -/
def storedCore (l : List (Nat × Nat × Nat)) (fill : Prop) [Decidable fill] (c : Core) : Core :=
  if fill then (l.foldl storeLane c).setFull true (granulesOf (l.map fun x => (x.1, x.2.1))) else l.foldl storeLane c

/-- The effect of a store to the scratchpad: of the lanes at once, or, issued as torn, left to be performed part by part. -/
def scratchStores (q k : Nat) (l : List (Nat × Nat × Nat)) (e : Env) (s : State) : State :=
  (if s.torn && q == 0 then s.issueScratch e l else s.modCore e.core (storedCore l (q = 1))).charge e k

theorem stsEff_eq (w : IWord) (e : Env) (s : State) : ∃ k, stsEff w e s = scratchStores (bits w.ext.toNat 0 3) k
    ((e.memLanes 0x71 w).map fun i => ((s.region e.party).1 + e.scratchAddr w i, sizeBytes (bits w.ext.toNat 3 3), e.storeData w (bits w.ext.toNat 3 3) i)) e s := by
  refine ⟨bankCost (granulesOf ((ldsLanes 0x71 w e).map fun x => ((s.region e.party).1 + x.2, sizeBytes (bits w.ext.toNat 3 3)))), ?_⟩
  unfold stsEff scratchStores storedCore storeLane ldsLanes
  simp only [List.map_map, List.foldl_map, Function.comp_def]

theorem stsxEff_eq (w : IWord) (e : Env) (s : State) : ∃ k, stsxEff w e s = scratchStores (bits w.ext.toNat 0 3) k
    ((ldsxRows 0x73 w e).map fun x => ((s.region e.party).1 + x.2.2, 16, e.elem w .b128 false w.c x.1 x.2.1 0)) e s := by
  refine ⟨ldsxCost 0x73 w e (s.region e.party).1, ?_⟩
  unfold stsxEff scratchStores storedCore storeLane
  simp only [List.map_map, List.foldl_map, Function.comp_def]

theorem storedCore_sByte (l : List (Nat × Nat × Nat)) (fill : Prop) [Decidable fill] (c : Core) (a : Nat) :
    (storedCore l fill c).sByte a = (l.foldl storeLane c).sByte a := by
  unfold storedCore
  split <;> rfl

theorem storedCore_full (l : List (Nat × Nat × Nat)) (fill : Prop) [Decidable fill] (c : Core) (g : Nat) :
    (storedCore l fill c).full.getD g false = true ↔
      c.full.getD g false = true ∨ (fill ∧ ∃ x ∈ l.map fun x => (x.1, x.2.1), 0 < x.2 ∧ x.1 / 16 ≤ g ∧ g ≤ (x.1 + x.2 - 1) / 16) := by
  unfold storedCore
  split
  case isTrue on => rw [setFull_true, storeLanes_full, mem_granulesOf, and_iff_right on]
  case isFalse off => rw [storeLanes_full, or_iff_left fun h => off h.1]

/-- One core changes, and nothing outside the cores. -/
def coreFrame (e : Env) (s t : State) : Prop := sameOutside s t ∧ sameRegisters s t ∧ ∀ c, c ≠ e.core → t.core c = s.core c

theorem modCore_coreFrame (e : Env) (s : State) (f : Core → Core) : coreFrame e s (s.modCore e.core f) :=
  ⟨(Steered.modCore s e.core f).outside, (Steered.modCore s e.core f).registers, fun _ other => State.modCore_core_ne s f (Ne.symm other)⟩

theorem feEff_core (v : Bool) (w : IWord) (e : Env) (s : State) : (feEff v w e s).core e.core =
    (s.core e.core).setFull v (granulesOf ((feRange w e).map fun x => ((s.region e.party).1 + x.1, x.2))) := State.modCore_core s e.core _

section Stores

variable {q : Nat} (k : Nat) (l : List (Nat × Nat × Nat)) (e : Env) {s : State}

/-- A store whose lanes are written at once. -/
theorem scratchStores_whole (whole : s.torn = false ∨ q ≠ 0) : coreFrame e s (scratchStores q k l e s) ∧
    (scratchStores q k l e s).core e.core = storedCore l (q = 1) (s.core e.core) := by
  have now : (s.torn && q == 0) = false := by simpa [← Bool.not_eq_true, imp_iff_not_or] using whole
  unfold scratchStores
  rw [now, if_neg Bool.false_ne_true]
  obtain ⟨outside, registers, others⟩ := modCore_coreFrame e s (storedCore l (q = 1))
  have charged := Steered.charge (s.modCore e.core (storedCore l (q = 1))) e k
  refine ⟨⟨sameOutside_trans outside charged.outside, ?_, fun c other => by rw [charge_core, others c other]⟩, by rw [charge_core, State.modCore_core]⟩
  exact ((Steered.modCore s e.core _).trans charged).registers

theorem numbered_scratch (a : Access) (c : Nat) : ((numbered s a).core c).scratch = (s.core c).scratch := by
  unfold numbered
  split
  · by_cases own : a.core = c
    · rw [State.outstanding, ← own, State.modCore_core]
      rfl
    · rw [State.outstanding, State.modCore_core_ne _ _ own]
      rfl
  · rfl

theorem issueScratch_scratch (c : Nat) : ((s.issueScratch e l).core c).scratch = (s.core c).scratch := by
  by_cases none : l = []
  · rw [none]
    rfl
  · rw [issueScratch_eq s e none]
    exact numbered_scratch _ c

/-- A store issued as torn. -/
theorem scratchStores_torn (torn : s.torn = true) (plain : q = 0) :
    let t := scratchStores q k l e s
    t.mem = s.mem ∧ sameRegisters s t ∧ (∀ c a, (t.core c).sByte a = (s.core c).sByte a) ∧
    (l ≠ [] → ∃ x, t.accs = s.accs ++ [x] ∧ x.kind = .store ∧ x.scratch = true ∧ x.core = e.core ∧ x.party = some e.party ∧
      x.lanes.map (fun y => (y.addr, y.size, y.data)) = l) := by
  have left : (s.torn && q == 0) = true := by simp [torn, plain]
  have issued := issueScratch_undisturbed torn e l
  have charged := Steered.charge (s.issueScratch e l) e k
  dsimp only
  unfold scratchStores
  rw [left, if_pos rfl]
  refine ⟨(issued.trans charged.undisturbed).mem, (issued.trans charged.undisturbed).registers, fun c a => ?_, fun some => ?_⟩
  · rw [charge_core, Core.sByte, Core.sByte, issueScratch_scratch]
  · obtain ⟨-, -, -, accs, -⟩ := charged.outside
    refine ⟨listed s e (tornStore s e l), ?_, rfl, rfl, rfl, rfl, ?_⟩
    · rw [accs, issueScratch_eq s e some]
    · simp [listed, tornStore, Env.scratchAccess, Env.access, Function.comp_def]

/-- What a store to the scratchpad of the lanes `l` leaves in `t`. -/
def lanesStored (q : Nat) (l : List (Nat × Nat × Nat)) (e : Env) (s t : State) : Prop :=
  (s.torn = false ∨ q ≠ 0 → coreFrame e s t ∧
    (∀ a, (t.core e.core).sByte a = match l.reverse.find? fun x => x.1 ≤ a && a < x.1 + x.2.1 with
      | some x => BitVec.ofNat 8 (x.2.2 / 2 ^ (8 * (a - x.1)))
      | none => (s.core e.core).sByte a) ∧
    ∀ g, (t.core e.core).full.getD g false = true ↔ (s.core e.core).full.getD g false = true ∨
      (q = 1 ∧ ∃ x ∈ l.map fun x => (x.1, x.2.1), 0 < x.2 ∧ x.1 / 16 ≤ g ∧ g ≤ (x.1 + x.2 - 1) / 16)) ∧
  (s.torn = true → q = 0 → t.mem = s.mem ∧ sameRegisters s t ∧ (∀ c a, (t.core c).sByte a = (s.core c).sByte a) ∧
    (l ≠ [] → ∃ x, t.accs = s.accs ++ [x] ∧ x.kind = .store ∧ x.scratch = true ∧ x.core = e.core ∧ x.party = some e.party ∧
      x.lanes.map (fun y => (y.addr, y.size, y.data)) = l))

end Stores

theorem scratchStores_moves (q k : Nat) (l : List (Nat × Nat × Nat)) (e : Env) (s : State) : lanesStored q l e s (scratchStores q k l e s) := by
  refine ⟨fun whole => ?_, fun torn plain => scratchStores_torn k l e torn plain⟩
  obtain ⟨frame, core⟩ := scratchStores_whole k l e whole
  refine ⟨frame, fun a => ?_, fun g => ?_⟩
  · rw [core, storedCore_sByte, sByte_storeLanes]
  · rw [core, storedCore_full]

end Sys2Proof.Laws
end

section
/-!
SUPPORT. The results of LDS and LDSX (spec/07 R187, R188, R192, R194).
-/
namespace Sys2Proof.Laws

open Sys2Proof Sys2Proof.Machine

/-! ### Parts of a row -/

theorem testBit_gatherBits_mask (l : List (Nat × Nat × Nat)) (i : Nat) :
    (gatherBits l).2.testBit i = true ↔ ∃ x ∈ l, x.1 ≤ i ∧ i < x.1 + x.2.1 := by
  induction l with
  | nil => simp [gatherBits]
  | cons x r ih =>
    have field : ((2 ^ x.2.1 - 1) <<< x.1).testBit i = true ↔ x.1 ≤ i ∧ i < x.1 + x.2.1 := by
      simp only [Nat.testBit_shiftLeft, Nat.testBit_two_pow_sub_one, Bool.and_eq_true, decide_eq_true_eq]
      exact and_congr_right fun low => Nat.sub_lt_iff_lt_add' low
    rw [gatherBits, Nat.testBit_or, Bool.or_eq_true, ih, field, List.exists_mem_cons_iff, or_comm]

/-- Parts that lie in the row, of which no two different ones share a bit. -/
def apart (l : List (Nat × Nat × Nat)) : Prop :=
  (∀ x ∈ l, x.1 + x.2.1 ≤ 4096) ∧ ∀ x ∈ l, ∀ y ∈ l, ∀ i, x.1 ≤ i → i < x.1 + x.2.1 → y.1 ≤ i → i < y.1 + y.2.1 → x = y

/-- A result gathered from parts of a row holds them. -/
theorem partsHeld_gatherBits {f : InFlight} {l l' : List (Nat × Nat × Nat)} (same : ∀ x, x ∈ l' ↔ x ∈ l) (parts : apart l)
    (value : f.value = BitVec.ofNat 4096 (gatherBits l').1) (mask : f.bits = BitVec.ofNat 4096 (gatherBits l').2) : partsHeld f l := by
  obtain ⟨inRow, disjoint⟩ := parts
  constructor
  · intro x hx b hb
    have place : x.1 + b < 4096 := by have := inRow x hx; omega
    rw [value, mask, BitVec.getLsbD_ofNat, BitVec.getLsbD_ofNat, decide_eq_true place, Bool.true_and, Bool.true_and]
    refine ⟨(testBit_gatherBits_mask l' _).mpr ⟨x, (same x).mpr hx, by omega, by omega⟩, ?_⟩
    rw [Bool.eq_iff_iff, testBit_gatherBits]
    constructor
    · rintro ⟨y, hy, h1, h2, bit⟩
      obtain rfl := disjoint x hx y ((same y).mp hy) (x.1 + b) (by omega) (by omega) h1 h2
      rwa [Nat.add_sub_cancel_left] at bit
    · intro bit
      exact ⟨x, (same x).mpr hx, by omega, by omega, by rwa [Nat.add_sub_cancel_left]⟩
  · intro b hb held
    rw [mask, BitVec.getLsbD_ofNat, decide_eq_true hb, Bool.true_and, testBit_gatherBits_mask] at held
    obtain ⟨x, hx, inside⟩ := held
    exact ⟨x, (same x).mp hx, inside⟩

theorem memLanes_lt {e : Env} {op : Nat} {w : IWord} {i : Nat} (h : i ∈ e.memLanes op w) : i < if e.view.inSlot then 8 else 32 := by
  have lanes : e.lanes = if e.view.inSlot then 8 else 32 := rfl
  unfold Env.memLanes at h
  split at h
  · rw [Env.lanesOn, List.mem_filter, List.mem_range, lanes] at h
    exact h.1
  · split at h
    · obtain rfl := List.mem_singleton.mp h
      split <;> decide
    · cases h

/-- The parts of different lanes of an access lie apart in the row, and so in any list of one part for each lane. -/
theorem apart_lanes {e : Env} {op : Nat} {w : IWord} {word : Bool} {k width : Nat} (v : Nat → Nat) (hk : k < 4)
    (fits : (if e.view.inSlot then 0 else if word then 32 * k else 0) + width ≤ 128) :
    apart ((e.memLanes op w).map fun i => (e.unitOff word k i, width, v i)) := by
  have off (i : Nat) : e.unitOff word k i = 128 * (if e.view.inSlot then 8 * k + i else i) + if e.view.inSlot then 0 else if word then 32 * k else 0 := by
    unfold Env.unitOff
    split
    · rfl
    · split <;> rfl
  generalize (if word then 32 * k else 0) = start at fits off
  constructor
  · intro x hx
    obtain ⟨i, hi, rfl⟩ := List.mem_map.mp hx
    have lane := memLanes_lt hi
    dsimp only
    rw [off]
    cases slot : e.view.inSlot <;> simp only [slot, if_true, if_false, Bool.false_eq_true] at * <;> omega
  · intro x hx y hy b h1 h2 h3 h4
    obtain ⟨i, -, rfl⟩ := List.mem_map.mp hx
    obtain ⟨j, -, rfl⟩ := List.mem_map.mp hy
    dsimp only at h1 h2 h3 h4
    rw [off] at h1 h2 h3 h4
    have same : i = j := by cases slot : e.view.inSlot <;> simp only [slot, if_true, if_false, Bool.false_eq_true] at * <;> omega
    rw [same]

/-! ### What a load sends -/

theorem charge_inflight (s : State) (e : Env) (k key : Nat) : ((s.charge e k).warp key).inflight = (s.warp key).inflight := by
  unfold State.charge
  split
  · rfl
  · refine (State.modWarp_keeps _ _ _ _ Warp.inflight fun w => ?_).trans (congrArg Warp.inflight (State.modGroup_warp _ _ _ _))
    dsimp only
    split <;> rfl

/-- The results of a load, marked with what they were read from. -/
theorem sent_marked {e : Env} (hp : ∀ c, e.party ≠ .seq c) {s : State} {x : Warp} (hx : s.warps.get? e.key = some x) (lat k : Nat) (l : List Res)
    (reads : Nat → List ScratchRead) :
    ((((s.send e lat l).markRead e (s.warp e.key).inflight.length reads).charge e k).warp e.key).inflight =
      x.inflight ++ l.mapIdx fun i r => { r.inFlight (e.dueBase + lat) with reads := reads i, born := x.committed } := by
  have sent := send_warp hp hx lat l
  rw [charge_inflight, State.markRead, modWarp_of_get? sent, State.setWarp_warp, State.warp_of_get? hx]
  dsimp only [sentWarp]
  rw [List.take_left', List.drop_left', List.mapIdx_eq_zipIdx_map, List.mapIdx_eq_zipIdx_map, List.zipIdx_map, List.map_map]
  · rfl
  · rfl
  · rfl

/-- The value of a load for a lane, extended to a width. -/
def ldsValue (w : IWord) (e : Env) (s : State) (width i : Nat) : Nat :=
  loadBits (sizeSigned (bits w.ext.toNat 3 3)) (sizeBytes (bits w.ext.toNat 3 3)) width
    ((s.core e.core).sNat ((s.region e.party).1 + e.scratchAddr w i) (sizeBytes (bits w.ext.toNat 3 3)))

/-- The rows of one register of a pair or quad. -/
theorem mem_ldsxRows {w : IWord} {e : Env} {op q : Nat} (hq : q < ldsxCount w) {y : Nat × Nat × Nat} :
    y ∈ (ldsxRows op w e).filter (fun x => x.1 = q) ↔
      ∃ t ∈ e.memLanes op w, (q, t, roundDown (e.uniformAddr w) 16 + (if e.view.inSlot then 128 else 512) * q + 16 * t) = y := by
  unfold ldsxRows
  simp only [List.mem_filter, List.mem_flatMap, List.mem_range, List.mem_map, decide_eq_true_eq]
  constructor
  · rintro ⟨⟨p, -, t, ht, rfl⟩, rfl⟩
    exact ⟨t, ht, rfl⟩
  · rintro ⟨t, ht, rfl⟩
    exact ⟨⟨q, hq, t, ht, rfl⟩, rfl⟩

/-- The parts of register `i` of an LDSX. -/
def ldsxParts (w : IWord) (e : Env) (s : State) (c : Fin 4) (i : Nat) : List (Nat × Nat × Nat) :=
  ((ldsxRows 0x72 w e).filter fun x => x.1 = i).map fun x => (e.unitOff false c.val x.2.1, 128, (s.core e.core).sNat ((s.region e.party).1 + x.2.2) 16)

/-- The result that an LDSX sends for register `i`. -/
def ldsxRes (w : IWord) (e : Env) (s : State) (c : Fin 4) (n : Fin 64) (i : Nat) : Res :=
  { reg := .v (physRow e.w.vrot (n.val + i)) (if e.view.inSlot then 2 ^ c.val else 15), spec := specAt w.d i, value := (gatherBits (ldsxParts w e s c i)).1,
    mask := (gatherBits (ldsxParts w e s c i)).2 }

section Load

variable {w : IWord} {e : Env} {s : State} {x : Warp} (hp : ∀ c, e.party ≠ .seq c) (hx : s.warps.get? e.key = some x) (plain : bits w.ext.toNat 0 3 = 0)

include hp hx plain

/-- A plain LDS adds its result, read at once, to what is in flight. -/
theorem ldsEff_inflight : ∃ (due : Nat) (reads : Nat → List ScratchRead), ((ldsEff w e s).warp e.key).inflight = x.inflight ++
    (loadRes e w (bits w.ext.toNat 3 3) ((e.memLanes 0x70 w).map fun i => (i, ldsValue w e s (loadWidth w (bits w.ext.toNat 3 3)) i))).mapIdx
      fun i r => { r.inFlight due with reads := reads i, born := x.committed } := by
  have effect : ∃ lat k reads, ldsEff w e s = ((s.send e lat (loadRes e w (bits w.ext.toNat 3 3) ((e.memLanes 0x70 w).map fun i =>
      (i, ldsValue w e s (loadWidth w (bits w.ext.toNat 3 3)) i)))).markRead e (s.warp e.key).inflight.length reads).charge e k := by
    unfold ldsEff ldsValue ldsLanes
    simp only [if_pos plain, List.map_map, Function.comp_def]
    exact ⟨_, _, _, rfl⟩
  obtain ⟨lat, k, reads, effect⟩ := effect
  rw [effect]
  exact ⟨_, reads, sent_marked hp hx lat k _ reads⟩

theorem ldsEff_row {k : Fin 4} {n : Fin 64} (hd : w.d = .vec k n) (fits : e.view.inSlot = true ∨ 32 * k.val + sizeRow (bits w.ext.toNat 3 3) ≤ 128) :
    ∃ f, ((ldsEff w e s).warp e.key).inflight = x.inflight ++ [f] ∧ f.reg = .v (physRow e.w.vrot n.val) (dstWords e k.val (bits w.ext.toNat 3 3)) ∧
      partsHeld f ((e.memLanes 0x70 w).map fun i =>
        (e.unitOff true k.val i, sizeRow (bits w.ext.toNat 3 3), ldsValue w e s (sizeRow (bits w.ext.toNat 3 3)) i)) := by
  obtain ⟨due, reads, sent⟩ := ldsEff_inflight hp hx plain
  have width : loadWidth w (bits w.ext.toNat 3 3) = sizeRow (bits w.ext.toNat 3 3) := by rw [loadWidth, hd]
  have row : sizeRow (bits w.ext.toNat 3 3) ≤ 128 := by
    unfold sizeRow
    split
    · decide
    · split <;> decide
  rw [width] at sent
  simp only [loadRes, hd, List.mapIdx_cons, List.mapIdx_nil, List.map_map] at sent
  refine ⟨_, sent, rfl, partsHeld_gatherBits (fun _ => Iff.rfl) (apart_lanes _ k.isLt ?_) rfl rfl⟩
  rcases fits with slot | fits
  · rw [if_pos slot, Nat.zero_add]
    exact row
  · rw [if_pos rfl]
    split <;> omega

theorem ldsEff_sreg {n : Fin 64} {i : Nat} (hd : w.d = .sreg n) (named : n.val ≠ 0) (one : e.memLanes 0x70 w = [i]) :
    ∃ f, ((ldsEff w e s).warp e.key).inflight = x.inflight ++ [f] ∧ f.reg = .s n.val ∧ f.value = BitVec.ofNat 4096 (ldsValue w e s 64 i) ∧
      f.bits = BitVec.ofNat 4096 (2 ^ 64 - 1) := by
  obtain ⟨due, reads, sent⟩ := ldsEff_inflight hp hx plain
  have width : loadWidth w (bits w.ext.toNat 3 3) = 64 := by rw [loadWidth, hd]
  rw [width] at sent
  simp only [loadRes, hd, if_neg named, one, List.map_cons, List.map_nil, List.headD_cons, List.isEmpty_cons, Bool.false_eq_true, if_false,
    List.mapIdx_cons, List.mapIdx_nil] at sent
  exact ⟨_, sent, rfl, rfl, rfl⟩

/-- A plain LDSX adds one result for each register to what is in flight. -/
theorem ldsxEff_rows {c : Fin 4} {n : Fin 64} (hd : w.d = .vec c n) : ∃ l, ((ldsxEff w e s).warp e.key).inflight = x.inflight ++ l ∧
    l.length = ldsxCount w ∧ ∀ q f, l[q]? = some f → f.reg = .v (physRow e.w.vrot (n.val + q)) (if e.view.inSlot then 2 ^ c.val else 15) ∧
      partsHeld f ((e.memLanes 0x72 w).map fun i => (e.unitOff false c.val i, 128, (s.core e.core).sNat
        ((s.region e.party).1 + (roundDown (e.uniformAddr w) 16 + (if e.view.inSlot then 128 else 512) * q + 16 * i)) 16)) := by
  have effect : ∃ lat k reads, ldsxEff w e s = ((s.send e lat ((List.range (ldsxCount w)).map (ldsxRes w e s c n))).markRead e
      (s.warp e.key).inflight.length reads).charge e k := by
    unfold ldsxEff ldsxRes
    simp only [hd, if_pos plain]
    exact ⟨_, _, _, rfl⟩
  obtain ⟨lat, k, reads, effect⟩ := effect
  rw [effect, sent_marked hp hx lat k _ reads]
  refine ⟨_, rfl, by rw [List.length_mapIdx, List.length_map, List.length_range], fun q f found => ?_⟩
  obtain ⟨r, hr, rfl⟩ := Option.map_eq_some_iff.mp (List.getElem?_mapIdx ▸ found)
  obtain ⟨i, hi, rfl⟩ := Option.map_eq_some_iff.mp (List.getElem?_map ▸ hr)
  obtain ⟨hq, hqi⟩ := List.getElem?_eq_some_iff.mp hi
  rw [List.getElem_range] at hqi
  subst hqi
  rw [List.length_range] at hq
  refine ⟨rfl, partsHeld_gatherBits (fun y => ?_) (apart_lanes _ c.isLt ?_) rfl rfl⟩
  · simp only [ldsxParts, List.mem_map, mem_ldsxRows hq]
    exact ⟨fun ⟨z, ⟨t, ht, hz⟩, hy⟩ => ⟨t, ht, by rw [← hy, ← hz]⟩, fun ⟨t, ht, hy⟩ => ⟨_, ⟨t, ht, rfl⟩, hy⟩⟩
  · simp only [Bool.false_eq_true, if_false, ite_self, Nat.zero_add, le_refl]

end Load

/-! ### Extension -/

theorem loadBits_signed {n v : Nat} (hn : 0 < n) (hv : v < 2 ^ (8 * n)) (width : Nat) :
    loadBits true n width v = ((BitVec.ofNat (8 * n) v).signExtend width).toNat := by
  have value : (BitVec.ofNat (8 * n) v).toNat = v := by rw [BitVec.toNat_ofNat, Nat.mod_eq_of_lt hv]
  rw [loadBits, if_pos rfl, wrap_eq_ofInt]
  conv => lhs; rw [← value]
  rw [sInt_toNat (by omega)]
  rfl

theorem loadBits_unsigned {n width v : Nat} (fits : 8 * n ≤ width) (hv : v < 2 ^ (8 * n)) : loadBits false n width v = v :=
  Nat.mod_eq_of_lt (hv.trans_le (Nat.pow_le_pow_right (by decide) fits))

/-- Settles O38: a store is the fold of its lanes' stores over the core's store, or one torn access; a plain load sends what it gathers. -/
theorem scratchpadFormsMoveTheirBytes : Obligations.ScratchpadFormsMoveTheirBytes := by
  have kind (w : IWord) : w.ext.toNat % 8 = bits w.ext.toNat 0 3 := (Nat.div_one _ ▸ (bits_eq w.ext.toNat 0 3).symm :)
  have size (w : IWord) : w.ext.toNat / 8 % 8 = bits w.ext.toNat 3 3 := (bits_eq _ 3 3).symm
  have count (w : IWord) : w.ext.toNat / 16 % 4 = bits w.ext.toNat 4 2 := (bits_eq _ 4 2).symm
  refine ⟨fun w e s => ?sts, fun w e s => ?stsx, fun w e s => ?feset, fun w e s => ?feclr, fun w e s x hp hx plain => ?lds,
    fun w e s x c n hp hx plain hd => ?ldsx, fun n width v hn fits hv => ⟨loadBits_signed hn hv width, loadBits_unsigned fits hv⟩⟩
  case sts =>
    obtain ⟨k, effect⟩ := stsEff_eq w e s
    rw [effect, size, kind]
    exact scratchStores_moves _ k _ e s
  case stsx =>
    obtain ⟨k, effect⟩ := stsxEff_eq w e s
    rw [effect, count, kind]
    have lanes : (ldsxRows 0x73 w e).map (fun x => ((s.region e.party).1 + x.2.2, 16, e.elem w .b128 false w.c x.1 x.2.1 0)) =
        (List.range (ldsxCount w)).flatMap fun q => ((e.memLanes 0x73 w).map fun i =>
          (i, roundDown (e.uniformAddr w) 16 + (if e.view.inSlot then 128 else 512) * q + 16 * i)).map fun x =>
            ((s.region e.party).1 + x.2, 16, e.elem w .b128 false w.c q x.1 0) := by
      simp only [ldsxRows, List.map_flatMap, List.map_map, Function.comp_def]
    rw [lanes]
    exact scratchStores_moves _ k _ e s
  case feset =>
    refine ⟨modCore_coreFrame e s _, fun a => ?_, fun g => ?_⟩
    · rw [feEff_core]
      rfl
    · rw [feEff_core, setFull_true, mem_granulesOf]
  case feclr =>
    refine ⟨modCore_coreFrame e s _, fun a => ?_, fun g => ?_⟩
    · rw [feEff_core]
      rfl
    · rw [feEff_core, setFull_false, mem_granulesOf]
  case lds =>
    rw [kind] at plain
    dsimp only
    rw [size]
    exact ⟨fun k n hd fits => ldsEff_row hp hx plain hd fits, fun n i hd named one => ldsEff_sreg hp hx plain hd named one⟩
  case ldsx =>
    rw [kind] at plain
    rw [count]
    obtain ⟨l, sent, length, each⟩ := ldsxEff_rows hp hx plain hd
    refine ⟨l, sent, length, fun q f found => ?_⟩
    obtain ⟨reg, parts⟩ := each q f found
    rw [List.map_map]
    exact ⟨reg, parts⟩

end Sys2Proof.Laws
end

section
/-!
SUPPORT. The bytes of memory after a store and after an atomic action (spec/07 R187, R196, R199).
-/
namespace Sys2Proof.Laws

open Sys2Proof Sys2Proof.Machine

/-! ### Bytes stored at a list of addresses -/

/-- Of the values stored at one address, the last stays. -/
theorem memGet_storeBytes (s : State) (core : Option Nat) (pas : List Nat) (vs : List Byte) (b : Nat) :
    memGet (s.storeBytes core pas vs).mem b = match (pas.zip vs).reverse.find? fun x => x.1 == b with
      | some x => x.2
      | none => memGet s.mem b := by
  induction pas generalizing s vs with
  | nil => rfl
  | cons pa pas ih =>
    cases vs with
    | nil => rfl
    | cons v vs =>
      rw [State.storeBytes, ih, List.zip_cons_cons, List.reverse_cons, List.find?_append]
      cases (pas.zip vs).reverse.find? fun x => x.1 == b with
      | some y => rfl
      | none =>
        simp only [Option.none_or, List.find?_cons, List.find?_nil, storeByte_mem, memGet_memPut]
        by_cases same : pa = b
        · simp [same]
        · simp [show (pa == b) = false by simpa using same, Ne.symm same]

/-- A change of memory alone among what programs see: the warps, the accesses and the logs stay. -/
structure WritesOnly (s t : State) : Prop where
  warps : t.warps = s.warps
  accs : t.accs = s.accs
  parts : t.parts = s.parts

namespace WritesOnly

theorem refl (s : State) : WritesOnly s s := ⟨rfl, rfl, rfl⟩

theorem trans {s t u : State} (h : WritesOnly s t) (k : WritesOnly t u) : WritesOnly s u :=
  ⟨k.warps.trans h.warps, k.accs.trans h.accs, k.parts.trans h.parts⟩

theorem storeByte (s : State) (core : Option Nat) (pa : Nat) (v : Byte) : WritesOnly s (s.storeByte core pa v) := by
  cases core <;> exact ⟨rfl, rfl, rfl⟩

theorem storeBytes (s : State) (core : Option Nat) (pas : List Nat) (vs : List Byte) : WritesOnly s (s.storeBytes core pas vs) := by
  induction pas generalizing s vs with
  | nil => exact refl s
  | cons pa pas ih =>
    cases vs with
    | nil => exact refl s
    | cons v vs => exact (storeByte s core pa v).trans (ih _ vs)

end WritesOnly

/-! ### A store's lanes -/

/-- What a lane of a store writes: nothing at a peer, else its bytes but those written already. -/
def laneStored (a : Access) (l : LaneAcc) (s : State) : State :=
  if a.peerLane l then s
  else if a.done.isEmpty then s.storeBytes (some a.core) (pasVia a.pages l.bytes) (natLe l.size l.data)
  else s.storeBytes (some a.core) (pasVia a.pages (((l.bytes.zip (natLe l.size l.data)).filter fun y => !a.written.contains y.1).map (·.1)))
    (((l.bytes.zip (natLe l.size l.data)).filter fun y => !a.written.contains y.1).map (·.2))

theorem storeLanes_cons (a : Access) (l : LaneAcc) (r : List LaneAcc) (s : State) : storeLanes a (l :: r) s = storeLanes a r (laneStored a l s) := rfl

theorem storeLanes_append (a : Access) (l r : List LaneAcc) (s : State) : storeLanes a (l ++ r) s = storeLanes a r (storeLanes a l s) := by
  induction l generalizing s with
  | nil => rfl
  | cons x l ih => exact ih (laneStored a x s)

theorem laneStored_writesOnly (a : Access) (l : LaneAcc) (s : State) : WritesOnly s (laneStored a l s) := by
  unfold laneStored
  split
  · exact .refl s
  · split <;> exact .storeBytes s _ _ _

theorem storeLanes_writesOnly (a : Access) (l : List LaneAcc) (s : State) : WritesOnly s (storeLanes a l s) := by
  induction l generalizing s with
  | nil => exact .refl s
  | cons x l ih => exact (laneStored_writesOnly a x s).trans (ih _)

theorem laneStored_other {a : Access} {l : LaneAcc} {b : Nat} (h : b ∉ pasVia a.pages l.bytes) (s : State) :
    memGet (laneStored a l s).mem b = memGet s.mem b := by
  unfold laneStored
  split
  · rfl
  · split
    · exact storeBytes_other _ _ h
    · refine storeBytes_other _ _ fun found => h ?_
      obtain ⟨va, hva, rfl⟩ := List.mem_map.mp found
      obtain ⟨y, hy, rfl⟩ := List.mem_map.mp hva
      exact List.mem_map_of_mem (List.of_mem_zip (List.mem_filter.mp hy).1).1

theorem storeLanes_other {a : Access} {l : List LaneAcc} {b : Nat} (h : ∀ x ∈ l, b ∉ pasVia a.pages x.bytes) (s : State) :
    memGet (storeLanes a l s).mem b = memGet s.mem b := by
  induction l generalizing s with
  | nil => rfl
  | cons x l ih =>
    rw [storeLanes_cons, ih fun y hy => h y (List.mem_cons_of_mem _ hy), laneStored_other (h x List.mem_cons_self)]

/-- A value stays at its address when no later one is stored there. -/
theorem memGet_storeBytes_last {α : Type} {f : α → Nat} {g : α → Byte} (core : Option Nat) (pre : List α) {y : α} {post : List α}
    (h : ∀ z ∈ post, f z ≠ f y) (s : State) :
    memGet (s.storeBytes core ((pre ++ y :: post).map f) ((pre ++ y :: post).map g)).mem (f y) = g y := by
  induction pre generalizing s with
  | nil =>
    rw [List.nil_append, List.map_cons, List.map_cons, State.storeBytes, storeBytes_other, storeByte_mem, memGet_memPut, if_pos rfl]
    intro found
    obtain ⟨z, hz, same⟩ := List.mem_map.mp found
    exact h z hz same
  | cons x pre ih => exact ih (s.storeByte core (f x) (g x))

theorem natLe_eq_map (n v : Nat) : natLe n v = (List.range n).map fun i => BitVec.ofNat 8 (v / 2 ^ (8 * i)) := by
  refine List.ext_getElem? fun i => ?_
  rw [natLe_getElem?, List.getElem?_map]
  by_cases h : i < n
  · simp [h]
  · simp [h]

/-- The bytes of a lane with the bytes of its data. -/
theorem laneBytes_zip (l : LaneAcc) : l.bytes.zip (natLe l.size l.data) =
    (List.range l.size).map fun i => ((l.addr + i) % 2 ^ 57, BitVec.ofNat 8 (l.data / 2 ^ (8 * i))) := by
  rw [LaneAcc.bytes, natLe_eq_map, List.zip_map']

theorem laneStored_byte {a : Access} {l : LaneAcc} {i : Nat} (here : a.peerLane l = false) (hi : i < l.size)
    (left : (l.addr + i) % 2 ^ 57 ∉ a.written)
    (last : ∀ j, i < j → j < l.size → paVia a.pages ((l.addr + j) % 2 ^ 57) ≠ paVia a.pages ((l.addr + i) % 2 ^ 57)) (s : State) :
    memGet (laneStored a l s).mem (paVia a.pages ((l.addr + i) % 2 ^ 57)) = BitVec.ofNat 8 (l.data / 2 ^ (8 * i)) := by
  obtain ⟨later, split⟩ := range_eq_append_cons hi
  have beyond : ∀ j ∈ later, i < j ∧ j < l.size := fun j hj => by
    have sorted : (List.range l.size).Pairwise (· < ·) := List.pairwise_lt_range
    rw [split, List.pairwise_append, List.pairwise_cons] at sorted
    exact ⟨sorted.2.1.1 j hj, List.mem_range.mp (split ▸ List.mem_append_right _ (List.mem_cons_of_mem _ hj))⟩
  unfold laneStored
  rw [if_neg (by rw [here]; exact Bool.false_ne_true), laneBytes_zip]
  split
  case isTrue fresh =>
    rw [pasVia, LaneAcc.bytes, natLe_eq_map, List.map_map, split]
    exact memGet_storeBytes_last (f := fun i => paVia a.pages ((l.addr + i) % 2 ^ 57)) (g := fun i => BitVec.ofNat 8 (l.data / 2 ^ (8 * i))) _ _
      (fun j hj => last j (beyond j hj).1 (beyond j hj).2) s
  case isFalse =>
    rw [pasVia, List.map_map, List.filter_map, List.map_map, List.map_map, split, List.filter_append, List.filter_cons, if_pos (by simpa using left)]
    exact memGet_storeBytes_last (f := fun i => paVia a.pages ((l.addr + i) % 2 ^ 57)) (g := fun i => BitVec.ofNat 8 (l.data / 2 ^ (8 * i))) _ _
      (fun j hj => last j (beyond j (List.mem_filter.mp hj).1).1 (beyond j (List.mem_filter.mp hj).1).2) s

/-! ### An atomic action's lanes -/

/-- The old value of a lane of an atomic in memory. -/
def laneOld (a : Access) (l : LaneAcc) (s : State) : Nat := memNat s ((pasVia a.pages l.bytes).headD 0) l.size

section Atomic

variable {a : Access} (isGlobal : a.scratch = false)

include isGlobal

theorem actLane_global (l : LaneAcc) (s : State) : s.actLane a l =
    (s.storeBytes (some a.core) (pasVia a.pages l.bytes) (natLe l.size (actNew a.kind (laneOld a l s) l.data l.data2).1), laneOld a l s,
      (actNew a.kind (laneOld a l s) l.data l.data2).2) := by
  unfold State.actLane laneOld
  simp only [isGlobal, Bool.false_eq_true, if_false]

theorem actLanes_other {b : Nat} {l : List LaneAcc} (h : ∀ x ∈ l, b ∉ pasVia a.pages x.bytes) (n : Nat) (s : State) :
    memGet (actLanes a n l s).1.mem b = memGet s.mem b := by
  induction l generalizing n s with
  | nil => rfl
  | cons x l ih =>
    have rest (n : Nat) (t : State) := ih (fun y hy => h y (List.mem_cons_of_mem _ hy)) n t
    have own : memGet (s.actLane a x).1.mem b = memGet s.mem b := by
      rw [actLane_global isGlobal]
      exact storeBytes_other _ _ (h x List.mem_cons_self)
    unfold actLanes
    split
    · exact rest _ _
    · dsimp only
      split
      · exact rest _ _
      · exact (rest _ _).trans own

/-- An atomic of one lane at home. -/
theorem actLanes_one {l : LaneAcc} {pa : Nat} (whole : a.done = []) (hs : l.size = 4 ∨ l.size = 8)
    (pages : pasVia a.pages l.bytes = (List.range l.size).map (pa + ·)) (home : ∀ x ∈ pasVia a.pages l.bytes, isPeer x = false) (s : State) :
    (actLanes a 0 [l] s).2.1 = [(l, memNat s pa l.size)] ∧
      memNat (actLanes a 0 [l] s).1 pa l.size = (actNew a.kind (memNat s pa l.size) l.data l.data2).1 % 2 ^ (8 * l.size) := by
  have here : a.peerLane l = false := by
    rw [Access.peerLane, Bool.and_eq_false_iff, List.any_eq_false]
    exact .inr fun x hx => by rw [home x hx]; exact Bool.false_ne_true
  have old : laneOld a l s = memNat s pa l.size := by
    rw [laneOld, pages]
    rcases hs with h | h <;> rw [h] <;> rfl
  have acts : actLanes a 0 [l] s = (s.storeBytes (some a.core) ((List.range l.size).map (pa + ·))
      (natLe l.size (actNew a.kind (memNat s pa l.size) l.data l.data2).1), [(l, memNat s pa l.size)],
      (actNew a.kind (memNat s pa l.size) l.data l.data2).2 ||| 0) := by
    unfold actLanes
    rw [if_neg (by rw [here]; exact Bool.false_ne_true), whole]
    simp only [List.find?_nil, actLane_global isGlobal, old, pages]
    rfl
  rw [acts]
  refine ⟨rfl, ?_⟩
  dsimp only
  rw [memNat, memRead_eq, ← leNat_natLe]
  congr 1
  refine List.ext_getElem? fun i => ?_
  rw [List.getElem?_map]
  by_cases inside : i < l.size
  · rw [List.getElem?_range inside, Option.map_some, storeBytes_get _ _ _ (length_natLe _ _).symm inside, List.getD_eq_getElem?_getD, natLe_getElem?, if_pos inside]
    rfl
  · rw [List.getElem?_eq_none (by simpa using inside), List.getElem?_eq_none (by simpa using inside)]
    rfl

end Atomic

end Sys2Proof.Laws
end

section
/-!
SUPPORT. What a load that sees memory reads, through L1 or past it (spec/07 R187; spec/10 R280; spec/11 R301, R302).
-/
namespace Sys2Proof.Laws

open Sys2Proof Sys2Proof.Machine

/-! ### Steps that read -/

/-- The registers of a warp. -/
def regsOf (w : Warp) : Tbl (BitVec 4096) × Tbl Word64 × Tbl MaskBits := (w.v, w.s, w.m)

/-- Memory, the partitions and every register stay. -/
structure ReadsOnly (s t : State) : Prop where
  mem : t.mem = s.mem
  parts : t.parts = s.parts
  regs : ∀ k, (t.warps.get? k).map regsOf = (s.warps.get? k).map regsOf

namespace ReadsOnly

theorem refl (s : State) : ReadsOnly s s := ⟨rfl, rfl, fun _ => rfl⟩

theorem trans {s t u : State} (h : ReadsOnly s t) (k : ReadsOnly t u) : ReadsOnly s u :=
  ⟨k.mem.trans h.mem, k.parts.trans h.parts, fun n => (k.regs n).trans (h.regs n)⟩

theorem ite {s t u : State} {p : Prop} [Decidable p] (h : ReadsOnly s t) (k : ReadsOnly s u) : ReadsOnly s (if p then t else u) := by
  split
  · exact h
  · exact k

theorem foldl {α : Type} {f : State → α → State} {P : State → Prop} (keeps : ∀ {s t}, ReadsOnly s t → P s → P t)
    (step : ∀ s x, P s → ReadsOnly s (f s x)) (l : List α) {s : State} (h : P s) : ReadsOnly s (l.foldl f s) := by
  induction l generalizing s with
  | nil => exact refl s
  | cons x l ih => exact (step s x h).trans (ih (keeps (step s x h) h))

theorem of_eq {s t : State} (mem : t.mem = s.mem) (parts : t.parts = s.parts) (warps : t.warps = s.warps) : ReadsOnly s t :=
  ⟨mem, parts, fun _ => by rw [warps]⟩

theorem modWarp (s : State) (k : Nat) {f : Warp → Warp} (keeps : ∀ x, regsOf (f x) = regsOf x) : ReadsOnly s (s.modWarp k f) :=
  ⟨rfl, rfl, fun n => by
    show ((s.warps.modify k f).get? n).map regsOf = _
    rw [Tbl.get?_modify]
    split
    · rename_i own
      subst own
      rw [Option.map_map]
      exact congrArg (fun g => (s.warps.get? k).map g) (funext keeps)
    · rfl⟩

theorem unlogged {s t : State} (h : ReadsOnly s t) (off : unlogged s) : unlogged t := fun p k => by
  rw [← off p k, logOn, logOn, State.part, State.part, h.parts]

end ReadsOnly

/-! ### L1 lines that are as their homes are -/

/-- Every line in the L1 of a core is as its home is. -/
def freshL1 (core : Nat) (s : State) : Prop := ∀ l x, (s.core core).l1.get? l = some x → x.data = homeLine s l

/-- A step that fetches: it only reads, what homes memory has stays, and an L1 that is as memory is stays so. -/
structure Fetches (core : Nat) (s t : State) : Prop extends ReadsOnly s t where
  homes : ∀ pa, homeOf t pa = homeOf s pa
  fresh : freshL1 core s → freshL1 core t

theorem homeLine_of_mem {s t : State} (h : t.mem = s.mem) (l : Nat) : homeLine t l = homeLine s l := by
  simp only [homeLine, memNat, h]

/-- No line of a core's L1 is new. -/
def l1Within (c d : Core) : Prop := ∀ l x, d.l1.get? l = some x → c.l1.get? l = some x

theorem l1Within_trans {c d e : Core} (h : l1Within c d) (k : l1Within d e) : l1Within c e := fun l x found => h l x (k l x found)

theorem l1Within_erase (c : Core) (n : Nat) : l1Within c { c with l1 := c.l1.erase n } := fun l x found => by
  rw [Tbl.get?_erase] at found
  split at found
  · cases found
  · exact found

theorem l1Within_dropTiles (c : Core) (line : Nat) : l1Within c (c.dropTiles line) := by
  unfold Core.dropTiles
  split <;> exact fun _ _ found => found

theorem l1Within_evict (c : Core) : l1Within c c.evict := by
  unfold Core.evict
  split
  · exact l1Within_erase c _
  · exact fun _ _ found => found

theorem l1Within_makeRoom (need fuel : Nat) (c : Core) : l1Within c (c.makeRoom need fuel) := by
  induction fuel generalizing c with
  | zero => exact fun _ _ found => found
  | succ fuel ih =>
    unfold Core.makeRoom
    split
    · exact fun _ _ found => found
    · exact l1Within_trans (l1Within_evict c) (ih _)

namespace Fetches

variable {core : Nat}

theorem refl (s : State) : Fetches core s s := ⟨.refl s, fun _ => rfl, id⟩

theorem trans {s t u : State} (h : Fetches core s t) (k : Fetches core t u) : Fetches core s u :=
  ⟨h.toReadsOnly.trans k.toReadsOnly, fun pa => (k.homes pa).trans (h.homes pa), k.fresh ∘ h.fresh⟩

theorem foldl {α : Type} {f : State → α → State} (step : ∀ s x, Fetches core s (f s x)) (l : List α) (s : State) : Fetches core s (l.foldl f s) := by
  induction l generalizing s with
  | nil => exact refl s
  | cons x l ih => exact (step s x).trans (ih _)

/-- A change of a core whose lines are old ones, or as their homes are. -/
theorem modCore (s : State) (c : Nat) {f : Core → Core} (lines : ∀ x l y, (f x).l1.get? l = some y → x.l1.get? l = some y ∨ y.data = homeLine s l) :
    Fetches core s (s.modCore c f) := by
  refine ⟨.of_eq rfl rfl rfl, fun _ => rfl, fun fresh l x found => ?_⟩
  rw [homeLine_of_mem (s := s) (t := s.modCore c f) rfl]
  by_cases own : c = core
  · subst own
    rw [State.modCore_core] at found
    rcases lines _ l x found with old | new
    · exact fresh l x old
    · exact new
  · rw [State.modCore_core_ne s f own] at found
    exact fresh l x found

theorem fill (s : State) (c line : Nat) (stream : Bool) : Fetches core s (s.fill c line stream) := by
  have numbered : Fetches core s { s with serial := s.serial + 1 } := ⟨.of_eq rfl rfl rfl, fun _ => rfl, id⟩
  unfold State.fill
  refine numbered.trans (modCore _ c fun x l y found => ?_)
  dsimp only at found
  rw [Tbl.get?_set] at found
  split at found
  case isTrue same =>
    subst same
    rw [← Option.some.inj found]
    exact .inr (homeLine_of_mem (s := s) rfl line).symm
  case isFalse =>
    have room : l1Within x (if (x.l1.get? line).isNone then x.makeRoom 1 1 else x) := by
      split
      · exact l1Within_makeRoom 1 1 x
      · exact fun _ _ found => found
    exact .inl (l1Within_trans room (l1Within_dropTiles _ line) l y found)

theorem fillFor (s : State) (c acquired cache line : Nat) : Fetches core s (s.fillFor c acquired cache line) := by
  unfold State.fillFor
  split
  · exact refl s
  · exact fill s c line _

theorem dropLines (s : State) (c : Nat) (pas : List Nat) : Fetches core s (s.dropLines c pas) := by
  unfold State.dropLines
  dsimp only
  split
  · exact refl s
  · refine modCore s c (f := fun x => ((pas.map (· / 64)).eraseDups).foldl (fun x l => (x.dropLine l).dropTiles l) x) fun x l y found => .inl ?_
    have within (lines : List Nat) (d : Core) : l1Within d (lines.foldl (fun x l => (x.dropLine l).dropTiles l) d) := by
      induction lines generalizing d with
      | nil => exact fun _ _ found => found
      | cons n lines ih => exact l1Within_trans (l1Within_trans (l1Within_erase d n) (l1Within_dropTiles _ n)) (ih _)
    exact within _ x l y found

end Fetches

/-! ### Bytes read -/

theorem bits_leNat (l : List Byte) (i : Nat) : bits (leNat l) (8 * i) 8 = (l.getD i 0).toNat := by
  rw [bits_eq]
  induction l generalizing i with
  | nil => simp [leNat]
  | cons b l ih =>
    have low : b.toNat < 256 := b.isLt
    cases i with
    | zero => simp only [leNat, Nat.mul_zero, pow_zero, Nat.div_one, List.getD_cons_zero]; omega
    | succ i =>
      rw [List.getD_cons_succ, ← ih, leNat, Nat.mul_succ, Nat.add_comm (8 * i), pow_add, ← Nat.div_div_eq_div_mul]
      congr 2
      omega

theorem vbits_ofNat {lo n m : Nat} (h : lo + n ≤ m) (x : Nat) : vbits (BitVec.ofNat m x) lo n = bits x lo n := by
  rw [vbits, BitVec.toNat_ofNat, bits_mod_two_pow h]

/-- A byte of a line at its home. -/
theorem homeLine_byte (s : State) (pa : Nat) : BitVec.ofNat 8 (vbits (homeLine s (pa / 64)) (8 * (pa % 64)) 8) = memGet s.mem pa := by
  have place : pa % 64 < 64 := Nat.mod_lt _ (by decide)
  have inside : 8 * (pa % 64) + 8 ≤ 512 := by omega
  rw [homeLine, vbits_ofNat inside, memNat, memRead_eq, bits_leNat, List.getD_eq_getElem?_getD, List.getElem?_map,
    List.getElem?_range place, Option.map_some, Option.getD_some, Nat.div_add_mod, BitVec.ofNat_toNat, BitVec.setWidth_eq]

theorem readByte_fresh {s : State} {core : Nat} (fresh : freshL1 core s) (l1 : Bool) (pa : Nat) : readByte s core l1 [] pa = memGet s.mem pa := by
  unfold readByte overlay
  rw [List.foldl_nil]
  split
  · split
    · rename_i x found
      rw [fresh _ x found, homeLine_byte]
    · rfl
  · rfl

theorem foldr_leNat {α : Type} (f : α → Byte) (l : List α) : l.foldr (fun x acc => (f x).toNat + 256 * acc) 0 = leNat (l.map f) := by
  induction l with
  | nil => rfl
  | cons x l ih => rw [List.foldr_cons, ih, List.map_cons, leNat]

/-- A load with nothing bound, and no store of its core before it, reads what memory holds. -/
theorem loadBytes_fresh {s : State} {v : View3} (fresh : freshL1 v.core s) (bound : v.bound = []) (puts : v.puts = []) (rc : BitVec 320) (l : List Nat) :
    Fetches v.core s (s.loadBytes v rc l).1 ∧ (s.loadBytes v rc l).2 = leNat (l.map fun va => memGet s.mem (paVia v.pages va)) := by
  have unbound (va : Nat) : v.bound? va = none := by simp [View3.bound?, bound]
  have fetched : Fetches v.core s (s.loadBytes v rc l).1 := by
    refine .foldl (fun s va => ?_) l s
    rw [unbound]
    refine (if_neg Bool.false_ne_true : (if (none : Option Byte).isSome = true then s else _) = _) ▸ ?_
    split
    · exact .fillFor s _ _ _ _
    · exact .dropLines s _ _
  refine ⟨fetched, ?_⟩
  have read : (s.loadBytes v rc l).2 = l.foldr (fun va acc => (readByte (s.loadBytes v rc l).1 v.core
      (v.keeps rc va && l1Usable ((s.loadBytes v rc l).1.core v.core) (paVia v.pages va / 64) v.acquired) v.puts (paVia v.pages va)).toNat + 256 * acc) 0 := by
    unfold State.loadBytes
    simp only [unbound]
  rw [read, puts, foldr_leNat]
  simp only [readByte_fresh (fetched.fresh fresh), fetched.mem]

/-! ### Lanes of a load -/

/-- An element of a plain record at its place in a lane's value. -/
def placed (v : View3) (m : List Host.Cell) (word : Bool) (i : Nat) (c : List Int) : Nat :=
  (if word then plainElem (bufRec v.record) m v.pages c % 2 ^ min 32 (bufRec v.record).ew else plainElem (bufRec v.record) m v.pages c) <<<
    ((bufRec v.record).ew * i)

/-- The value an LDB delivers to a lane from a plain record, by the coordinates of the lane. -/
def plainLane (v : View3) (m : List Host.Cell) (word : Bool) (c : List Int) : Nat := ((laneCoords (bufRec v.record) word c).mapIdx (placed v m word)).sum

/-- A sum over the places of a list is that of its elements with their places. -/
theorem sum_range_eq_sum_mapIdx {α : Type} (f : Nat → α → Nat) (l : List α) (d : α) :
    ((List.range l.length).map fun i => f i ((l[i]?).getD d)).sum = (l.mapIdx f).sum := by
  congr 1
  refine List.ext_getElem (by simp) fun i h _ => ?_
  have inside : i < l.length := by simpa using h
  simp [inside]

section Loads

variable {v : View3} (puts : v.puts = [])

include puts

theorem loadLaneBytes_fresh {s : State} (fresh : freshL1 v.core s) (bound : v.bound = []) {l : LaneAcc}
    (stored : ∀ va ∈ l.bytes, homeOf s (paVia v.pages va) ≠ .debug) :
    Fetches v.core s (s.loadLaneBytes v l).1 ∧ (s.loadLaneBytes v l).2 = leNat (l.bytes.map fun va => memGet s.mem (paVia v.pages va)) := by
  have unshown : (l.bytes.filter fun b => homeOf s (paVia v.pages b) == .debug) = [] :=
    List.filter_eq_nil_iff.mpr fun va hva => by simpa using stored va hva
  unfold State.loadLaneBytes
  rw [unshown, bound]
  exact loadBytes_fresh (v := { v with bound := [] }) fresh rfl puts 0 l.bytes

theorem loadLanes_fresh {a : Access} (whole : a.done = []) (signed : Bool) {lanes : List LaneAcc} (n : Nat) {s : State} (fresh : freshL1 v.core s)
    (stored : ∀ l ∈ lanes, ∀ va ∈ l.bytes, homeOf s (paVia v.pages va) ≠ .debug) :
    Fetches v.core s (loadLanes a v signed n lanes s).1 ∧ (loadLanes a v signed n lanes s).2 =
      lanes.map fun l => (l, loadBits signed l.size a.destBits (leNat (l.bytes.map fun va => memGet s.mem (paVia v.pages va)))) := by
  induction lanes generalizing n s with
  | nil => exact ⟨.refl s, rfl⟩
  | cons l lanes ih =>
    have unbound : a.boundAt n = [] := by rw [Access.boundAt, whole]; rfl
    obtain ⟨fetched, value⟩ := loadLaneBytes_fresh (v := { v with bound := a.boundAt n }) puts fresh unbound (stored l List.mem_cons_self)
    obtain ⟨rest, values⟩ := ih (n + 1) (fetched.fresh fresh) fun y hy va hva => by
      rw [fetched.homes]
      exact stored y (List.mem_cons_of_mem _ hy) va hva
    refine ⟨fetched.trans rest, ?_⟩
    rw [fetched.mem] at values
    rw [List.map_cons, ← values, ← value]
    rfl

/-- An element of a plain record is delivered as memory holds it, or as padding. -/
theorem loadElem_plain {s : State} (fresh : freshL1 v.core s) (bound : v.bound = []) (plain : (bufRec v.record).view = 0) (c : List Int) :
    Fetches v.core s (s.loadElem v (elemSrc (bufRec v.record) (bufRec v.scale) v.index c)).1 ∧
      (s.loadElem v (elemSrc (bufRec v.record) (bufRec v.scale) v.index c)).2.1 = plainElem (bufRec v.record) s.mem v.pages c := by
  have unscaled : (bufRec v.record).scaled v.index = false := by simp [BufRec.scaled, plain]
  have coords : (bufRec v.record).memCoord c = c := by simp [BufRec.memCoord, plain]
  have source : elemSrc (bufRec v.record) (bufRec v.scale) v.index c =
      { c := c, inside := insideExt c (bufRec v.record).ext, bytes := (bufRec v.record).elemBytes c, scale := none } := by
    simp [elemSrc, coords, unscaled]
  rw [source]
  obtain ⟨fetched, value⟩ := loadBytes_fresh fresh bound puts v.record ((bufRec v.record).elemBytes c).1
  by_cases inside : insideExt c (bufRec v.record).ext = true
  · have loads : s.loadElem v { c := c, inside := insideExt c (bufRec v.record).ext, bytes := (bufRec v.record).elemBytes c, scale := none } =
        ((s.loadBytes v v.record ((bufRec v.record).elemBytes c).1).1, viewElem (bufRec v.record) (bufRec v.scale) v.index v.table c
          (bits (s.loadBytes v v.record ((bufRec v.record).elemBytes c).1).2 ((bufRec v.record).elemBytes c).2.1 ((bufRec v.record).elemBytes c).2.2) none) := by
      simp [State.loadElem, inside, plain, coords]
    rw [loads]
    refine ⟨fetched, ?_⟩
    simp [viewElem, plain, plainElem, inside, value]
  · have pads : s.loadElem v { c := c, inside := insideExt c (bufRec v.record).ext, bytes := (bufRec v.record).elemBytes c, scale := none } =
        (s, (padBits ((bufRec v.record).rfmt.getD .n8) (bufRec v.record).pad, 0)) := by
      simp [State.loadElem, inside]
    rw [pads]
    refine ⟨.refl s, ?_⟩
    simp [plainElem, inside]

/-- One element delivered into its place of a lane's value. -/
def addElem (v : View3) (word : Bool) (cs : List (List Int)) (acc : State × Nat × Nat) (i : Nat) : State × Nat × Nat :=
  let x := acc.1.loadElem v (elemSrc (bufRec v.record) (bufRec v.scale) v.index ((cs[i]?).getD []))
  (x.1, acc.2.1 + (if word then x.2.1 % 2 ^ min 32 (bufRec v.record).ew else x.2.1) <<< ((bufRec v.record).ew * i), acc.2.2 ||| x.2.2)

omit puts in
theorem loadLane_eq_foldl (s : State) (word : Bool) (c : List Int) : s.loadLane v word c =
    (List.range (laneCoords (bufRec v.record) word c).length).foldl (addElem v word (laneCoords (bufRec v.record) word c)) (s, 0, 0) := rfl

theorem foldl_addElem {acc : State × Nat × Nat} (fresh : freshL1 v.core acc.1) (bound : v.bound = []) (plain : (bufRec v.record).view = 0) (word : Bool)
    (cs : List (List Int)) (l : List Nat) :
    Fetches v.core acc.1 (l.foldl (addElem v word cs) acc).1 ∧
      (l.foldl (addElem v word cs) acc).2.1 = acc.2.1 + (l.map fun i => placed v acc.1.mem word i ((cs[i]?).getD [])).sum := by
  induction l generalizing acc with
  | nil => exact ⟨.refl _, rfl⟩
  | cons i l ih =>
    obtain ⟨fetched, value⟩ := loadElem_plain puts fresh bound plain ((cs[i]?).getD [])
    obtain ⟨rest, values⟩ := ih (acc := addElem v word cs acc i) (fetched.fresh fresh)
    refine ⟨fetched.trans rest, ?_⟩
    have added : (addElem v word cs acc i).2.1 = acc.2.1 + placed v acc.1.mem word i ((cs[i]?).getD []) := by rw [placed, ← value]; rfl
    have kept : (addElem v word cs acc i).1.mem = acc.1.mem := fetched.mem
    rw [List.foldl_cons, values, added, kept, List.map_cons, List.sum_cons, Nat.add_assoc]

theorem loadLane_plain {s : State} (fresh : freshL1 v.core s) (bound : v.bound = []) (plain : (bufRec v.record).view = 0) (word : Bool) (c : List Int) :
    Fetches v.core s (s.loadLane v word c).1 ∧ (s.loadLane v word c).2.1 = plainLane v s.mem word c := by
  obtain ⟨fetched, value⟩ := foldl_addElem puts (acc := (s, 0, 0)) fresh bound plain word (laneCoords (bufRec v.record) word c)
    (List.range (laneCoords (bufRec v.record) word c).length)
  rw [Nat.zero_add, sum_range_eq_sum_mapIdx (placed v s.mem word), ← loadLane_eq_foldl] at value
  rw [← loadLane_eq_foldl] at fetched
  exact ⟨fetched, value⟩

theorem ldbLanes_plain {a : Access} (whole : a.done = []) (plain : (bufRec v.record).view = 0) (word : Bool) {lanes : List LaneAcc} (n : Nat) {s : State}
    (fresh : freshL1 v.core s) :
    Fetches v.core s (ldbLanes a v word n lanes s).1 ∧
      (ldbLanes a v word n lanes s).2.1 = lanes.map fun l => (l, plainLane v s.mem word (coordsOf l.data2)) := by
  induction lanes generalizing n s with
  | nil => exact ⟨.refl s, rfl⟩
  | cons l lanes ih =>
    have unbound : a.boundAt n = [] := by rw [Access.boundAt, whole]; rfl
    obtain ⟨fetched, value⟩ := loadLane_plain (v := { v with bound := a.boundAt n }) puts fresh unbound plain word (coordsOf l.data2)
    obtain ⟨rest, values⟩ := ih (n + 1) (fetched.fresh fresh)
    refine ⟨fetched.trans rest, ?_⟩
    rw [fetched.mem] at values
    rw [List.map_cons, ← values]
    exact congrArg₂ List.cons (congrArg (Prod.mk l) value) rfl

end Loads

end Sys2Proof.Laws
end

section
/-!
SUPPORT. A read completes: what it records, where its values land, and what its end leaves (spec/07 R187; spec/11 R300; spec/20 R449; spec/22 R462, R476).
-/
namespace Sys2Proof.Laws

open Sys2Proof Sys2Proof.Machine

/-! ### From the lanes to the delivery -/

theorem order_unlogged {s : State} (off : unlogged s) (line code : Nat) (own : Option Nat) (wrote : Bool) (access : Nat) :
    s.order line code own wrote access = s := by
  have nowhere : orderPart s line own = none := by
    unfold orderPart
    split
    · exact if_neg (by simp [off _ 2])
    · split
      · exact if_neg (by simp [off _ 2])
      · rfl
  unfold State.order
  rw [nowhere]

theorem correct_readsOnly (s : State) (line : Nat) : ReadsOnly s (s.correct line) := by
  unfold State.correct
  split
  · unfold State.countCe
    dsimp only
    split <;> exact .of_eq rfl rfl rfl
  · exact .refl s

theorem recordLines_readsOnly {s : State} (off : unlogged s) (a : Access) (kind : Nat) (write : Bool) (l : List Nat) :
    ReadsOnly s (s.recordLines a kind write l) := by
  refine ReadsOnly.foldl (P := unlogged) (fun h off => h.unlogged off) (fun s n off => ?_) _ off
  have corrected : ReadsOnly s (if kind = 1 then s else s.correct n) := .ite (.refl s) (correct_readsOnly s n)
  refine .ite corrected ?_
  rw [order_unlogged (corrected.unlogged off)]
  exact corrected

theorem flagAccess_readsOnly (s : State) (a : Access) (flags : Nat) : ReadsOnly s (s.flagAccess a flags) := by
  unfold State.flagAccess
  split
  · exact .refl s
  · split
    · exact .modWarp s _ fun _ => rfl
    · exact .refl s

theorem rouse_readsOnly (s : State) (core cause : Nat) : ReadsOnly s (s.rouse core cause) := .ite (.of_eq rfl rfl rfl) (.refl s)

theorem request_readsOnly (s : State) (group kind : Nat) : ReadsOnly s (s.request group kind) := by
  unfold State.request
  refine .ite (.ite (.refl s) ?_) (.refl s)
  exact .trans (t := s.modGroup group _) (.of_eq rfl rfl rfl) (rouse_readsOnly _ _ _)

theorem watched_readsOnly (s : State) (a : Access) (vals : List (LaneAcc × Nat)) : ReadsOnly s (s.watched a vals) := by
  unfold State.watched
  refine .ite ?_ (.refl s)
  exact .trans (t := s.modGroup _ _) (.of_eq rfl rfl rfl) (request_readsOnly _ _ _)

theorem unpoisonAll_keeps (s : State) (pas : List Nat) : (s.unpoisonAll pas).mem = s.mem ∧ (s.unpoisonAll pas).parts = s.parts := by
  unfold State.unpoisonAll
  generalize (pas.map (· / 64)).eraseDups = l
  induction l generalizing s with
  | nil => exact ⟨rfl, rfl⟩
  | cons n l ih =>
    obtain ⟨mem, parts⟩ := ih (if (List.range 64).all fun i => pas.contains (64 * n + i) then s.unpoison n else s)
    have one : (if (List.range 64).all fun i => pas.contains (64 * n + i) then s.unpoison n else s).mem = s.mem ∧
        (if (List.range 64).all fun i => pas.contains (64 * n + i) then s.unpoison n else s).parts = s.parts := by
      unfold State.unpoison
      split
      · split <;> exact ⟨rfl, rfl⟩
      · exact ⟨rfl, rfl⟩
    exact ⟨mem.trans one.1, parts.trans one.2⟩

/-! ### The delivery -/

theorem foldl_mem {α : Type} {f : State → α → State} (step : ∀ s x, (f s x).mem = s.mem) (l : List α) (s : State) : (l.foldl f s).mem = s.mem := by
  induction l generalizing s with
  | nil => rfl
  | cons x l ih => exact (ih (f s x)).trans (step s x)

theorem putRow_mem (s : State) (key row value mask : Nat) : (s.putRow key row value mask).mem = s.mem := rfl

theorem deliver_mem (s : State) (a : Access) (vals : List (LaneAcc × Nat)) : (s.deliver a vals).mem = s.mem := by
  unfold State.deliver
  rcases a.party with _ | p
  case none => rfl
  dsimp only
  rcases partyKey p with _ | k
  case none => rfl
  rcases a.dest with _ | n | ⟨n, width⟩ | rows
  case some.row => rfl
  case some.sreg => rcases vals with _ | ⟨x, r⟩ <;> rfl
  case some.rows =>
    dsimp only
    exact foldl_mem (fun s q => putRow_mem s k _ _ _) _ s
  case some.none => rfl

theorem getLsbD_mixBits {n : Nat} (old value mask : BitVec n) (b : Nat) :
    (mixBits old value mask).getLsbD b = if mask.getLsbD b = true then value.getLsbD b else old.getLsbD b := by
  by_cases inside : b < n
  · rcases held : mask.getLsbD b <;> simp_all [mixBits]
  · simp [BitVec.getLsbD_of_ge _ b (Nat.le_of_not_lt inside)]

/-- A row into which the values of lanes that share no bit have been put. -/
theorem getLsbD_putLanes {lanes : List LaneAcc} {width : Nat} (apart : lanes.Pairwise fun x y => x.off + width ≤ y.off ∨ y.off + width ≤ x.off)
    (val : LaneAcc → Nat) (old : BitVec 4096) {b : Nat} (inRow : b < 4096) :
    (mixBits old (BitVec.ofNat 4096 (gatherBits (lanes.map fun l => (l.off, width, val l))).1)
      (BitVec.ofNat 4096 (gatherBits (lanes.map fun l => (l.off, width, val l))).2)).getLsbD b =
      match lanes.find? fun l => l.off ≤ b && b < l.off + width with
      | some l => (val l).testBit (b - l.off)
      | none => old.getLsbD b := by
  rw [getLsbD_mixBits, BitVec.getLsbD_ofNat, BitVec.getLsbD_ofNat, decide_eq_true inRow, Bool.true_and, Bool.true_and]
  have part {p : Nat × Nat × Nat → Prop} : (∃ x ∈ lanes.map fun l => (l.off, width, val l), p x) ↔ ∃ l ∈ lanes, p (l.off, width, val l) := by simp
  cases found : lanes.find? fun l => l.off ≤ b && b < l.off + width with
  | none =>
    have outside := List.find?_eq_none.mp found
    refine if_neg fun covered => ?_
    obtain ⟨l, hl, low, high⟩ := part.mp ((testBit_gatherBits_mask _ b).mp covered)
    exact outside l hl (by simpa using ⟨low, high⟩)
  | some l =>
    have hl := List.mem_of_find?_eq_some found
    obtain ⟨low, high⟩ : l.off ≤ b ∧ b < l.off + width := by simpa using List.find?_some found
    rw [if_pos ((testBit_gatherBits_mask _ b).mpr (part.mpr ⟨l, hl, low, high⟩)), Bool.eq_iff_iff, testBit_gatherBits]
    refine ⟨fun bit => ?_, fun bit => part.mpr ⟨l, hl, low, high, bit⟩⟩
    obtain ⟨y, hy, ylow, yhigh, bit⟩ := part.mp bit
    by_cases same : y = l
    · exact same ▸ bit
    · have : Std.Symm fun x y : LaneAcc => x.off + width ≤ y.off ∨ y.off + width ≤ x.off := ⟨fun _ _ h => h.symm⟩
      have far := apart.forall hy hl same
      dsimp only at ylow yhigh
      omega

/-- Values delivered land in the destination and nowhere else. -/
theorem lanesLand_deliver {s r t : State} {a : Access} {val : LaneAcc → Nat} (read : ReadsOnly s r)
    (same : sameRegisters (r.deliver a (a.lanes.map fun l => (l, val l))) t) : lanesLand s t a val := by
  intro p k w party key found
  obtain ⟨x, present, regs⟩ : ∃ x, r.warps.get? k = some x ∧ regsOf x = regsOf w := by
    have kept := read.regs k
    rw [found, Option.map_some] at kept
    exact Option.map_eq_some_iff.mp kept
  have own : r.warp k = x := State.warp_of_get? present
  obtain ⟨v, sr, m⟩ : x.v = w.v ∧ x.s = w.s ∧ x.m = w.m := by
    simp only [regsOf, Prod.mk.injEq] at regs
    exact regs
  obtain ⟨landV, landS, landM⟩ := same k
  have modified (f : Warp → Warp) : (r.modWarp k f).warp k = f x := by rw [State.modWarp_warp _ _ _ (by rw [present]; rfl), own]
  dsimp only
  cases dest : a.dest with
  | row n width =>
    intro apart inRow
    have delivered : r.deliver a (a.lanes.map fun l => (l, val l)) =
        r.putRow k n (gatherBits (a.lanes.map fun l => (l.off, width, val l))).1 (gatherBits (a.lanes.map fun l => (l.off, width, val l))).2 := by
      simp only [State.deliver, party, key, dest, List.map_map]
      rfl
    rw [delivered, State.putRow, modified] at landV landS landM
    refine ⟨landS.trans sr, landM.trans m, fun q other => ?_, fun b inside => ?_⟩
    · rw [landV, Tbl.getD_set_ne _ _ _ (Ne.symm other), v]
    · rw [landV, Tbl.getD_set_self, v]
      exact getLsbD_putLanes apart val _ inside
  | sreg n =>
    cases lanes : a.lanes with
    | nil =>
      have delivered : r.deliver a (a.lanes.map fun l => (l, val l)) = r := by
        simp only [State.deliver, party, key, dest, lanes, List.map_nil]
      rw [delivered, own] at landV landS landM
      exact ⟨landV.trans v, landM.trans m, fun q _ => by rw [landS, sr], fun l l' some => by cases some⟩
    | cons y l =>
      have delivered : r.deliver a (a.lanes.map fun l => (l, val l)) = r.modWarp k fun w => { w with s := setS w.s n (BitVec.ofNat 64 (val y)) } := by
        simp only [State.deliver, party, key, dest, lanes, List.map_cons]
      rw [delivered, modified] at landV landS landM
      refine ⟨landV.trans v, landM.trans m, fun q other => ?_, fun y' l' eq named => ?_⟩
      · rw [landS]
        by_cases zero : n = 0
        · rw [zero, setS_zero, sr]
        · rw [setS_pos _ _ zero, Tbl.getD_set_ne _ _ _ (Ne.symm other), sr]
      · cases eq
        rw [landS, setS_pos _ _ named, Tbl.getD_set_self]
  | rows l => trivial
  | none =>
    have delivered : r.deliver a (a.lanes.map fun l => (l, val l)) = r := by
      simp only [State.deliver, party, key, dest]
    rw [delivered, own] at landV landS landM
    exact ⟨landV.trans v, landS.trans sr, landM.trans m⟩

/-! ### The end of an access -/

theorem finish_keeps (s : State) (a : Access) : (s.finish a).mem = s.mem ∧ (s.finish a).warps = s.warps := by
  unfold State.finish
  dsimp only
  split <;> split <;> split <;> exact ⟨rfl, rfl⟩

/-- The acquire of an access that has returned. -/
def acquired (s : State) (a : Access) : State :=
  match a.party with
  | some p => if a.acquires then s.acquire p a.acquireScope else s
  | none => s

theorem acquired_ordered (s : State) (a : Access) : Ordered s (acquired s a) := by
  unfold acquired
  split
  · exact .ite (.acquire s _ _) (.refl s)
  · exact .refl s

theorem complete_eq (s : State) (a : Access) (vals : List (LaneAcc × Nat)) : s.complete a vals = (acquired ((s.watched a vals).deliver a vals) a).finish a := rfl

theorem complete_mem (s : State) (a : Access) (vals : List (LaneAcc × Nat)) : (s.complete a vals).mem = s.mem := by
  obtain ⟨-, -, mem, -⟩ := (acquired_ordered ((s.watched a vals).deliver a vals) a).outside
  rw [complete_eq, (finish_keeps _ a).1, mem]
  exact (deliver_mem _ a vals).trans (watched_readsOnly s a vals).mem

theorem sendOrFinish_mem (s : State) (a : Access) (vals : List (LaneAcc × Nat)) : (s.sendOrFinish a vals).mem = s.mem := by
  unfold State.sendOrFinish
  split
  · exact deliver_mem s a vals
  · exact complete_mem s a vals

theorem complete_registers (s : State) (a : Access) (vals : List (LaneAcc × Nat)) : sameRegisters ((s.watched a vals).deliver a vals) (s.complete a vals) := by
  have ordered := (acquired_ordered ((s.watched a vals).deliver a vals) a).registers
  intro k
  rw [complete_eq, State.warp, (finish_keeps _ a).2]
  exact ordered k

/-- A read that completes with a value for each of its lanes. -/
theorem lanesLand_complete {s r : State} {a : Access} {val : LaneAcc → Nat} (read : ReadsOnly s r) :
    (r.complete a (a.lanes.map fun l => (l, val l))).mem = s.mem ∧ lanesLand s (r.complete a (a.lanes.map fun l => (l, val l))) a val :=
  ⟨(complete_mem r a _).trans read.mem, lanesLand_deliver (read.trans (watched_readsOnly r a _)) (complete_registers r a _)⟩

/-! ### Whole accesses -/

theorem view_puts {s : State} {a : Access} (sees : seesMemory s a.core) : (a.view s a.pages).puts = [] := by
  show (if a.forwards then pipeline s a.core else []) = []
  rw [sees.2, ite_self]

section Whole

variable {s : State} {a : Access} (off : unlogged s)

include off

/-- A store performs whole, and leaves memory as its lanes do. -/
theorem performAccess_store (store : a.kind = .store) (isGlobal : a.scratch = false)
    (clean : writeUe s (a.pas.flatMap fun x => (List.range x.2).map (x.1 + ·)) = none) :
    ∃ t, performAccess s a = .ok t ∧ t.mem = (storeLanes a a.lanes s).mem := by
  have performs : performAccess s a = .ok ((((storeLanes a a.lanes s).unpoisonAll (a.pas.flatMap fun x => (List.range x.2).map (x.1 + ·))).record a 1
      true).sendOrFinish a []) := by
    simp only [performAccess, store, isGlobal, clean, Bool.false_eq_true, if_false]
  obtain ⟨mem, parts⟩ := unpoisonAll_keeps (storeLanes a a.lanes s) (a.pas.flatMap fun x => (List.range x.2).map (x.1 + ·))
  have off' : unlogged ((storeLanes a a.lanes s).unpoisonAll (a.pas.flatMap fun x => (List.range x.2).map (x.1 + ·))) := fun p k => by
    rw [← off p k, logOn, logOn, State.part, State.part, parts, (storeLanes_writesOnly a a.lanes s).parts]
  exact ⟨_, performs, (sendOrFinish_mem _ a []).trans ((recordLines_readsOnly off' a 1 true a.lines).mem.trans mem)⟩

variable (sees : seesMemory s a.core) (whole : a.done = []) (clean : readUe s (a.pas.flatMap fun x => (List.range x.2).map (x.1 + ·)) = none)

include sees whole clean

/-- A load performs whole, and its lanes land as memory holds them. -/
theorem performAccess_load {signed : Bool} (load : a.kind = .load signed) (homes : ∀ l ∈ a.lanes, ∀ pa ∈ pasVia a.pages l.bytes, l1Home s pa = true) :
    ∃ t, performAccess s a = .ok t ∧ t.mem = s.mem ∧
      lanesLand s t a fun l => loadBits signed l.size a.destBits (leNat (l.bytes.map fun va => memGet s.mem (paVia a.pages va))) := by
  have stored : ∀ l ∈ a.lanes, ∀ va ∈ l.bytes, homeOf s (paVia a.pages va) ≠ .debug := fun l hl va hva debug => by
    have home := homes l hl _ (List.mem_map_of_mem hva)
    rw [l1Home, debug] at home
    exact Bool.false_ne_true home
  obtain ⟨fetched, values⟩ := loadLanes_fresh (v := a.view s a.pages) (view_puts sees) whole signed 0 sees.1 stored
  have performs : performAccess s a = .ok (((loadLanes a (a.view s a.pages) signed 0 a.lanes s).1.record a 0 false).complete a
      (loadLanes a (a.view s a.pages) signed 0 a.lanes s).2) := by
    simp only [performAccess, load, clean]
  have read := fetched.toReadsOnly.trans (recordLines_readsOnly (fetched.toReadsOnly.unlogged off) a 0 false a.lines)
  rw [values] at performs
  exact ⟨_, performs, lanesLand_complete read⟩

/-- An LDB of a plain record performs whole, and the elements of the record land. -/
theorem performAccess_ldb {j : Nat} {word : Bool} {r : BitVec 320 × BitVec 320} (load : a.kind = .ldb j word) (recs : a.recs = some r)
    (plain : (bufRec r.1).view = 0) :
    ∃ t, performAccess s a = .ok t ∧ t.mem = s.mem ∧ lanesLand s t a fun l => plainLane (a.view s a.pages) s.mem word (coordsOf l.data2) := by
  have record : (a.view s a.pages).record = r.1 := by
    show (a.recs.getD (0, 0)).1 = r.1
    rw [recs]
    rfl
  obtain ⟨fetched, values⟩ := ldbLanes_plain (v := a.view s a.pages) (view_puts sees) whole (by rw [record]; exact plain) word (lanes := a.lanes) 0 sees.1
  have performs : performAccess s a = .ok (((((ldbLanes a (a.view s a.pages) word 0 a.lanes s).1.flagAccess a (ldbLanes a (a.view s a.pages) word 0 a.lanes
      s).2.2)).record a 0 false).complete a (ldbLanes a (a.view s a.pages) word 0 a.lanes s).2.1) := by
    simp only [performAccess, load, clean]
  have flagged := fetched.toReadsOnly.trans (flagAccess_readsOnly _ a (ldbLanes a (a.view s a.pages) word 0 a.lanes s).2.2)
  have read := flagged.trans (recordLines_readsOnly (flagged.unlogged off) a 0 false a.lines)
  rw [values] at performs
  exact ⟨_, performs, lanesLand_complete read⟩

end Whole

/-- Settles O43: a store's and an atomic's lanes write their own bytes, and a load whose core sees memory as it is reads what memory holds. -/
theorem globalAccessesMoveTheirBytes : Obligations.GlobalAccessesMoveTheirBytes := by
  unfold Obligations.GlobalAccessesMoveTheirBytes
  refine ⟨memGet_storeBytes, fun s a b h => storeLanes_other h s, fun s a before l after i lanes here inside left last later => ?_, fun s a => ?_,
    fun s a store isGlobal off clean => performAccess_store off store isGlobal clean, fun s a b isGlobal h => actLanes_other isGlobal h 0 s,
    fun s a l pa isGlobal whole lanes size pages home => ?_, fun s a signed load whole off clean sees homes => performAccess_load off sees whole clean load homes,
    fun s a j word r load whole recs plain off clean sees => ?_⟩
  · rw [lanes, storeLanes_append, storeLanes_cons, storeLanes_other later, laneStored_byte here inside left last]
  · have only := storeLanes_writesOnly a a.lanes s
    exact ⟨fun k => by rw [State.warp, State.warp, only.warps]; exact ⟨rfl, rfl, rfl⟩, only.accs⟩
  · rw [lanes]
    exact actLanes_one isGlobal whole size pages home s
  · obtain ⟨t, performs, mem, lands⟩ := performAccess_ldb off sees whole clean load recs plain
    have value (c : List Int) : plainLane (a.view s a.pages) s.mem word c =
        ((laneCoords (bufRec r.1) word c).mapIdx fun i c => (if word then plainElem (bufRec r.1) s.mem a.pages c % 2 ^ min 32 (bufRec r.1).ew
          else plainElem (bufRec r.1) s.mem a.pages c) <<< ((bufRec r.1).ew * i)).sum := by
      have record : (a.view s a.pages).record = r.1 := by
        show (a.recs.getD (0, 0)).1 = r.1
        rw [recs]
        rfl
      unfold plainLane placed
      rw [record]
      rfl
    simp only [value] at lands
    exact ⟨t, performs, mem, lands⟩

end Sys2Proof.Laws
end

section
/-!
SUPPORT. Where an issuer stands when an item's effect takes place (spec/08 R239; spec/03 R86, R88).
-/
namespace Sys2Proof.Laws

open Sys2Proof Sys2Proof.Machine

/-- An item with nothing before it stands in its issuer's view, and its issue writes no record. -/
theorem free_stands_noRecord {op : Nat} {w : IWord} {c : Cur} {s : State} (h : free op w c s = true) :
    standsRight c = true ∧ (opEnv op w c s).decisions s = 0 := by
  simp only [free, Bool.and_eq_true, beq_iff_eq] at h
  obtain ⟨⟨⟨⟨⟨-, stands⟩, -⟩, -⟩, noRecord⟩, -⟩ := h
  exact ⟨stands, noRecord⟩

/-- A path that stands after the item `e`, the next issue of its warp `stall` cycles away. -/
def pathPassed (e : Env) (stall : Nat) (p : Path) : Path :=
  { p with pc := e.next, wait := .none, released := false, passed := 0, ready := max p.ready (e.acyc + 1 + stall) }

/-- A warp whose path `i` has issued the item `e`. -/
def pathIssued (e : Env) (i stall : Nat) (x : Warp) : Warp :=
  { x with
    swapped := none, committed := x.committed + 1, lastPath := i, waited := 0
    paths := (x.paths.mapVals fun _ p => { p with ready := max p.ready (e.acyc + 1 + stall), passed := p.passed + 1 }).modify i fun p =>
      { p with pc := e.next, wait := .none, released := false, passed := 0 } }

/-- A context that stands after the bundle `c`. -/
def contextPassed (c : Cur) (v : Vliw) : Vliw :=
  { v with pc := c.next, wait := .none, released := false, stall := (headerOf c.header).stall, yielded := (headerOf c.header).yield, jumped := false }

/-- The warp of a context that has issued the bundle `c`. -/
def contextIssued (c : Cur) (x : Warp) : Warp :=
  { x with committed := x.committed + 1, slots := x.slots + 1, vliw := x.vliw.map (contextPassed c) }

/-- A sequencer that has issued the item `c`. -/
def seqIssued (c : Cur) (q : Sequencer) : Sequencer := { q with pc := c.next, committed := q.committed + 1, wait := .none }

theorem pathIssued_path (e : Env) {i : Nat} (stall : Nat) {x : Warp} {p : Path} (h : x.paths.get? i = some p) :
    (pathIssued e i stall x).paths.get? i = some (pathPassed e stall p) := by
  simp [pathIssued, pathPassed, Tbl.get?_mapVals, h]

theorem account_cores (s : State) (p : Party) (pc : Nat) (l : List (Slot × Nat)) : (s.account p pc l).cores = s.cores := by
  unfold State.account
  split <;> rfl

theorem takePorts_cores (s : State) (p : Party) (x : Ports) : (s.takePorts p x).cores = s.cores := by
  unfold State.takePorts
  split <;> rfl

theorem serviceSlot_cores (s : State) (p : Party) (b : Bool) : (s.serviceSlot p b).cores = s.cores := by
  unfold State.serviceSlot
  split <;> rfl

section

variable {op : Nat} {w : IWord} {c : Cur} {s : State}

theorem begun_path {g sl i : Nat} (hp : c.party = .path g sl i) (hs : c.slot = none) (noRecord : (opEnv op w c s).decisions s = 0) :
    (begun op w c s).warps = (s.modWarp (opEnv op w c s).key (pathIssued (opEnv op w c s) i w.stall.toNat)).warps ∧ (begun op w c s).cores = s.cores := by
  obtain ⟨party, slot, pc, next, header, locked⟩ := c
  obtain rfl : party = _ := hp
  obtain rfl : slot = _ := hs
  generalize he : opEnv op w _ s = e at noRecord
  have party : e.party = .path g sl i := by rw [← he]; rfl
  have key : e.key = warpKey g sl := by rw [← he]; rfl
  have logged : s.logDecisions e = s.modWarp (warpKey g sl) fun x => { x with swapped := none } := by
    simp only [State.logDecisions, party, noRecord, if_true]
  constructor
  · simp only [begun, he, logged, State.advance, party, key, State.modWarp_warps, account_warps, Tbl.modify_modify]
    rfl
  · simp only [begun, he, logged, State.advance, party, State.modWarp_cores, account_cores]

theorem begun_context {sl : Slot} (hs : c.slot = some sl) :
    (begun op w c s).warps = (s.modWarp (opEnv op w c s).key (contextIssued c)).warps ∧ (begun op w c s).cores = s.cores := by
  constructor
  · simp only [begun, hs, State.advanceBundle, State.modWarp_warps, serviceSlot_warps, takePorts_warps, account_warps]
    rfl
  · simp only [begun, hs, State.advanceBundle, State.modWarp_cores, serviceSlot_cores, takePorts_cores, account_cores]

theorem begun_seq {n : Nat} (hp : c.party = .seq n) (hs : c.slot = none) :
    begun op w c s = s.modCore n fun x => { x with seq := x.seq.map (seqIssued c) } := by
  obtain ⟨party, slot, pc, next, header, locked⟩ := c
  obtain rfl : party = _ := hp
  obtain rfl : slot = _ := hs
  rfl

end

/-- When one warp changes, and keeps what it has in flight and its CSRs, every other is as it was. -/
theorem oneWarp_frame {s t : State} {k : Nat} {f : Warp → Warp} (h : t.warps = (s.modWarp k f).warps)
    (keeps : ∀ x, (f x).inflight = x.inflight ∧ (f x).csr = x.csr) :
    (∀ l, l ≠ k → t.warps.get? l = s.warps.get? l) ∧ (∀ l, (t.warp l).inflight = (s.warp l).inflight ∧ (t.warp l).csr = (s.warp l).csr) ∧
    ∀ x, s.warps.get? k = some x → t.warp k = f x := by
  have same (l : Nat) : t.warp l = (s.modWarp k f).warp l := by rw [State.warp, h, State.warp]
  refine ⟨fun l other => by rw [h]; exact Tbl.get?_modify_ne _ _ other.symm, fun l => ?_, fun x hx => ?_⟩
  · rw [same]
    exact ⟨State.modWarp_keeps s k l f Warp.inflight fun x => (keeps x).1, State.modWarp_keeps s k l f Warp.csr fun x => (keeps x).2⟩
  · rw [same, State.modWarp_warp s k f (by rw [hx]; rfl), State.warp_of_get? hx]

/-- Settles O24: an issue changes its issuer's warp by `pathIssued` or `contextIssued`, or its core's sequencer by `seqIssued`, and beside it only what the
lane groups count. -/
theorem issueMovesOn : Obligations.IssueMovesOn := by
  intro op w c s h t e
  obtain ⟨stands, noRecord⟩ := free_stands_noRecord h
  obtain ⟨outside, registers, -⟩ := begun_steered noRecord
  refine ⟨outside, registers, ?_⟩
  rcases hp : c.party with ⟨g, sl, i⟩ | ⟨g, sl⟩ | g | n <;> rcases hs : c.slot with _ | slot <;>
    simp only [standsRight, hp, hs, Bool.false_eq_true] at stands
  case path.none =>
    obtain ⟨warps, cores⟩ := begun_path hp hs noRecord
    obtain ⟨others, kept, issuer⟩ := oneWarp_frame warps fun _ => ⟨rfl, rfl⟩
    refine ⟨others, kept, cores, fun x p hx path => ?_⟩
    rw [issuer x hx]
    exact ⟨rfl, pathIssued_path _ _ path⟩
  case thread.some =>
    obtain ⟨warps, cores⟩ := begun_context (op := op) (w := w) (s := s) hs
    obtain ⟨others, kept, issuer⟩ := oneWarp_frame warps fun _ => ⟨rfl, rfl⟩
    refine ⟨others, kept, cores, fun x v hx vliw => ?_⟩
    rw [issuer x hx]
    exact ⟨rfl, rfl, congrArg (Option.map (contextPassed c)) vliw⟩
  case service.some =>
    obtain ⟨warps, cores⟩ := begun_context (op := op) (w := w) (s := s) hs
    obtain ⟨others, kept, issuer⟩ := oneWarp_frame warps fun _ => ⟨rfl, rfl⟩
    refine ⟨others, kept, cores, fun x v hx vliw => ?_⟩
    rw [issuer x hx]
    exact congrArg (Option.map (contextPassed c)) vliw
  case seq.none =>
    have issued : t = s.modCore n fun x => { x with seq := x.seq.map (seqIssued c) } := begun_seq hp hs
    rw [issued]
    refine ⟨fun _ _ => rfl, fun _ => ⟨rfl, rfl⟩, rfl, rfl, fun k other => State.modCore_core_ne s _ other.symm, fun q seq => ?_⟩
    rw [State.modCore_core]
    exact congrArg (Option.map (seqIssued c)) seq

end Sys2Proof.Laws
end

section
/-!
SUPPORT. A trap that a form itself raises at its issue, and the three forms whose effect it is (spec/08 R240; spec/19 R417).
-/
namespace Sys2Proof.Laws

open Sys2Proof Sys2Proof.Machine

/-- Of an operation that is alone in its bundle, with nothing of the general checks before it, its own gate decides. -/
theorem bundleGates_one {sem : Sem} {c : Cur} {s : State} {sl : Slot} (hs : c.slot = some sl) (h : free sem.op sem.w c s = true) :
    bundleGates [⟨sl, sem⟩] c s = [(sl, sem.gate (opEnv sem.op sem.w c s) s)] := by
  simp only [free, Bool.and_eq_true, beq_iff_eq, hs] at h
  obtain ⟨⟨⟨⟨⟨-, -⟩, mode⟩, registers⟩, -⟩, -⟩ := h
  have mode := passes_ok mode
  have own : ({ c with slot := some sl } : Cur) = c := by rw [← hs]
  have sees : s.slotEnv c ⟨sl, sem⟩ = opEnv sem.op sem.w c s := by simp only [State.slotEnv, own, opEnv]
  have key : (opEnv sem.op sem.w c s).key = (partyKey c.party).getD 0 := rfl
  simp only [registersFree, hs, Bool.and_eq_true, Bool.not_eq_true', Bool.or_eq_true, Option.isNone_iff_eq_none, key] at registers
  obtain ⟨landed, apart⟩ := registers
  simp only [bundleGates, List.map_cons, List.map_nil, sees, mode, List.filter_cons, List.filter_nil, List.isEmpty_nil, Bool.not_true, Bool.false_eq_true,
    if_false, mergeTraps, Option.isSome_none, List.any_cons, List.any_nil, Bool.or_false, landed, List.filterMap_cons, List.filterMap_nil]
  rcases apart with unchecked | apart
  · simp [unchecked]
  · simp [apart]

/-- A form whose own gate traps raises that trap at its issue, in every view. -/
theorem runSem_trap {sem : Sem} {c : Cur} {s : State} {t : Trap} (h : free sem.op sem.w c s = true)
    (traps : sem.gate (opEnv sem.op sem.w c s) s = .trap t) : runSem sem s = .next (trapped sem.op sem.w c s t) := by
  have checks := h
  simp only [free, Bool.and_eq_true, beq_iff_eq] at checks
  obtain ⟨⟨⟨⟨⟨cur, stands⟩, mode⟩, registers⟩, noRecord⟩, fits⟩ := checks
  have mode := passes_ok mode
  cases hs : c.slot with
  | some sl =>
    simp only [hs, Bool.and_eq_true, Bool.not_eq_true'] at fits
    obtain ⟨fits, -⟩ := fits
    simp only [runSem, cur, hs, runBundle, bundleGates_one hs h, traps, mergeTraps, fits, Bool.false_eq_true, if_false, trapped]
    rfl
  | none =>
    simp only [runSem, cur, hs, runWord, trapped]
    simp only [opEnv] at mode noRecord traps
    rcases hp : c.party with ⟨g, sl, i⟩ | ⟨g, sl⟩ | g | n
    · have view : (s.env c).view = .simt := by simp [State.env, hp, hs]
      simp only [registersFree, hs, hp, opEnv] at registers
      simp only [mode, forOp_view, view, passes_ok registers, noRecord, bne_self_eq_false, Bool.false_and, Bool.false_eq_true, if_false, traps]
    · simp [standsRight, hs, hp] at stands
    · simp [standsRight, hs, hp] at stands
    · have view : (s.env c).view = .stream := by simp [State.env, hp]
      simp only [mode, forOp_view, view, noRecord, bne_self_eq_false, Bool.false_and, Bool.false_eq_true, if_false, traps]

/-- A software trap is raised when its predicate passes, and has no effect when it fails. -/
theorem softwareTrap_raised {mk : IWord → Instr} {op : Nat} {t : IWord → Env → Trap}
    (hx : ∀ w s, exec (mk w) s = runSem (trapSem op w (t w)) s) :
    (∀ w c s, free op w c s = true → (opEnv op w c s).scalarPred w = true → exec (mk w) s = .next (trapped op w c s (t w (opEnv op w c s)))) ∧
    CompletesWhen mk op (fun w e _ => e.scalarPred w = false) fun _ _ s => s := by
  refine ⟨fun w c s h on => (hx w s).trans (runSem_trap (sem := trapSem op w (t w)) h (if_pos on)),
    completes_when hx (fun _ => rfl) (fun _ => rfl) (fun w e s off => ?_) fun _ => rfl⟩
  exact if_neg (by simp [off])

/-- Settles O34: each of the three is `trapSem` of its own trap. -/
theorem softwareTrapsAreRaised : Obligations.SoftwareTrapsAreRaised :=
  ⟨softwareTrap_raised (t := fun w e => { cause := csrNo w, info := 2 ^ 38 + trapValue e w }) fun _ _ => rfl,
   softwareTrap_raised (t := fun w _ => { cause := causeSVC, info := csrNo w % 2 ^ 16 }) fun _ _ => rfl,
   softwareTrap_raised (t := fun w _ => { cause := causeBKPT, info := 2 ^ 38 + csrNo w % 2 ^ 16 }) fun _ _ => rfl⟩

end Sys2Proof.Laws
end

section
/-!
SUPPORT. The return from a handler (spec/08 R241; spec/19 R419, R437).
-/
namespace Sys2Proof.Laws

open Sys2Proof Sys2Proof.Machine

/-- TRET's checks pass in the locked instruction store, for a service run, or where it goes on at a known address and its trace record has room. -/
theorem tretGate_ok {next : Bool} {e : Env} {s : State} (h : e.locked = true ∧
    ((∃ g, e.party = .service g) ∨ ((∃ t pc, tretTarget next e s = .to t pc) ∧ traceRoom e s 1 = true))) : tretGate next e s = .ok := by
  obtain ⟨locked, ⟨g, service⟩ | ⟨⟨t, pc, target⟩, room⟩⟩ := h
  · simp [tretGate, locked, service]
  · simp only [tretGate, locked, target, traceGate_ok room, Bool.not_true, Bool.false_eq_true, if_false]
    split <;> rfl

/-- TRET.next goes on after the item at TRAPREC1.PC, once its first word has been read. -/
theorem tretTarget_next {e : Env} {s t : State} {x : Nat} (h : fetchCode s e.core (s.partyPart e.party) (e.w.csr.rec1.toNat % 2 ^ 57) 8 = .ok t x) :
    tretTarget true e s = .to t (if e.view.inSlot then afterHeader (e.w.csr.rec1.toNat % 2 ^ 57) x
      else (e.w.csr.rec1.toNat % 2 ^ 57 + (if x % 2 = 1 then 16 else 8)) % 2 ^ 57) := by
  have literal : wBit (BitVec.ofNat 64 x) = decide (x % 2 = 1) := by
    rw [wBit, BitVec.getLsbD_ofNat, Nat.testBit_zero]
    rfl
  simp only [tretTarget, h, nextAddr, wordSize, literal, Bool.not_true, Bool.false_eq_true, if_false, decide_eq_true_eq]

/-- A path that waited for its warp's handler to end may trap. -/
def handlerOver (p : Path) : Path := if p.wait = .handler then { p with wait := .none } else p

/-- A warp whose path `i` has returned from its handler to `target`. -/
def pathReturned (i target : Nat) (x : Warp) : Warp :=
  { x with handler := none, paths := (x.paths.mapVals fun _ => handlerOver).modify i fun p => { p with pc := target, locked := false, wait := .none } }

theorem pathReturned_path {i : Nat} (target : Nat) {x : Warp} {p : Path} (h : x.paths.get? i = some p) :
    (pathReturned i target x).paths.get? i = some { p with pc := target, locked := false, wait := .none } := by
  simp only [pathReturned, Tbl.get?_modify_self, Tbl.get?_mapVals, h, Option.map_some, handlerOver]
  split <;> rfl

theorem pathReturned_path_ne {i j : Nat} (target : Nat) {x : Warp} {q : Path} (other : j ≠ i) (h : x.paths.get? j = some q) :
    (pathReturned i target x).paths.get? j = some (handlerOver q) := by
  simp only [pathReturned, Tbl.get?_modify_ne _ _ other.symm, Tbl.get?_mapVals, h, Option.map_some]

/-- The warp of a VLIW thread that has returned from its handler to `target`. -/
def threadReturned (target : Nat) (x : Warp) : Warp :=
  { x with handler := none, vliw := x.vliw.map fun v => { v with pc := target, locked := false, wait := .none } }

theorem returnFromTrap_path (s : State) (g sl i target : Nat) :
    s.returnFromTrap (.path g sl i) target = s.modWarp (warpKey g sl) (pathReturned i target) := rfl

theorem returnFromTrap_thread (s : State) (g sl target : Nat) :
    s.returnFromTrap (.thread g sl) target = s.modWarp (warpKey g sl) (threadReturned target) := rfl

/-- Settles O35: TRET's gate opens under its conditions, and a return is one change of the issuer's warp. -/
theorem returnsFromHandlers : Obligations.ReturnsFromHandlers := by
  refine ⟨completes_when (fun _ _ => rfl) (fun _ => rfl) (fun _ => rfl) (fun _ _ _ => tretGate_ok) fun _ => rfl,
    completes_when (fun _ _ => rfl) (fun _ => rfl) (fun _ => rfl) (fun _ _ _ => tretGate_ok) fun _ => rfl,
    fun _ _ => rfl, fun _ _ _ _ => tretTarget_next, fun s g sl i target x p hx path => ?_, fun s g sl target x v hx vliw => ?_⟩
  · obtain ⟨outside, registers, -⟩ := Steered.modWarp s (warpKey g sl) (f := pathReturned i target) fun _ => ⟨rfl, rfl, rfl⟩
    simp only [returnFromTrap_path]
    rw [State.modWarp_warp _ _ _ (by rw [hx]; rfl), State.warp_of_get? hx]
    exact ⟨outside, registers, rfl, rfl, pathReturned_path target path, fun j q other sibling => pathReturned_path_ne target other sibling⟩
  · obtain ⟨outside, registers, -⟩ := Steered.modWarp s (warpKey g sl) (f := threadReturned target) fun _ => ⟨rfl, rfl, rfl⟩
    simp only [returnFromTrap_thread]
    rw [State.modWarp_warp _ _ _ (by rw [hx]; rfl), State.warp_of_get? hx]
    exact ⟨outside, registers, rfl, congrArg (Option.map _) vliw⟩

end Sys2Proof.Laws
end

section
/-!
SUPPORT. The matrix sequencer's operations: what stands before them, and how they enter the engine queue (spec/08 R218 to R234; spec/13 R344 to R346).
-/
namespace Sys2Proof.Laws

open Sys2Proof Sys2Proof.Machine

/-- What an operation waits for before it enters the queue has come: its scratchpad ranges lie in the region, its record has room, and so has the queue. -/
def mayEnter (op : EngOp) (e : Env) (s : State) : Prop :=
  (∀ m, op.mem = some m → m.global = false → ∀ x ∈ m.ranges, 0 < x.2 → x.1 + x.2 ≤ (s.region e.party).2) ∧
  decisionRoom e s (match op.mem with | some m => b2n m.global | none => 0) = true ∧ (s.core e.core).engine.queue.length < Config.engineQueue

/-- A form that enters the engine queue completes when its operation may enter and it traps for no reason of its own. -/
theorem completes_eng {mk : IWord → Instr} {opc : Nat} {op : IWord → Env → EngOp} {pre : IWord → Env → Option Trap} {also : IWord → Env → Prop}
    (hx : ∀ w s, exec (mk w) s = runSem (engSem opc w op (pre w)) s) (valid : ∀ w e, also w e → pre w e = none) :
    CompletesWhen mk opc (fun w e s => also w e ∧ mayEnter (op w e) e s) fun w e s => engEff (op w e) e s := by
  refine completes_when (sem := fun w => engSem opc w op (pre w)) hx (fun _ => rfl) (fun _ => rfl) (fun w e s h => ?_) fun _ => rfl
  obtain ⟨own, ranges, room, queue⟩ := h
  exact engGate_ok (valid w e own) ranges room queue

theorem mwaitGate_ok {w : IWord} {e : Env} {s : State} (h : engIdle s e.core = true) : (semMwait w).gate e s = .ok := if_pos h

theorem mendGate_ok {w : IWord} {e : Env} {s : State} (h : engIdle s e.core = true ∧ decisionRoom e s (s.departRecords e) = true) :
    (semMend w).gate e s = .ok := by
  obtain ⟨idle, room⟩ := h
  simp only [semMend, idle, Bool.not_true, Bool.false_eq_true, if_false, decisionGate_ok room]

/-- Memory, the registers and every core but `c` are as they were, and so is the matrix engine of `c`. -/
structure EngineKept (c : Nat) (s t : State) : Prop where
  mem : t.mem = s.mem
  registers : sameRegisters s t
  others : ∀ k, k ≠ c → t.core k = s.core k
  engine : (t.core c).engine = (s.core c).engine

namespace EngineKept

variable {c : Nat} {s t u : State}

theorem refl (c : Nat) (s : State) : EngineKept c s s := ⟨rfl, fun _ => ⟨rfl, rfl, rfl⟩, fun _ _ => rfl, rfl⟩

theorem trans (h : EngineKept c s t) (k : EngineKept c t u) : EngineKept c s u where
  mem := k.mem.trans h.mem
  registers x := by
    obtain ⟨h1, h2, h3⟩ := h.registers x
    obtain ⟨k1, k2, k3⟩ := k.registers x
    exact ⟨k1.trans h1, k2.trans h2, k3.trans h3⟩
  others n other := (k.others n other).trans (h.others n other)
  engine := k.engine.trans h.engine

theorem ite {p : Prop} [Decidable p] (h : EngineKept c s t) (k : EngineKept c s u) : EngineKept c s (if p then t else u) := by
  split
  · exact h
  · exact k

theorem modCore (s : State) (c : Nat) {f : Core → Core} (keeps : ∀ x, (f x).engine = x.engine) : EngineKept c s (s.modCore c f) where
  mem := rfl
  registers _ := ⟨rfl, rfl, rfl⟩
  others _ other := State.modCore_core_ne s f other.symm
  engine := by rw [State.modCore_core, keeps]

/-- A step that changes no core keeps every engine. -/
theorem of_cores (steered : Steered s t) (cores : t.cores = s.cores) : EngineKept c s t where
  mem := by
    obtain ⟨-, -, mem, -⟩ := steered.outside
    exact mem
  registers := steered.registers
  others _ _ := by rw [State.core, cores, State.core]
  engine := by rw [State.core, cores, State.core]

theorem modGroup (c : Nat) (s : State) (g : Nat) (f : Group → Group) : EngineKept c s (s.modGroup g f) := of_cores (.modGroup s g f) rfl

theorem modWarp (c : Nat) (s : State) (k : Nat) {f : Warp → Warp} (keeps : ∀ x, (f x).v = x.v ∧ (f x).s = x.s ∧ (f x).m = x.m) :
    EngineKept c s (s.modWarp k f) := of_cores (.modWarp s k keeps) rfl

theorem rouse (s : State) (c cause : Nat) : EngineKept c s (s.rouse c cause) := ite (modCore s c fun _ => rfl) (refl c s)

theorem request (s : State) {g : Nat} (kind : Nat) (own : g / 2 = c) : EngineKept c s (s.request g kind) := by
  subst own
  unfold State.request
  exact ite (ite (refl _ s) ((modGroup _ s g _).trans (rouse _ _ _))) (refl _ s)

theorem reserveLog (s : State) (part : Nat) {g : Nat} (kind n : Nat) (own : g / 2 = c) : EngineKept c s (s.reserveLog part g kind n) := by
  unfold State.reserveLog
  split
  · exact refl c s
  · have reserved (f : Partition → Partition) : EngineKept c s (s.modPart part f) := ⟨rfl, fun _ => ⟨rfl, rfl, rfl⟩, fun _ _ => rfl, rfl⟩
    exact ite ((reserved _).trans (request _ 1 own)) (reserved _)

theorem countAtomic (s : State) {p : Party} (own : partyCore p = c) : EngineKept c s (s.countAtomic p) := by
  subst own
  unfold State.countAtomic
  cases p with
  | seq n => exact modCore s n (by exact fun _ => rfl)
  | path | thread | service => exact modWarp _ s _ fun _ => ⟨rfl, rfl, rfl⟩

theorem outstanding (s : State) (c launch : Nat) (up : Bool) : EngineKept c s (s.outstanding c launch up) := modCore s c fun _ => rfl

end EngineKept

/-- The state in which an operation enters the queue: room for its record is spoken for, and its atomic actions are counted. -/
def beforeQueue (op : EngOp) (e : Env) (s : State) : State :=
  let t := if logOn s (s.partyPart e.party) 1 && (match op.mem with | some m => m.global | none => false) then s.reserveLog (s.partyPart e.party) e.group 1 1
    else s
  let u := if (if op.adds && t.keyed e.party then some (t.keyOf e.party) else none).isSome then t.countAtomic e.party else t
  if op.adds then u.outstanding e.core e.w.launch true else u

theorem beforeQueue_keeps (op : EngOp) {e : Env} (s : State) (party : partyCore e.party = e.core) (group : e.group / 2 = e.core) :
    EngineKept e.core s (beforeQueue op e s) := by
  have spoken (t : State) (b : Bool) (part : Nat) : EngineKept e.core t (if b then t.reserveLog part e.group 1 1 else t) :=
    .ite (.reserveLog t part 1 1 group) (.refl _ t)
  have counted (t : State) (b : Bool) : EngineKept e.core t (if b then t.countAtomic e.party else t) := .ite (.countAtomic t party) (.refl _ t)
  exact ((spoken s _ _).trans (counted _ _)).trans (.ite (.outstanding _ _ _ _) (.refl _ _))

/-- A core whose engine queue holds the operation `op` of the item `e` behind those it held. -/
def queued (op : EngOp) (e : Env) (key : Option (List Nat)) (reserved : Bool) (c : Core) : Core :=
  { c with engine := { c.engine with queue := c.engine.queue ++ [{ id := c.engine.issued, pc := e.pc, op := op, key := key, reserved1 := reserved }],
                                     issued := c.engine.issued + 1 } }

theorem engEff_queued (op : EngOp) (e : Env) (s : State) :
    ∃ key reserved, engEff op e s = (beforeQueue op e s).modCore e.core (queued op e key reserved) := ⟨_, _, rfl⟩

/-- Settles O47: what each form asks for opens its gate, and an operation's entry changes its core's engine by `queued`. -/
theorem matrixFormsComplete : Obligations.MatrixFormsComplete := by
  refine ⟨?mload, ?mperm, ?mzero, ?mma, ?mladr, ?mscale, ?mscaleClr, ?mdrain,
    completes_when (fun _ _ => rfl) (fun _ => rfl) (fun _ => rfl) (fun _ _ _ => mwaitGate_ok) fun _ => rfl,
    completes_when (fun _ _ => rfl) (fun _ => rfl) (fun _ => rfl) (fun _ _ _ => mendGate_ok) fun _ => rfl, fun op e s party group => ?_⟩
  case mdrain => exact completes_eng (fun _ _ => rfl) fun _ _ kind => if_pos kind
  case mload | mperm | mzero | mma | mladr | mscale | mscaleClr => exact completes_eng (fun _ _ => rfl) fun _ _ _ => rfl
  obtain ⟨key, reserved, entry⟩ := engEff_queued op e s
  obtain ⟨mem, registers, others, engine⟩ := beforeQueue_keeps op s party group
  simp only [entry]
  refine ⟨mem, registers, fun k other => (State.modCore_core_ne _ _ other.symm).trans (others k other),
    { id := (s.core e.core).engine.issued, pc := e.pc, op := op, key := key, reserved1 := reserved }, ?_⟩
  simp only [State.modCore_core, queued, engine, and_self]

end Sys2Proof.Laws
end

section
/-!
SUPPORT. Control and status registers, LOGW and the device-side launch queue (spec/08 R237 to R243; spec/01 R35, R36; spec/09 R265 to R267).
-/
namespace Sys2Proof.Laws

open Sys2Proof Sys2Proof.Machine

/-! ### The gates -/

theorem getsrGate_ok {w : IWord} {e : Env} {s : State} (h : csrNo w ≠ 0 ∨ s.satfBusy e.party = false) : (semGetsr w).gate e s = .ok := by
  simp only [semGetsr]
  rw [if_neg]
  rcases h with h | h <;> simp [h]

theorem setsrGate_ok {w : IWord} {e : Env} {s : State} (h : e.scalarPred w = true → csrNo w = 1 → (setsrValue e w).toNat % 8 ≤ 4) :
    (semSetsr w).gate e s = .ok := by
  simp only [semSetsr]
  rw [if_neg]
  intro reserved
  simp only [Bool.and_eq_true, decide_eq_true_eq] at reserved
  obtain ⟨⟨on, mode⟩, high⟩ := reserved
  exact absurd (h on mode) (by omega)

theorem logwGate_ok {w : IWord} {e : Env} {s : State} (h : logwOn e w s = true → logFits s (s.partyPart e.party) 0 1 = true) :
    (semLogw w).gate e s = .ok := by
  simp only [semLogw]
  rw [if_neg]
  intro full
  simp only [Bool.and_eq_true, Bool.not_eq_true'] at full
  rw [h full.1] at full
  exact absurd full.2 (by decide)

theorem launchGate_ok {w : IWord} {e : Env} {s : State} (h : e.scalarPred w = true → ∃ q, (s.part (s.partyPart e.party)).device = some q ∧
    (q.rsv + 2 ^ 32 - q.head) % 2 ^ 32 < 2 ^ q.dlog ∧ (∀ i < 128, unitOnly s (entryPa q q.rsv + i) = false) ∧
    accessReady e s (launchAccess w q.rsv e s) = true) : launchGate w e s = .ok := by
  unfold launchGate
  split
  case isTrue => rfl
  case isFalse on =>
    obtain ⟨q, device, room, plain, ready⟩ := h (by simpa using on)
    have outside : ((List.range 128).any fun i => unitOnly s (entryPa q q.rsv + i)) = false := by simpa using plain
    simp only [device, if_neg (Nat.not_le.mpr room), outside, Bool.false_eq_true, if_false]
    exact globalGate_ok ready

/-! ### What SETSR writes -/

/-- A write to SATF sets ARM, and clears each flag that it names by a one (spec/01 R35; spec/00 R9). -/
theorem satfWrite_bits (old v : Word64) (i : Nat) :
    (satfWrite old v).getLsbD i = (decide (i < 4) && old.getLsbD i && !v.getLsbD i || decide (i = 63) && v.getLsbD i) := by
  have arm : (0x8000000000000000 : Word64).getLsbD i = decide (i = 63) := by
    rw [show (0x8000000000000000 : Word64) = BitVec.twoPow 64 63 by decide, BitVec.getLsbD_twoPow]
    simp [eq_comm]
  have flags : (0xF : Word64).getLsbD i = decide (i < 4) := by
    rw [show (0xF : Word64) = BitVec.ofNat 64 (2 ^ 4 - 1) by decide, BitVec.getLsbD_ofNat, Nat.testBit_two_pow_sub_one]
    rw [← Bool.decide_and, decide_eq_decide]
    omega
  simp only [satfWrite, BitVec.getLsbD_or, BitVec.getLsbD_and, BitVec.getLsbD_not, arm, flags]
  by_cases low : i < 4
  · simp [low, show i ≠ 63 by omega, show i < 64 by omega]
  · by_cases top : i = 63 <;> simp [low, top]

/-- A write changes the register it names alone. -/
theorem csrWrite_fields (c : Csrs) (log : Bool) (n : Nat) (v : Word64) : csrWrite c log n v =
    { c with
      satf := if n = 0 then satfWrite c.satf v else c.satf
      rmode := if n = 1 ∧ v.toNat % 8 ≤ 4 then v.toNat % 8 else c.rmode
      scbchk := if n = 2 then v.getLsbD 0 else c.scbchk
      sfbank := if n = 9 then v.toNat % 2 else c.sfbank
      logTag := if n = 11 then v.toNat / 2 ^ 8 % 2 ^ 8 else c.logTag
      logEn := if n = 11 then v.getLsbD 0 && log else c.logEn
      stallcnt := if n = 12 then v.toNat % 2 ^ 48 else c.stallcnt } := by
  cases c
  unfold csrWrite
  split
  case h_2 =>
    by_cases reserved : 4 < v.toNat % 8
    · simp [reserved]
    · simp [reserved, Nat.not_lt.mp reserved]
  case h_7 other0 other1 other2 other9 other11 other12 =>
    simp only [if_neg other0, if_neg other2, if_neg other9, if_neg other11, if_neg other12, if_neg fun h : n = 1 ∧ _ => other1 h.1]
  all_goals simp [bits_eq]

/-! ### TAIL_NOTIFY -/

theorem exec_tailNotify {s : State} {part n : Nat} {q : DeviceQueue} {r : List Nat} (device : (s.part part).device = some q) (notes : q.notes = n :: r)
    (takes : notifies s q = true) : exec (.tailNotify part) s = .next (consumeDevice part (2 ^ q.dlog + 1) (s.modPart part fun p =>
      { p with device := some { q with notes := r, tmax := tmaxAfter q n } })) := by
  show execTailNotify part s = _
  unfold execTailNotify
  simp only [device, notes, takes, Bool.not_true, Bool.false_eq_true, if_false]

/-- Settles O53: what each form asks for opens its gate, and SETSR's write is told bit by bit and field by field. -/
theorem systemFormsComplete : Obligations.SystemFormsComplete := by
  refine ⟨completes_when (fun _ _ => rfl) (fun _ => rfl) (fun _ => rfl) (fun _ _ _ => getsrGate_ok) fun _ => rfl,
    completes_when (fun _ _ => rfl) (fun _ => rfl) (fun _ => rfl) (fun _ _ _ => setsrGate_ok) fun _ => rfl,
    fun w _ _ h => runSem_free (sem := semClk w) h rfl, satfWrite_bits, fun c log n v => ?_,
    completes_when (fun _ _ => rfl) (fun _ => rfl) (fun _ => rfl) (fun _ _ _ => logwGate_ok) fun _ => rfl,
    completes_when (fun _ _ => rfl) (fun _ => rfl) (fun _ => rfl) (fun _ _ _ => launchGate_ok) fun _ => rfl,
    fun _ _ _ _ _ => exec_tailNotify⟩
  intro d
  rw [show d = _ from csrWrite_fields c log n v]
  refine ⟨rfl, rfl, rfl, rfl, rfl, rfl, rfl, rfl, ?_, rfl⟩
  dsimp only
  split <;> rfl

end Sys2Proof.Laws
end

section
/-!
SUPPORT. Entries of a table and their keys.
-/
namespace Sys2Proof.Machine.Tbl

variable {α : Type}

/-- What a table holds under a key is one of its entries. -/
theorem mem_of_get? {t : Tbl α} {k : Nat} {v : α} (h : t.get? k = some v) : (k, v) ∈ t := by
  induction t with
  | nil => exact absurd h (by simp)
  | cons p r ih =>
    obtain ⟨j, x⟩ := p
    rw [get?_cons] at h
    split at h
    case isTrue same =>
      cases h
      exact same ▸ List.mem_cons_self
    case isFalse => exact List.mem_cons_of_mem _ (ih h)

end Sys2Proof.Machine.Tbl
end

section
/-!
SUPPORT. The launch scheduler's events, and the discard of a partition (spec/09 R253 to R255, R269, R271, R274; spec/19 R420, R421, R429).
-/
namespace Sys2Proof.Laws

open Sys2Proof Sys2Proof.Machine

/-! ### What the events wait for -/

/-- What has met no fault goes on; after a fault, only under another value of REV. -/
theorem revChanged_iff {s : State} {part : Nat} {blocked : Option Nat} :
    revChanged s part blocked = true ↔ ∀ v, blocked = some v → s.counter (s.part part).rev ≠ v := by
  cases blocked <;> simp [revChanged]

/-- A launch is over when it has ended, or when all of its blocks have retired and no core counts work of it, nor a core that its partition has saved. -/
theorem launchOver_iff {s : State} {n : Nat} {l : Launch} : launchOver s n l = true ↔
    l.ended.isSome = true ∨ (l.nextBid = recGrid l.record ∧ l.retired = recGrid l.record ∧ (∀ kv ∈ s.cores, kv.2.launches.getD n 0 = 0) ∧
      ∀ x, (s.part l.partition).shadow = some x → ∀ kv ∈ x.cores, kv.2.launches.getD n 0 = 0) := by
  unfold launchOver
  cases (s.part l.partition).shadow <;> simp [and_assoc]

/-- A head record ages once it has waited for AGELIMIT with its conditions met, while its partition is not saved. -/
theorem ages_of_due {s : State} {p : Pending} {m : Nat} (met : p.metAt = some m) (young : p.aged = none) (present : (s.part p.partition).state ≠ .saved)
    (due : max p.arrived m + p.idle + s.boot.ageLimit ≤ s.ccnt) : ages s p = true := by
  simp only [ages, met, young, Option.isNone_none, Bool.true_and, Bool.and_eq_true, bne_iff_ne, decide_eq_true_eq]
  exact ⟨present, due⟩

/-! ### The events of a record -/

theorem exec_launchAdmission {s : State} {q : LaunchQueue} {p : Pending} {r : List Pending} (head : s.sched.queues.getD (queueKey q) [] = p :: r)
    (due : admits s p = true) : exec (.launchAdmission q) s = .next (s.admission q p) := by
  show execLaunchAdmission q s = _
  simp only [execLaunchAdmission, head, List.head?_cons, due, if_true]

theorem exec_recordAging {s : State} {q : LaunchQueue} {p : Pending} {r : List Pending} (head : s.sched.queues.get? (queueKey q) = some (p :: r))
    (due : ages s p = true) : exec (.recordAging q) s =
      .next { s with sched := { s.sched with queues := s.sched.queues.set (queueKey q) ({ p with aged := some s.ccnt } :: r) } } := by
  show execRecordAging q s = _
  simp only [execRecordAging, head, due, if_true]

theorem exec_blockPlace {s t : State} {n k : Nat} {cores : List Nat} {p : Pending} {l : Launch}
    (head : s.heads.find? (fun x => x.2.launch == some n) = some (k, p)) (placed : placement s k p cores = some t) (turn : servedNext s k p = true)
    (launch : t.launch? n = some l) :
    let u : State := { t with sched := { t.sched with served := t.sched.served.set (recPrio p.record) k } }
    exec (.blockPlace n cores) s = .next (if recGrid l.record ≤ l.nextBid then u.popRecord k else u) := by
  intro u
  have launch' : u.launch? n = some l := launch
  show execBlockPlace n cores s = _
  simp only [execBlockPlace, head, placed, turn, Bool.not_true, Bool.false_eq_true, if_false]
  rw [launch']

theorem exec_launchComplete {s : State} {n : Nat} {l : Launch} (launch : s.launch? n = some l) (finished : launchOver s n l = true)
    (changed : revChanged s l.partition l.blocked = true) : exec (.launchComplete n) s = .next (s.completeLaunch n) := by
  show execLaunchComplete n s = _
  simp only [execLaunchComplete, launch, finished, changed, Bool.and_self, if_true]

/-- The entry of the replay buffer that is due leaves its place, and walks again. -/
theorem exec_replayRetry {s : State} {core i : Nat} {e : ReplayEntry} (due : retryDue s core = some (i, e)) :
    let u := (((s.request (itemParty s core e.item).1 0).retryRecord core i e).modCore core fun c => { c with replay := c.replay.eraseIdx i }).retryItem
      core i { e with room := false }
    exec (.replayRetry core i) s = .next (State.fillReplay (u.core core).replayWait.length core u) := by
  show execReplayRetry core i s = _
  simp only [execReplayRetry, due, bne_self_eq_false, Bool.false_eq_true, if_false]

/-! ### Ending the launches of a partition -/

/-- Memory, the accesses in flight, the warps and the partitions are as they were. -/
structure WorkKept (s t : State) : Prop where
  mem : t.mem = s.mem
  accs : t.accs = s.accs
  warps : t.warps = s.warps
  parts : t.parts = s.parts

theorem WorkKept.trans {s t u : State} (h : WorkKept s t) (k : WorkKept t u) : WorkKept s u :=
  ⟨k.mem.trans h.mem, k.accs.trans h.accs, k.warps.trans h.warps, k.parts.trans h.parts⟩

theorem popRecord_workKept (s : State) (k : Nat) : WorkKept s (s.popRecord k) := by
  unfold State.popRecord
  dsimp only
  split <;> exact ⟨rfl, rfl, rfl, rfl⟩

theorem popRecord_launch? (s : State) (k n : Nat) : (s.popRecord k).launch? n = s.launch? n := by
  unfold State.popRecord
  dsimp only
  split <;> rfl

/-- A launch as it stands after its end. -/
def endedAs (x : LaunchEnd) (l : Launch) : Launch := { l with ended := some x }

/-- One launch ends; a queue whose head it is goes on. -/
def endOne (f : Nat → LaunchEnd) (s : State) (kv : Nat × Launch) : State :=
  let t := s.modLaunch kv.1 (endedAs (f kv.1))
  match t.heads.find? fun h => h.2.launch == some kv.1 with
  | some h => t.popRecord h.1
  | none => t

theorem endLaunches_eq (s : State) (p : Nat) (f : Nat → LaunchEnd) : s.endLaunches p f =
    (s.sched.launches.filter fun kv => kv.2.partition == p && decide (0 < kv.2.nextBid) && !launchOver s kv.1 kv.2).foldl (endOne f) s := rfl

theorem endOne_workKept (f : Nat → LaunchEnd) (s : State) (kv : Nat × Launch) : WorkKept s (endOne f s kv) := by
  have changed : WorkKept s (s.modLaunch kv.1 (endedAs (f kv.1))) := ⟨rfl, rfl, rfl, rfl⟩
  unfold endOne
  dsimp only
  split
  · exact changed.trans (popRecord_workKept _ _)
  · exact changed

theorem endOne_launch? (f : Nat → LaunchEnd) (s : State) (kv : Nat × Launch) (n : Nat) :
    (endOne f s kv).launch? n = if kv.1 = n then (s.launch? n).map (endedAs (f n)) else s.launch? n := by
  have changed : (s.modLaunch kv.1 (endedAs (f kv.1))).launch? n = if kv.1 = n then (s.launch? n).map (endedAs (f n)) else s.launch? n := by
    rw [State.launch?, State.modLaunch, Tbl.get?_modify]
    split
    case isTrue same => rw [same]; rfl
    case isFalse => rfl
  unfold endOne
  dsimp only
  split
  · rw [popRecord_launch?, changed]
  · exact changed

theorem foldl_endOne_workKept (f : Nat → LaunchEnd) (l : List (Nat × Launch)) (s : State) : WorkKept s (l.foldl (endOne f) s) := by
  induction l generalizing s with
  | nil => exact ⟨rfl, rfl, rfl, rfl⟩
  | cons kv r ih => exact (endOne_workKept f s kv).trans (ih _)

/-- Launches that end one after another have ended as each is to; to end twice is to end once. -/
theorem foldl_endOne_launch? (f : Nat → LaunchEnd) (l : List (Nat × Launch)) (s : State) (n : Nat) :
    (l.foldl (endOne f) s).launch? n = if n ∈ l.map (·.1) then (s.launch? n).map (endedAs (f n)) else s.launch? n := by
  induction l generalizing s with
  | nil => rfl
  | cons kv r ih =>
    rw [List.foldl_cons, ih, endOne_launch?]
    by_cases here : kv.1 = n
    · cases s.launch? n <;> simp [here, endedAs]
    · simp only [if_neg here, List.map_cons, List.mem_cons, Ne.symm here, false_or]

theorem endLaunches_workKept (s : State) (p : Nat) (f : Nat → LaunchEnd) : WorkKept s (s.endLaunches p f) := foldl_endOne_workKept f _ s

/-- A launch of the partition that has placed blocks and is not over ends. -/
theorem endLaunches_launch?_of_ends {s : State} {p n : Nat} {l : Launch} (f : Nat → LaunchEnd) (launch : s.launch? n = some l) (own : l.partition = p)
    (placed : 0 < l.nextBid) (running : launchOver s n l = false) : (s.endLaunches p f).launch? n = some { l with ended := some (f n) } := by
  rw [endLaunches_eq, foldl_endOne_launch?, if_pos, launch]
  · rfl
  · refine List.mem_map.mpr ⟨(n, l), List.mem_filter.mpr ⟨Tbl.mem_of_get? launch, ?_⟩, rfl⟩
    simp [own, placed, running]

/-- Every other launch stays as it is. -/
theorem endLaunches_launch?_of_stays {s : State} {p n : Nat} (f : Nat → LaunchEnd)
    (stays : ∀ l, (n, l) ∈ s.sched.launches → ¬ (l.partition = p ∧ 0 < l.nextBid ∧ launchOver s n l = false)) :
    (s.endLaunches p f).launch? n = s.launch? n := by
  rw [endLaunches_eq, foldl_endOne_launch?, if_neg]
  intro ends
  obtain ⟨⟨k, l⟩, found, rfl⟩ := List.mem_map.mp ends
  obtain ⟨entry, test⟩ := List.mem_filter.mp found
  refine stays l entry ?_
  simpa [and_assoc] using test

/-! ### The discard -/

/-- How a launch of a discarded partition ends: with STATUS 4, the first trap's launch with DETAIL 0 and its record (spec/19 R420). -/
def discardEnd (first : Nat) (record : BitVec 256) (n : Nat) : LaunchEnd :=
  { status := 4, detail := if n = first then 0 else 1, trap := if n = first then record else 0 }

/-- A discard ends the partition's launches, and takes its accesses, the warps of its cores and the trap that caused it. -/
theorem exec_discard {s : State} {n first : Nat} {record : BitVec 256} (due : (s.part n).discarding = some (first, record)) :
    ∃ t, exec (.discard n) s = .next t ∧ t.mem = s.mem ∧ (t.part n).discarding = none ∧
      t.accs = s.accs.filter (fun a => a.partition != n) ∧
      t.warps = s.warps.filter (fun kv =>
        !(kv.1 < Config.groups * Config.warpSlots && (s.part n).set.testBit (kv.1 / Config.warpSlots / 2 / 18))) ∧
      ∀ k, t.launch? k = (s.endLaunches n (discardEnd first record)).launch? k := by
  have kept := endLaunches_workKept s n (discardEnd first record)
  show ∃ t, execDiscard n s = .next t ∧ _
  simp only [execDiscard, due]
  refine ⟨_, rfl, kept.mem, ?_, congrArg _ kept.accs, congrArg _ kept.warps, fun k => rfl⟩
  rw [State.modPart_part]

/-- Settles O55: each event runs once what it waits for has come, and a discard ends exactly the launches of its partition that have blocks placed and are not
over. -/
theorem schedulerEventsComplete : Obligations.SchedulerEventsComplete := by
  refine ⟨fun s q p r head fresh changed ready => exec_launchAdmission head ?_,
    fun s q p r m head met young present due => exec_recordAging head (ages_of_due met young present due),
    fun s n cores k p t l => exec_blockPlace,
    fun s n l launch finished changed => exec_launchComplete launch (launchOver_iff.mpr finished) (revChanged_iff.mpr changed),
    fun s n first record due => ?_,
    fun s core i e due => ⟨_, exec_replayRetry due, rfl⟩⟩
  · simp [admits, fresh, revChanged_iff.mpr changed, ready]
  · obtain ⟨t, runs, mem, finished, accs, warps, launches⟩ := exec_discard due
    refine ⟨t, runs, mem, finished, fun a ha => ?_, fun a ha other => ?_, fun k w hw slot => ?_, fun k l launch own placed running => ?_, fun k stays => ?_⟩
    · rw [accs] at ha
      simpa using (List.mem_filter.mp ha).2
    · rw [accs]
      exact List.mem_filter.mpr ⟨ha, by simpa using other⟩
    · have entry := Tbl.mem_of_get? hw
      rw [warps] at entry
      simpa [slot] using (List.mem_filter.mp entry).2
    · rw [launches]
      exact endLaunches_launch?_of_ends _ launch own placed running
    · rw [launches]
      exact endLaunches_launch?_of_stays _ stays

end Sys2Proof.Laws
end

section
/-!
SUPPORT. Memory as data: what a byte reads as after a run of writes, and that memories in canonical form are equal when they read alike (spec/11 R302).
-/
namespace Sys2Proof.Laws

open Sys2Proof Sys2Proof.Machine

theorem memGet_memWrite (m : List Host.Cell) (a : Nat) (l : List Byte) (b : Nat) :
    memGet (memWrite m a l) b = if a ≤ b ∧ b < a + l.length then l.getD (b - a) 0 else memGet m b := by
  induction l generalizing m a with
  | nil => rw [if_neg (by simp)]; rfl
  | cons v r ih =>
    simp only [memWrite, ih, memGet_memPut, List.length_cons]
    rcases Nat.lt_trichotomy b a with below | rfl | beyond
    · rw [if_neg (by omega), if_neg (by omega), if_neg (by omega)]
    · rw [if_neg (by omega), if_pos rfl, if_pos (by omega), Nat.sub_self, List.getD_cons_zero]
    · have next : b - a = (b - (a + 1)) + 1 := by omega
      simp only [next, List.getD_cons_succ, show b ≠ a by omega, if_false]
      congr 1
      exact propext ⟨fun h => by omega, fun h => by omega⟩

theorem memGet_memWrite_within (m : List Host.Cell) (a : Nat) (l : List Byte) {i : Nat} (hi : i < l.length) :
    memGet (memWrite m a l) (a + i) = l.getD i 0 := by
  rw [memGet_memWrite, if_pos (by omega), Nat.add_sub_cancel_left]

/-- The bytes just written are read back. -/
theorem memRead_memWrite (m : List Host.Cell) (a : Nat) (l : List Byte) : memRead (memWrite m a l) a l.length = l := by
  rw [memRead_eq]
  refine List.ext_getElem (by simp) fun i hi hl => ?_
  simp [memGet_memWrite_within m a l hl, hl]

theorem memGet_of_above {m : List Host.Cell} {a : Nat} (h : above a m) {b : Nat} (hb : b ≤ a) : memGet m b = memDefault := by
  induction m with
  | nil => rfl
  | cons c r ih =>
    have ha : a < c.1 := h c List.mem_cons_self
    rw [memGet, if_neg (by omega)]
    exact ih fun c hc => h c (List.mem_cons_of_mem _ hc)

/-- The first address of a memory in canonical form is the first that does not read as the default byte. -/
theorem memGet_before_head {a : Nat} {v : Byte} {m : List Host.Cell} (h : Memory.wf ((a, v) :: m) = true) {b : Nat} (hb : b < a) :
    memGet ((a, v) :: m) b = memDefault := by
  obtain ⟨-, ha, -⟩ := (wf_cons a v m).mp h
  rw [memGet, if_neg (by omega)]
  exact memGet_of_above ha hb.le

theorem memGet_head (a : Nat) (v : Byte) (m : List Host.Cell) : memGet ((a, v) :: m) a = v := by
  rw [memGet, if_pos rfl]

/-- Memories in canonical form that read alike begin with the same address. -/
theorem head_not_before {a b : Nat} {v x : Byte} {m n : List Host.Cell} (hm : Memory.wf ((a, v) :: m) = true) (hn : Memory.wf ((b, x) :: n) = true)
    (same : ∀ k, memGet ((a, v) :: m) k = memGet ((b, x) :: n) k) : ¬ a < b := fun before => by
  obtain ⟨hv, -, -⟩ := (wf_cons a v m).mp hm
  exact hv (by rw [← memGet_head a v m, same a, memGet_before_head hn before])

theorem eq_of_memGet_eq {m n : List Host.Cell} (hm : Memory.wf m = true) (hn : Memory.wf n = true) (same : ∀ a, memGet m a = memGet n a) : m = n := by
  induction m generalizing n with
  | nil =>
    cases n with
    | nil => rfl
    | cons c r =>
      obtain ⟨hv, -, -⟩ := (wf_cons c.1 c.2 r).mp hn
      exact absurd ((memGet_head c.1 c.2 r).symm.trans (same c.1).symm) hv
  | cons c r ih =>
    obtain ⟨a, v⟩ := c
    obtain ⟨hv, ha, hr⟩ := (wf_cons a v r).mp hm
    cases n with
    | nil => exact absurd ((memGet_head a v r).symm.trans (same a)) hv
    | cons d l =>
      obtain ⟨b, x⟩ := d
      obtain ⟨-, hb, hl⟩ := (wf_cons b x l).mp hn
      obtain rfl : a = b := Nat.le_antisymm (Nat.le_of_not_lt (head_not_before hn hm fun k => (same k).symm)) (Nat.le_of_not_lt (head_not_before hm hn same))
      obtain rfl : v = x := by rw [← memGet_head a v r, same a, memGet_head]
      rw [ih hr hl fun k => ?_]
      rcases Nat.lt_or_ge a k with beyond | upTo
      · have := same k
        rwa [memGet, memGet, if_neg (by omega), if_neg (by omega)] at this
      · rw [memGet_of_above ha upTo, memGet_of_above hb upTo]

/-- Settles O19: reading after one write and after a run of writes, and the canonical form as the only list of its bytes. -/
theorem memoryReadsWhatWasWritten : Obligations.MemoryReadsWhatWasWritten := by
  refine ⟨memGet_memPut, memGet_memWrite, fun m a v => memPut_wf a v, fun m a l => memWrite_wf a l, fun m n => eq_of_memGet_eq, fun m a n v small => ?_⟩
  have back := memRead_memWrite m a (natLe n v)
  rw [length_natLe] at back
  rw [back, leNat_natLe, Nat.mod_eq_of_lt small]

end Sys2Proof.Laws
end

section
/-!
SUPPORT. The canonical form of memory as a property of a state, and that the operations which all instructions share keep it (spec/11 R302).
-/
namespace Sys2Proof.Laws

open Sys2Proof Sys2Proof.Machine

set_option Elab.async false

/-- Memory has its canonical form. -/
def Canonical (s : State) : Prop := Memory.wf s.mem = true

namespace Canonical

variable {s t : State}

theorem of_mem (h : Canonical s) (same : t.mem = s.mem) : Canonical t := by
  unfold Canonical
  rwa [same]

/-- An update of other fields keeps the form. -/
theorem frame (h : Canonical s) (same : t.mem = s.mem := by rfl) : Canonical t := h.of_mem same

theorem steered (h : Canonical s) (k : Steered s t) : Canonical t := h.of_mem k.undisturbed.mem
theorem undisturbed (h : Canonical s) (k : Undisturbed s t) : Canonical t := h.of_mem k.mem
theorem ordered (h : Canonical s) (k : Ordered s t) : Canonical t := h.of_mem k.undisturbed.mem

theorem ite {p : Prop} [Decidable p] (h : Canonical s) (k : Canonical t) : Canonical (if p then s else t) := by
  split
  · exact h
  · exact k

theorem foldl {α : Type} {f : State → α → State} (step : ∀ {s} x, Canonical s → Canonical (f s x)) (l : List α) (h : Canonical s) :
    Canonical (l.foldl f s) := by
  induction l generalizing s with
  | nil => exact h
  | cons x l ih => exact ih (step x h)

/-! ### Parties, flags and results -/

theorem setPc (h : Canonical s) {p pc} : Canonical (s.setPc p pc) := h.steered (.setPc s p pc)
theorem setWait (h : Canonical s) {p r} : Canonical (s.setWait p r) := h.steered (.setWait s p r)
theorem setSynced (h : Canonical s) {p v} : Canonical (s.setSynced p v) := h.steered (.setSynced s p v)
theorem setSlept (h : Canonical s) {p v} : Canonical (s.setSlept p v) := h.steered (.setSlept s p v)
theorem jump (h : Canonical s) {p pc} : Canonical (s.jump p pc) := h.steered (.jump s p pc)
theorem advance (h : Canonical s) {e n} : Canonical (s.advance e n) := h.steered (.advance s e n)
theorem rouse (h : Canonical s) {core cause} : Canonical (s.rouse core cause) := h.steered (.rouse s core cause)
theorem orBlockFlags (h : Canonical s) {l b f} : Canonical (s.orBlockFlags l b f) := h.steered (.orBlockFlags s l b f)
theorem commit (h : Canonical s) {e lat o} : Canonical (s.commit e lat o) := h.steered (.commit s e lat o)
theorem send (h : Canonical s) {e lat l} : Canonical (s.send e lat l) := h.steered (.send s e lat l)
theorem raiseFlags (h : Canonical s) {e f} : Canonical (s.raiseFlags e f) := h.steered (.raiseFlags s e f)
theorem account (h : Canonical s) {p pc l} : Canonical (s.account p pc l) := h.steered (account_steered s p pc l)
theorem takePorts (h : Canonical s) {p x} : Canonical (s.takePorts p x) := h.steered (takePorts_steered s p x)
theorem serviceSlot (h : Canonical s) {p b} : Canonical (s.serviceSlot p b) := h.steered (serviceSlot_steered s p b)

/-! ### Errors of memory -/

theorem rasAdd (h : Canonical s) {addr unit detail kind cls die} : Canonical (s.rasAdd addr unit detail kind cls die) := .ite h h

theorem countCe (h : Canonical s) {die cls addr unit} : Canonical (s.countCe die cls addr unit) := .ite h.frame.rasAdd h

theorem countUe (h : Canonical s) {die cls addr unit kind} : Canonical (s.countUe die cls addr unit kind) := h.frame.rasAdd

theorem noteRow (h : Canonical s) {line hard} : Canonical (s.noteRow line hard) := .ite (.ite h h) h

theorem memoryUe (h : Canonical s) {pa cls kind} : Canonical (s.memoryUe pa cls kind) := (h.noteRow.ite h).countUe

theorem meetUe (h : Canonical s) {core part pa t} : Canonical (s.meetUe core part pa t) := .ite h (.ite h.rasAdd h.memoryUe)

theorem correct (h : Canonical s) {line} : Canonical (s.correct line) := h.undisturbed (correct_undisturbed s line)

theorem correctWalk (h : Canonical s) {part va} : Canonical (s.correctWalk part va) := h.undisturbed (correctWalk_undisturbed s part va)

theorem learn (h : Canonical s) {core l} : Canonical (s.learn core l) := h.undisturbed (learn_undisturbed s core l)

theorem unpoisonAll (h : Canonical s) {pas} : Canonical (s.unpoisonAll pas) := h.of_mem (unpoisonAll_keeps s pas).1

theorem noteCode (h : Canonical s) {core agent pas} : Canonical (s.noteCode core agent pas) := .ite h h

/-! ### Stores of the part's own units -/

theorem putUnit (h : Canonical s) {pa l} : Canonical (s.putUnit pa l) := by
  have written : Canonical { s with mem := memWrite s.mem pa l } := memWrite_wf pa l h
  refine .ite h ?_
  split
  · exact h.memoryUe
  · exact written.unpoisonAll.noteCode

theorem unitWrite (h : Canonical s) {pa n v} : Canonical (s.unitWrite pa n v) := .ite h h.putUnit

theorem flushLate (h : Canonical s) {n} : Canonical (State.flushLate n s) := by
  induction n generalizing s with
  | zero => exact h
  | succ n ih =>
    unfold State.flushLate
    split
    · exact h
    · exact .ite h (ih h.frame.putUnit)

theorem forgets (h : Canonical s) (l : List Nat) : Canonical (l.foldl State.forget s) := h.foldl (fun _ k => k.frame) l

theorem addCounter (h : Canonical s) {c n} : Canonical (s.addCounter c n) := h.forgets (tevParts s c)

theorem postFault (h : Canonical s) {part core va acc kind level} : Canonical (s.postFault part core va acc kind level) :=
  .ite h (.ite h.unitWrite.frame.addCounter (h.unitWrite.frame.forgets _))

/-! ### Logs -/

theorem request (h : Canonical s) {g kind} : Canonical (s.request g kind) := .ite (.ite h h.frame.rouse) h

theorem reserveLog (h : Canonical s) {part g kind n} : Canonical (s.reserveLog part g kind n) := by
  unfold State.reserveLog
  split
  · exact h
  · exact .ite h.frame.request h

theorem appendLog (h : Canonical s) {part kind r} : Canonical (s.appendLog part kind r) := by
  unfold State.appendLog
  split
  · exact h
  · exact .ite h h.unitWrite.unitWrite.frame

theorem decision (h : Canonical s) {part core g wid kind v0 v1} : Canonical (s.decision part core g wid kind v0 v1) := .ite h.reserveLog.appendLog.frame h

theorem userRecord (h : Canonical s) {part core g key wid kind tag v0 v1} : Canonical (s.userRecord part core g key wid kind tag v0 v1) :=
  .ite h.reserveLog.appendLog.frame h

theorem stopRecord (h : Canonical s) {part core g key wid kind tag v0 v1} : Canonical (s.stopRecord part core g key wid kind tag v0 v1) :=
  .ite h (.ite h.userRecord h)

theorem askRoom (h : Canonical s) {l code own} : Canonical (s.askRoom l code own) := h.foldl (fun _ k => k.frame) _

theorem order (h : Canonical s) {line code own wrote access} : Canonical (s.order line code own wrote access) := by
  unfold State.order
  split
  · exact h
  · dsimp only
    split
    · exact h.appendLog.frame
    · exact h

/-! ### Traps -/

theorem startDiscard (h : Canonical s) {part launch r} : Canonical (s.startDiscard part launch r) := .ite h h

theorem takeTrap (h : Canonical s) {p pc locked t} : Canonical (s.takeTrap p pc locked t) := by
  unfold State.takeTrap
  cases p with
  | seq c => exact h.startDiscard
  | service g => exact h.startDiscard
  | path g sl i =>
    refine .ite h ?_
    dsimp only
    split
    · exact h
    · exact h.frame.startDiscard
  | thread g sl =>
    dsimp only
    split
    · exact h
    · exact h.frame.startDiscard

theorem returnFromTrap (h : Canonical s) {p target} : Canonical (s.returnFromTrap p target) := by cases p <;> exact h

theorem stop (h : Canonical s) {p pc t} : Canonical (s.stop p pc t) := by
  unfold State.stop
  split
  · exact h
  · split
    · exact .ite h h.frame.stopRecord
    · exact h.frame.stopRecord
    · exact h

theorem leaveCopyQueue (h : Canonical s) {p} : Canonical (s.leaveCopyQueue p) := by cases p <;> exact h

theorem raise (h : Canonical s) {p pc locked t} : Canonical (s.raise p pc locked t) :=
  .ite h.leaveCopyQueue.meetUe.stop h.leaveCopyQueue.meetUe.takeTrap

/-! ### The issue of an item -/

theorem logDecisions (h : Canonical s) {e} : Canonical (s.logDecisions e) := by
  unfold State.logDecisions
  split
  · refine (ite h ?_).frame
    dsimp only
    split
    · exact (ite h.decision h).decision
    · exact .ite h.decision h
  · exact .ite h h.decision
  · exact h

theorem endItem (h : Canonical s) {e after t} (ends : endItem e after s = some t) : Canonical t := by
  unfold Machine.endItem at ends
  split at ends
  · cases ends; exact h
  · simp only at ends
    split at ends
    · cases ends; exact h
    · split at ends
      · cases ends
      · cases ends; exact h

theorem accountTrap (h : Canonical s) {p pc l} : Canonical (s.accountTrap p pc l) := .ite h.account.frame h.account

theorem trapItem (h : Canonical s) {c l t} : Canonical (s.trapItem c l t) := h.accountTrap.raise

end Canonical

end Sys2Proof.Laws
end

section
/-!
SUPPORT. The canonical form of memory through the issue and the performance of accesses (spec/07 R186 to R200; spec/11 R302).
-/
namespace Sys2Proof.Laws

open Sys2Proof Sys2Proof.Machine

set_option Elab.async false

/-- What a translated access, a unit's action and a performance leave has canonical memory. -/
def resolvedCanonical : Resolved → Prop
  | .ok t _ => Canonical t
  | _ => True

def unitCanonical : UnitRes → Prop
  | .ok t _ => Canonical t
  | _ => True

def performedCanonical : Performed → Prop
  | .ok t => Canonical t
  | _ => True

namespace Canonical

variable {s : State}

theorem foldl_fst {α β : Type} {f : State × β → α → State × β} (step : ∀ x a, Canonical x.1 → Canonical (f x a).1) (l : List α) {x : State × β}
    (h : Canonical x.1) : Canonical (l.foldl f x).1 := by
  induction l generalizing x with
  | nil => exact h
  | cons a l ih => exact ih (step x a h)

/-! ### Stores -/

theorem storeBytes (h : Canonical s) {core pas vs} : Canonical (s.storeBytes core pas vs) := storeBytes_wf core pas vs h

theorem storeByte (h : Canonical s) {core pa v} : Canonical (s.storeByte core pa v) := storeByte_wf core pa v h

/-! ### Caches, tiles and buffer elements -/

theorem fillFor (h : Canonical s) {core acquired cache line} : Canonical (s.fillFor core acquired cache line) :=
  h.of_mem (Fetches.fillFor (core := core) s core acquired cache line).mem

theorem dropLines (h : Canonical s) {core pas} : Canonical (s.dropLines core pas) := h.of_mem (Fetches.dropLines (core := core) s core pas).mem

theorem loadBytes (h : Canonical s) {v rc l} : Canonical (s.loadBytes v rc l).1 := h.foldl (fun _ k => .ite k (.ite k.fillFor k.dropLines)) l

theorem buildTile (h : Canonical s) {v line sr blk gen main scale} : Canonical (s.buildTile v line sr blk gen main scale).1 := by
  unfold State.buildTile
  dsimp only
  split
  · exact h
  · exact h.loadBytes.loadBytes.frame

theorem loadElem (h : Canonical s) {v x} : Canonical (s.loadElem v x).1 := by
  unfold State.loadElem
  dsimp only
  split
  · exact h
  · split
    · exact h.buildTile
    · split
      · exact h.loadBytes.loadBytes
      · exact h.loadBytes

theorem loadLane (h : Canonical s) {v word c} : Canonical (s.loadLane v word c).1 := by
  refine foldl_fst (fun _ _ k => ?_) _ (x := (s, 0, 0)) h
  exact k.loadElem

theorem storeElem (h : Canonical s) {core pages x value done} : Canonical (s.storeElem core pages x value done) := .ite h h.storeBytes

theorem storeLane (h : Canonical s) {core pages b j word c data done} : Canonical (s.storeLane core pages b j word c data done) :=
  h.foldl (fun _ k => k.storeElem) _

theorem putVas (h : Canonical s) {a vas} : Canonical (s.putVas a vas) := (h.foldl (fun _ k => .ite k k.storeByte) vas).frame

/-! ### The Pantry's unit -/

theorem putField (h : Canonical s) {core base slot k lo w v} : Canonical (s.putField core base slot k lo w v) := h.storeBytes

theorem ula (h : Canonical s) {core base slot list} : Canonical (s.ula core base slot list).1 := by
  unfold State.ula
  dsimp only
  split
  · exact h
  · have unlinked : Canonical (s.unlink core base slot) := (ite (ite h.putField h.putField).putField (ite h.putField h.putField).putField).putField
    exact (ite unlinked.putField unlinked.putField).putField.putField.storeBytes

theorem countInc (h : Canonical s) {core p token} : Canonical (s.countInc core p token).1 := by
  unfold State.countInc
  split
  · exact h
  · split
    · exact h
    · exact h.storeBytes

theorem unitAction (h : Canonical s) {k core part va pa data} : unitCanonical (unitAction s k core part va pa data) := by
  unfold Machine.unitAction
  split
  · trivial
  · split
    · exact h.ula
    · exact h
    · exact h.storeBytes
    · exact h.storeBytes
    · exact h.putField.putField
    · split
      · trivial
      · exact h
      · exact h.countInc
    · split
      · trivial
      · exact h
      · exact h
    · exact h.putField
    · exact h

/-! ### Translation and issue -/

theorem resolveRanges (h : Canonical s) {a} : resolvedCanonical (resolveRanges s a) := by
  unfold Machine.resolveRanges
  dsimp only
  split
  · trivial
  · trivial
  · split
    · trivial
    · split
      · trivial
      · exact h

theorem readRecord (h : Canonical s) {a j} : resolvedCanonical (readRecord s a j).1 := by
  unfold Machine.readRecord
  dsimp only
  split
  · trivial
  · trivial
  · split
    · trivial
    · split
      · trivial
      · exact h.learn.loadBytes

theorem readRecord_eq (h : Canonical s) {a j o x} (eq : Machine.readRecord s a j = (o, x)) : resolvedCanonical o := by
  have read := h.readRecord (a := a) (j := j)
  rwa [eq] at read

theorem resolve (h : Canonical s) {a} : resolvedCanonical (resolve s a) := by
  unfold Machine.resolve
  dsimp only
  split
  case h_3 =>
    split
    · exact h
    · exact h.resolveRanges
  all_goals
    split
    · exact h.resolveRanges
    · split
      · rename_i t r x read
        have first : Canonical t := h.readRecord_eq read
        have rest {p : Prop} [Decidable p] {u : State} {o b} (k : Canonical u) : resolvedCanonical (if p then .trap o else Machine.resolveRanges u b) := by
          split
          · trivial
          · exact k.resolveRanges
        split
        · trivial
        · split
          · exact rest first
          · split
            · rename_i u c y scale
              have second : Canonical u := first.readRecord_eq scale
              split
              · exact rest second
              · trivial
            · exact first.readRecord_eq ‹_›
      · exact h.readRecord_eq ‹_›

theorem resolve_ok (h : Canonical s) {a t b} (eq : Machine.resolve s a = .ok t b) : Canonical t := by
  have resolved := h.resolve (a := a)
  rwa [eq] at resolved

theorem releaseLog (h : Canonical s) {part kind n} : Canonical (s.releaseLog part kind n) := h

theorem enterReplay (h : Canonical s) {core part item quiet room fault} : Canonical (s.enterReplay core part item quiet room fault) := by
  unfold State.enterReplay
  refine .ite h ?_
  split
  · exact h.frame.postFault
  · exact h

theorem readRecords (h : Canonical s) {a} : Canonical (s.readRecords a) := h.foldl (fun _ k => .ite k.correct k.correct.order) _

theorem enter (h : Canonical s) {a} : Canonical (s.enter a) := by
  unfold State.enter
  extract_lets b numbered counted log
  have counts : Canonical counted := .ite h h
  have logs {t c r} (k : Canonical t) : Canonical (log t c r).1 := .ite (reserveLog (.ite k k.reserveLog)) (.ite k k.reserveLog)
  split
  · rename_i t c eq
    have resolved : Canonical t := counts.resolve_ok eq
    split
    · exact (logs counts).frame.enterReplay
    · exact (logs (.ite resolved resolved.learn)).frame.readRecords
  · exact (logs counts).frame.enterReplay
  · exact counts

theorem watch (h : Canonical s) {p a} : Canonical (s.watch p a) := by
  unfold State.watch
  refine .ite (.ite h.setWait h) ?_
  split
  · exact h
  · exact h.frame.setWait

theorem watchLate (h : Canonical s) {a} : Canonical (s.watchLate a) := by
  unfold State.watchLate
  split
  · exact .ite h.setWait.watch h
  · exact h

theorem countAtomic (h : Canonical s) {p} : Canonical (s.countAtomic p) := h.steered (.countAtomic s p)

theorem issueAccess (h : Canonical s) {e a} : Canonical (s.issueAccess e a) := by
  unfold State.issueAccess
  refine .ite h ?_
  have entered {b} {p : Prop} [Decidable p] : Canonical (if p then (s.enter b).countAtomic e.party else s.enter b) := .ite h.enter.countAtomic h.enter
  dsimp only
  split
  · exact .ite entered entered.watch
  · exact entered

/-! ### The performance of an access -/

theorem recordLines (h : Canonical s) {a kind write l} : Canonical (s.recordLines a kind write l) :=
  h.foldl (fun _ k => .ite (.ite k k.correct) (order (.ite k k.correct))) _

theorem record (h : Canonical s) {a kind write} : Canonical (s.record a kind write) := h.recordLines

theorem loadLaneBytes (h : Canonical s) {v l} : Canonical (s.loadLaneBytes v l).1 := h.loadBytes

theorem loadLanes (h : Canonical s) {a v signed n l} : Canonical (loadLanes a v signed n l s).1 := by
  induction l generalizing s n with
  | nil => exact h
  | cons l r ih => exact ih h.loadLaneBytes

theorem ldbLanes (h : Canonical s) {a v word n l} : Canonical (ldbLanes a v word n l s).1 := by
  induction l generalizing s n with
  | nil => exact h
  | cons l r ih => exact ih h.loadLane

theorem watched (h : Canonical s) {a vals} : Canonical (s.watched a vals) := h.of_mem (watched_readsOnly s a vals).mem

theorem watchNow (h : Canonical s) {e a l} : Canonical (s.watchNow e a l) := by
  unfold State.watchNow
  split
  · exact h
  · exact h.frame.setWait.request

theorem deliver (h : Canonical s) {a vals} : Canonical (s.deliver a vals) := h.of_mem (deliver_mem s a vals)
theorem finish (h : Canonical s) {a} : Canonical (s.finish a) := h.of_mem (finish_keeps s a).1
theorem complete (h : Canonical s) {a vals} : Canonical (s.complete a vals) := h.of_mem (complete_mem s a vals)
theorem sendOrFinish (h : Canonical s) {a vals} : Canonical (s.sendOrFinish a vals) := h.of_mem (sendOrFinish_mem s a vals)
theorem flagAccess (h : Canonical s) {a flags} : Canonical (s.flagAccess a flags) := h.of_mem (flagAccess_readsOnly s a flags).mem

theorem actLane (h : Canonical s) {a l} : Canonical (s.actLane a l).1 := .ite h h.storeBytes

theorem actLanes (h : Canonical s) {a n l} : Canonical (actLanes a n l s).1 := by
  induction l generalizing s n with
  | nil => exact h
  | cons l r ih =>
    unfold Machine.actLanes
    split
    · exact ih h
    · dsimp only
      split
      · exact ih h
      · exact ih h.actLane

theorem storeLanes (h : Canonical s) {a l} : Canonical (storeLanes a l s) := by
  induction l generalizing s with
  | nil => exact h
  | cons l r ih => exact ih (.ite h (.ite h.storeBytes h.storeBytes))

theorem unitAction_ok (h : Canonical s) {k core part va pa data t v} (eq : Machine.unitAction s k core part va pa data = .ok t v) : Canonical t := by
  have acted := h.unitAction (k := k) (core := core) (part := part) (va := va) (pa := pa) (data := data)
  rwa [eq] at acted

theorem performAccess (h : Canonical s) {a} : performedCanonical (performAccess s a) := by
  unfold Machine.performAccess
  extract_lets +onlyGivenNames pas vas va r t u atomic
  have acted : performedCanonical atomic := sendOrFinish (.ite h.actLanes.flagAccess h.actLanes.flagAccess.record)
  split
  case h_1 =>
    split
    · trivial
    · exact h.loadLanes.record.complete
  case h_2 =>
    split
    · exact h.frame.complete
    · split
      · trivial
      · exact h.storeLanes.unpoisonAll.record.sendOrFinish
  case h_3 | h_4 =>
    split
    · split
      · exact acted
      · trivial
    · exact acted
  case h_5 =>
    split
    · trivial
    · exact h.ldbLanes.flagAccess.record.complete
  case h_6 =>
    split
    · trivial
    · exact (h.foldl (fun _ k => k.storeLane) _).unpoisonAll.record.sendOrFinish
  case h_7 =>
    split
    · trivial
    · exact h.loadBytes.record.watched.frame.finish
  case h_8 =>
    split
    · trivial
    · exact h.loadBytes.record.watched.frame
  case h_9 =>
    extract_lets +onlyGivenNames data
    split
    · exact h.finish
    · extract_lets pas
      split
      · trivial
      · exact h.storeBytes.unpoisonAll.noteCode.recordLines.frame.finish
  case h_10 | h_11 =>
    extract_lets +onlyGivenNames c vals gs t
    have taken : Canonical t := by
      simp only [t]
      split <;> exact h
    exact taken.complete
  case h_12 =>
    extract_lets +onlyGivenNames data
    split
    · trivial
    · split
      · trivial
      · rename_i eq
        exact (h.unitAction_ok eq).dropLines.record.complete

theorem performAccess_ok (h : Canonical s) {a t} (eq : Machine.performAccess s a = .ok t) : Canonical t := by
  have performed := h.performAccess (a := a)
  rwa [eq] at performed

theorem accessTrap (h : Canonical s) {a t} : Canonical (s.accessTrap a t) := h.meetUe.startDiscard

theorem tryPerform (h : Canonical s) {a} : Canonical (s.tryPerform a) := by
  unfold State.tryPerform
  refine .ite h ?_
  split
  · rename_i t eq
    have performed : Canonical t := h.performAccess_ok eq
    exact .ite performed.noteCode performed
  · exact h.accessTrap

theorem pipe (h : Canonical s) {i} : Canonical (s.pipe i) := by
  unfold State.pipe
  split
  · exact .ite h h
  · exact h

theorem mark (h : Canonical s) {i l} : Canonical (s.mark i l) := h

theorem accessPart (h : Canonical s) {i n va} : Canonical (s.accessPart i n va) := by
  unfold State.accessPart
  split
  · exact h
  · refine .ite h ?_
    split
    · exact h
    · dsimp only
      split
      case h_1 | h_2 | h_3 | h_4 => exact .ite h h.loadBytes.mark
      case h_5 | h_6 => exact .ite h (.ite h h.putVas.noteCode)
      case h_7 | h_8 => exact .ite h h.actLane.mark
      case h_9 => exact h

theorem refuseAtomic (h : Canonical s) {i} : Canonical (s.refuseAtomic i) := by
  unfold State.refuseAtomic
  split
  · exact .ite h h.accessTrap
  · exact h

end Canonical

end Sys2Proof.Laws
end

section
/-!
SUPPORT. The canonical form of memory through the gates and the effects of the instructions (spec/11 R302).
-/
namespace Sys2Proof.Laws

open Sys2Proof Sys2Proof.Machine

set_option Elab.async false

/-- The state that a gate holds its issuer in has canonical memory. -/
def gateCanonical : Gate → Prop
  | .hold t _ => Canonical t
  | _ => True

/-- So have what a fetch leaves, the end of a loop, the address a handler returns to, and the unit that an item has reached. -/
def fetchedCanonical : Fetched → Prop
  | .ok t _ => Canonical t
  | _ => True

def afterEndCanonical : AfterEnd → Prop
  | .at t _ => Canonical t
  | .gate g => gateCanonical g

def returnCanonical : Return → Prop
  | .to t _ => Canonical t
  | .gate g => gateCanonical g

def atUnitCanonical : AtUnit → Prop
  | .at t _ _ _ => Canonical t
  | .gate g => gateCanonical g

/-! ### Gates that hold no state -/

theorem gateCanonical_ite {p : Prop} [Decidable p] {g g' : Gate} (h : gateCanonical g) (k : gateCanonical g') : gateCanonical (if p then g else g') := by
  split
  · exact h
  · exact k

/-- A gate behind another. -/
theorem gateCanonical_then {g g' : Gate} (h : gateCanonical g) (k : gateCanonical g') :
    gateCanonical (match (generalizing := false) g with | .ok => g' | g => g) := by
  cases g with
  | ok => exact k
  | wait r => trivial
  | hold t r => exact h
  | trap t => trivial

theorem modeCheck_canonical (e : Env) (op : Nat) (w : IWord) : gateCanonical (e.modeCheck op w) := by
  unfold Env.modeCheck
  split
  · trivial
  · exact gateCanonical_ite trivial (gateCanonical_ite trivial (gateCanonical_ite trivial trivial))

theorem interlock_canonical (s : State) (e : Env) (op : Nat) (w : IWord) : gateCanonical (s.interlock e op w) := by
  unfold State.interlock
  refine gateCanonical_ite trivial ?_
  split
  · trivial
  · exact gateCanonical_ite trivial trivial

theorem decisionGate_canonical (e : Env) (s : State) (n : Nat) : gateCanonical (e.decisionGate s n) := gateCanonical_ite trivial trivial
theorem saturateGate_canonical (c : Csrs) : gateCanonical (saturateGate c) := gateCanonical_ite trivial trivial
theorem traceGate_canonical (e : Env) (s : State) (n : Nat) : gateCanonical (e.traceGate s n) := gateCanonical_ite trivial trivial

theorem globalGate_canonical (e : Env) (s : State) (a : Access) : gateCanonical (globalGate e s a) := by
  unfold globalGate
  refine gateCanonical_ite trivial (gateCanonical_ite trivial ?_)
  split
  · trivial
  · exact gateCanonical_ite trivial (decisionGate_canonical e s _)

theorem scratchGate_canonical (e : Env) (s : State) (l : List (Nat × Nat)) (window write : Bool) : gateCanonical (scratchGate e s l window write) := by
  unfold scratchGate
  split
  · trivial
  · split
    · trivial
    · exact gateCanonical_ite trivial trivial

theorem fillGate_canonical (e : Env) (s : State) (fill : Bool) {g : Gate} (h : gateCanonical g) : gateCanonical (fillGate e s fill g) := by
  refine gateCanonical_then h ?_
  exact gateCanonical_ite trivial trivial

theorem atomGate_canonical (op : Nat) (w : IWord) (e : Env) (s : State) (a : Access) : gateCanonical (atomGate op w e s a) :=
  gateCanonical_ite (globalGate_canonical e s a) (scratchGate_canonical e s _ false true)

theorem releaseGate_canonical (e : Env) (s : State) (scope : Nat) : gateCanonical (e.releaseGate s scope) := by
  unfold Env.releaseGate
  split
  · trivial
  · exact gateCanonical_ite trivial trivial

theorem arriveGate_canonical (e : Env) (s : State) (level : Nat) (r : Option BarRef) : gateCanonical (arriveGate e s level r) := by
  refine gateCanonical_then ?_ (gateCanonical_then (releaseGate_canonical e s _) (decisionGate_canonical e s _))
  exact gateCanonical_ite (saturateGate_canonical _) trivial

theorem phaseGate_canonical (e : Env) (s : State) (r : Option BarRef) (ph : Nat) (w : Wait) : gateCanonical (phaseGate e s r ph w) :=
  gateCanonical_ite trivial trivial

theorem racqGate_canonical (producer : Bool) (w : IWord) (e : Env) (s : State) : gateCanonical (racqGate producer w e s) := by
  unfold racqGate
  split
  · trivial
  · exact gateCanonical_ite trivial (phaseGate_canonical e s _ _ _)

theorem ringGate_canonical (producer : Bool) (w : IWord) (e : Env) (s : State) : gateCanonical (ringGate producer w e s) := by
  unfold ringGate
  split
  · exact gateCanonical_ite (arriveGate_canonical e s 0 _) trivial
  · trivial

theorem moveGate_canonical (e : Env) (s : State) (n : Nat) : gateCanonical (e.moveGate s n) := by
  unfold Env.moveGate
  split
  · trivial
  · exact traceGate_canonical e s n

theorem lpRecord_canonical (e : Env) (w : IWord) (off : Option Nat) : gateCanonical (lpRecord e w off) := by
  unfold lpRecord
  split
  · trivial
  · exact gateCanonical_ite trivial trivial

theorem lpLoop_canonical (e : Env) (count : Nat) (taken : Bool) : gateCanonical (lpLoop e count taken) := by
  unfold lpLoop
  split
  · trivial
  · exact gateCanonical_ite trivial trivial

theorem launchGate_canonical (w : IWord) (e : Env) (s : State) : gateCanonical (launchGate w e s) := by
  unfold launchGate
  refine gateCanonical_ite trivial ?_
  split
  · trivial
  · exact gateCanonical_ite trivial (gateCanonical_ite trivial (globalGate_canonical e s _))

namespace Canonical

variable {s t : State}

/-! ### The scratchpad and the cache -/

theorem charge (h : Canonical s) {e k} : Canonical (s.charge e k) := h.steered (.charge s e k)

theorem ldsEff (h : Canonical s) {w e} : Canonical (ldsEff w e s) := .ite h.send.frame.charge h.issueAccess.charge

theorem issueScratch (h : Canonical s) {e l} : Canonical (s.issueScratch e l) := h.issueAccess

theorem stsEff (h : Canonical s) {w e} : Canonical (stsEff w e s) := h.undisturbed (stsEff_undisturbed s w e)
theorem stsxEff (h : Canonical s) {w e} : Canonical (stsxEff w e s) := h.undisturbed (stsxEff_undisturbed s w e)

theorem ldsxEff (h : Canonical s) {w e} : Canonical (ldsxEff w e s) := by
  unfold Machine.ldsxEff
  extract_lets
  split
  · exact .ite h.send.frame.charge h.issueAccess.charge
  · exact h

theorem prefEff (h : Canonical s) {w e} : Canonical (prefEff w e s) := h.undisturbed (prefEff_undisturbed s w e)
theorem cinvLineEff (h : Canonical s) {w e} : Canonical (cinvLineEff w e s) := h.foldl (fun _ k => k.frame) _
theorem acquire (h : Canonical s) {p scope} : Canonical (s.acquire p scope) := h.ordered (.acquire s p scope)
theorem fenceEff (h : Canonical s) {w e} : Canonical (fenceEff w e s) := h.ordered (fence_ordered w e s)
theorem openSft (h : Canonical s) {core} : Canonical (s.openSft core) := h.steered (.openSft s core)
theorem sftEff (h : Canonical s) {w e} : Canonical (sftEff w e s) := h.issueAccess.frame.setWait

/-! ### Barriers, traces and control -/

theorem trace (h : Canonical s) {e l} : Canonical (s.trace e l) := .ite (h.foldl (fun _ k => k.userRecord) l) h

theorem setBarrier (h : Canonical s) {r b} : Canonical (s.setBarrier r b) := h.undisturbed (setBarrier_undisturbed s r b)

theorem completePhase (h : Canonical s) {r} : Canonical (s.completePhase r).1 := h.setBarrier.steered (completePhase_steered s r)

theorem arrive (h : Canonical s) {r m} : Canonical (s.arrive r m).1 := h.undisturbed (arrive_undisturbed s r m)

theorem phaseRecord (h : Canonical s) {e r l} : Canonical (s.phaseRecord e r l) := .ite h h.decision

theorem arriveFor (h : Canonical s) {e r} : Canonical (s.arriveFor e r) := by
  have arrived := h.arrive (r := r) (m := memberKey (e.w.bid, e.w.wid))
  unfold State.arriveFor
  split
  case h_1 eq =>
    rw [eq] at arrived
    exact phaseRecord arrived
  case h_2 eq =>
    rw [eq] at arrived
    exact arrived

theorem leaveBarrier (h : Canonical s) {r m} : Canonical (s.leaveBarrier r m).1 := by
  unfold State.leaveBarrier
  extract_lets b left
  have leaves : Canonical left := h.setBarrier
  split
  · exact h
  · split
    · exact leaves.completePhase
    · exact leaves

theorem depart (h : Canonical s) {e} : Canonical (s.depart e) := by
  unfold State.depart
  extract_lets m t
  have left : Canonical t := by
    refine h.foldl (fun r k => ?_) _
    have leaves := k.leaveBarrier (r := r) (m := m)
    split
    case h_1 eq =>
      rw [eq] at leaves
      exact phaseRecord leaves
    case h_2 eq =>
      rw [eq] at leaves
      exact leaves
  split
  · exact left
  · exact left.frame

theorem arriveEff (h : Canonical s) {e level r} : Canonical (arriveEff e s level r) := by
  have counted := h.steered (.countArrival s e.party level)
  unfold Machine.arriveEff
  cases r with
  | some r => exact counted.arriveFor
  | none => exact counted

theorem waitEff (h : Canonical s) {e level} : Canonical (waitEff e s level) := h.undisturbed (waitEff_undisturbed s e level)

theorem syncEff (h : Canonical s) {e level idx} : Canonical (syncEff e s level idx) := waitEff (.ite h.arriveEff h)

theorem syncGate (h : Canonical s) {e level idx} : gateCanonical (syncGate e s level idx) := by
  unfold Machine.syncGate
  extract_lets r
  split
  · exact phaseGate_canonical e s r _ _
  · refine gateCanonical_then (arriveGate_canonical e s level r) ?_
    exact gateCanonical_ite trivial h.arriveEff.setSynced

theorem racqEff (h : Canonical s) {producer w e} : Canonical (racqEff producer w e s) := h.undisturbed (racqEff_undisturbed s producer w e)

theorem ringEff (h : Canonical s) {producer w e} : Canonical (ringEff producer w e s) := by
  unfold Machine.ringEff
  split
  · refine .ite ?_ h
    exact h.arriveEff.steered (.advanceCursor _ e.party _ _)
  · exact h

theorem goto (h : Canonical s) {e pc} : Canonical (s.goto e pc) := by
  unfold State.goto
  split
  · exact h.jump.trace
  · exact h.setPc.trace
  · exact h.setPc

theorem branchSimt (h : Canonical s) {e w target} : Canonical (branchSimt e w target s) := .ite h (.ite h.goto h.frame.trace)

theorem sendS (h : Canonical s) {e w lat v} : Canonical (s.sendS e w lat v) := h.steered (.sendS s e w lat v)

theorem countTaken (h : Canonical s) {e} : Canonical (s.countTaken e) := h.steered (.countTaken s e)

theorem retire (h : Canonical s) {b} : Canonical (s.retire b) := by
  unfold State.retire
  split
  · exact h
  · exact .ite (.ite h.frame h.frame) h

theorem leaveBlock (h : Canonical s) {b w} : Canonical (s.leaveBlock b w) := h.frame.retire

theorem emptyGroup (h : Canonical s) {g} : Canonical (s.emptyGroup g) := .ite h h.frame

theorem endWarp (h : Canonical s) {e} : Canonical (s.endWarp e) := by
  unfold State.endWarp
  split
  · exact h
  · exact h
  · extract_lets block a b c d f
    have left : Canonical f := h.depart.frame.emptyGroup
    clear_value block
    split
    · exact left.leaveBlock
    · exact left

/-! ### Fetches -/

theorem fetchLine (h : Canonical s) {core keep line} : Canonical (s.fetchLine core keep line) := .ite h h.frame

theorem fetchCode (h : Canonical s) {core part va n} : fetchedCanonical (fetchCode s core part va n) := by
  unfold Machine.fetchCode
  split
  · trivial
  · trivial
  · split
    · trivial
    · split
      · trivial
      · extract_lets pas lines fresh
        split
        · trivial
        · split
          · trivial
          · exact h.learn.foldl (fun _ k => k.correct.fetchLine) fresh

theorem fetchAt (h : Canonical s) {core part locked va n} : fetchedCanonical (fetchAt s core part locked va n) := by
  unfold Machine.fetchAt
  split
  · exact h
  · exact h.fetchCode

theorem awaitRead (h : Canonical s) {p va code fault} : Canonical (s.awaitRead p va code fault) := enterReplay (.ite h.reserveLog h)

theorem awaitGate (h : Canonical s) {p va code fault} : gateCanonical (s.awaitGate p va code fault) := gateCanonical_ite trivial h.awaitRead

theorem fetchFault (h : Canonical s) {p kind level va} : Canonical (s.fetchFault p kind level va) := .ite h.raise h.awaitRead.setWait

theorem fetchHeld (h : Canonical s) {p refresh va} : Canonical (s.fetchHeld p refresh va) := .ite h.setWait (.ite h.raise h.awaitRead.setWait)

theorem heldGate (h : Canonical s) {p refresh va} : gateCanonical (s.heldGate p refresh va) := gateCanonical_ite trivial h.awaitGate

theorem afterEnd (h : Canonical s) {e : Env} {last} : afterEndCanonical (e.afterEnd s last) := by
  have fetched := h.fetchAt (core := e.core) (part := s.partyPart e.party) (locked := e.locked) (va := last) (n := 8)
  unfold Env.afterEnd
  split
  case h_1 eq =>
    rw [eq] at fetched
    exact fetched
  case h_2 => trivial
  case h_3 => exact h.awaitGate
  case h_4 => exact h.heldGate

theorem afterEnd_at (h : Canonical s) {e : Env} {last t va} (eq : e.afterEnd s last = .at t va) : Canonical t := by
  have ends := h.afterEnd (e := e) (last := last)
  rwa [eq] at ends

theorem afterEnd_toGate (h : Canonical s) {e : Env} {last} : gateCanonical (e.afterEnd s last).toGate := by
  have ends := h.afterEnd (e := e) (last := last)
  generalize e.afterEnd s last = x at ends
  rcases x with ⟨t, va⟩ | g
  · trivial
  · exact ends

/-! ### Traps and services -/

theorem endPredicate (h : Canonical s) {g result cut} : Canonical (s.endPredicate g result cut) := by
  unfold State.endPredicate
  split
  · exact h
  · extract_lets a b c
    have waits : Canonical b := .ite h.frame.setWait h.frame
    have stopped : Canonical c := .ite waits.stop waits
    exact .ite stopped.request stopped

theorem endRun (h : Canonical s) {g} : Canonical (s.endRun g) := h.returnFromTrap

theorem serviceReturn (h : Canonical s) {g} : Canonical (s.serviceReturn g) := .ite h.endRun.endPredicate h.endRun

theorem tretTarget (h : Canonical s) {next e} : returnCanonical (tretTarget next e s) := by
  unfold Machine.tretTarget
  extract_lets pc
  split
  · exact h
  · have fetched := h.fetchCode (core := e.core) (part := s.partyPart e.party) (va := pc) (n := 8)
    split
    case h_1 eq =>
      rw [eq] at fetched
      exact fetched
    case h_2 => trivial
    case h_3 => exact h.awaitGate
    case h_4 => exact h.heldGate

theorem tretGate (h : Canonical s) {next e} : gateCanonical (tretGate next e s) := by
  unfold Machine.tretGate
  refine gateCanonical_ite trivial ?_
  split
  · trivial
  · have target := h.tretTarget (next := next) (e := e)
    split
    case h_1 => exact traceGate_canonical e s 1
    case h_2 eq =>
      rw [eq] at target
      exact target

theorem tretEff (h : Canonical s) {next e} : Canonical (tretEff next e s) := by
  unfold Machine.tretEff
  split
  · exact h.serviceReturn
  · have target := h.tretTarget (next := next) (e := e)
    split
    case h_1 eq =>
      rw [eq] at target
      exact trace (.ite (returnFromTrap target).jump (returnFromTrap target))
    case h_2 => exact h

/-! ### Launches and units -/

theorem launchEff (h : Canonical s) {w e} : Canonical (launchEff w e s) := by
  unfold Machine.launchEff
  refine .ite h ?_
  extract_lets part
  split
  · exact h
  · exact h.frame.issueAccess

theorem poke (h : Canonical s) {pa n v} : Canonical (s.poke pa n v) := poke_wf pa n v h

theorem consumeDevice (h : Canonical s) {part n} : Canonical (consumeDevice part n s) := by
  induction n generalizing s with
  | zero => exact h
  | succ n ih =>
    unfold Machine.consumeDevice
    split
    · exact h
    · exact .ite h (ih h.poke.frame)

theorem reachUnit (h : Canonical s) {ordered e a} : atUnitCanonical (reachUnit ordered e s a) := by
  unfold Machine.reachUnit
  extract_lets probe
  split
  · trivial
  · exact h.awaitGate
  · rename_i t b eq
    have resolved : Canonical t := h.resolve_ok eq
    extract_lets key busy pas va
    split
    · trivial
    · split
      · exact h.awaitGate
      · split
        · trivial
        · split
          · trivial
          · split
            · exact resolved.learn
            · trivial

theorem atUnit_at (h : Canonical s) {ordered e a b base slot} (eq : Machine.reachUnit ordered e s a = .at t b base slot) : Canonical t := by
  have reached := h.reachUnit (ordered := ordered) (e := e) (a := a)
  rwa [eq] at reached

theorem atUnit_gate (h : Canonical s) {ordered e a g} (eq : Machine.reachUnit ordered e s a = .gate g) : gateCanonical g := by
  have reached := h.reachUnit (ordered := ordered) (e := e) (a := a)
  rwa [eq] at reached

theorem acted (h : Canonical s) {e a write loads} : Canonical (s.acted e a write loads) := (record (.ite h.countAtomic h)).watchNow

theorem wchkGate (h : Canonical s) {w e} : gateCanonical (wchkGate w e s) := by
  unfold Machine.wchkGate
  refine gateCanonical_ite trivial (gateCanonical_then (lpRecord_canonical e w none) ?_)
  split
  · exact h.atUnit_gate ‹_›
  · exact gateCanonical_ite trivial trivial

theorem wchkEff (h : Canonical s) {w e} : Canonical (wchkEff w e s) := by
  unfold Machine.wchkEff
  refine .ite h ?_
  split
  · exact h
  · exact (h.atUnit_at ‹_›).putField.acted

theorem bindCheck (h : Canonical s) {w e} : atUnitCanonical (bindCheck w e s) := by
  unfold Machine.bindCheck
  extract_lets r v
  split
  · trivial
  · split
    · trivial
    · exact h.awaitGate
    · rename_i t b eq
      have resolved : Canonical t := h.resolve_ok eq
      extract_lets pas x
      split
      · trivial
      · split
        · exact h.awaitGate
        · split
          · trivial
          · split
            · trivial
            · exact resolved.learn.loadBytes.reachUnit

theorem bindEff (h : Canonical s) {w e} : Canonical (bindEff w e s) := by
  have checked := h.bindCheck (w := w) (e := e)
  unfold Machine.bindEff
  split
  case h_1 => exact h
  case h_2 eq =>
    rw [eq] at checked
    exact .ite (acted (storeBytes checked)) (issueAccess checked)

theorem callGate (h : Canonical s) {w e} : gateCanonical (callGate w e s) := by
  unfold Machine.callGate
  split
  · exact h.atUnit_gate ‹_›
  · exact gateCanonical_ite trivial (gateCanonical_ite (moveGate_canonical e s 1) trivial)

theorem callEff (h : Canonical s) {w e} : Canonical (callEff w e s) := by
  unfold Machine.callEff
  split
  · exact h
  · have reached := h.atUnit_at ‹_›
    exact .ite reached.loadBytes.acted reached.loadBytes.acted.frame.goto

end Canonical

end Sys2Proof.Laws
end

section
/-!
SUPPORT. The canonical form of memory through the copy and the matrix engine (spec/11 R302; spec/12 R337 to R342; spec/13 R346).
-/
namespace Sys2Proof.Laws

open Sys2Proof Sys2Proof.Machine

set_option Elab.async false

/-- The state that an instruction or an event goes on in has canonical memory. -/
def nextCanonical : Host.Outcome State Fault Refusal → Prop
  | .next t => Canonical t
  | _ => True

theorem nextCanonical_ite {p : Prop} [Decidable p] {o o' : Host.Outcome State Fault Refusal} (h : nextCanonical o) (k : nextCanonical o') :
    nextCanonical (if p then o else o') := by
  split
  · exact h
  · exact k

theorem engGate_canonical (op : EngOp) (pre : Option Trap) (e : Env) (s : State) : gateCanonical (engGate op pre e s) := by
  unfold engGate
  split
  · trivial
  · extract_lets m bound
    clear_value bound
    cases bound with
    | some t => trivial
    | none =>
      refine gateCanonical_then (decisionGate_canonical e s _) ?_
      exact gateCanonical_ite trivial trivial

namespace Canonical

variable {s : State}

/-! ### The commands of the copy engine -/

theorem enterGate (h : Canonical s) {e trap} : gateCanonical (enterGate e s trap) := by
  unfold Machine.enterGate
  refine gateCanonical_ite trivial ?_
  split
  · trivial
  · refine gateCanonical_then (decisionGate_canonical e s 1) ?_
    exact gateCanonical_ite (.ite h h) trivial

theorem cpyGate (h : Canonical s) {w e} : gateCanonical (cpyGate w e s) := by
  unfold Machine.cpyGate
  exact gateCanonical_ite trivial (gateCanonical_then (scratchGate_canonical e s _ false false) h.enterGate)

theorem enterCommand (h : Canonical s) {e b va time} : Canonical (s.enterCommand e b va time) := (ite h.reserveLog h).frame

theorem csealEff (h : Canonical s) {w e} : Canonical (csealEff w e s) := h.steered (csealEff_steered s w e)

theorem chargeCopy (h : Canonical s) {c t} : Canonical (s.chargeCopy c t) := startDiscard (.ite h.frame h)

theorem copyTrap (h : Canonical s) {core c t} : Canonical (s.copyTrap core c t) := h.meetUe.chargeCopy

theorem holdCopy (h : Canonical s) {core i part fault} : Canonical (s.holdCopy core i part fault) := h.frame.enterReplay

theorem reachCopy (h : Canonical s) {core i} : Canonical (s.reachCopy core i) := by
  unfold State.reachCopy
  split
  · exact h
  · extract_lets part r
    split
    · exact h.copyTrap
    · exact h.holdCopy
    · exact h.holdCopy
    · exact h.learn.frame

theorem orderLines (h : Canonical s) {code part kind write quiet l} : Canonical (s.orderLines code part kind write quiet l) :=
  h.foldl (fun _ k => .ite (.ite k k.correct) (order (.ite k k.correct))) _

theorem prepareCopy (h : Canonical s) {core i} : Canonical (s.prepareCopy core i) := by
  unfold State.prepareCopy
  split
  · exact h
  · extract_lets part b
    refine .ite h.reachCopy (.ite h.frame.reachCopy (.ite ?_ h.reachCopy))
    split
    · exact h.copyTrap
    · exact h.holdCopy
    · exact h.holdCopy
    · exact .ite h.learn.askRoom (.ite h.copyTrap h.learn.orderLines.frame.reachCopy)

theorem putCopy (h : Canonical s) {core base global pages l v vas} : Canonical (s.putCopy core base global pages l v vas) := .ite h.storeBytes h

theorem sendRemote (h : Canonical s) {core launch part pc kind pages lanes} : Canonical (s.sendRemote core launch part pc kind pages lanes).1 := by
  unfold State.sendRemote
  split
  · exact h
  · exact h

theorem copyRead (h : Canonical s) {core arrival i va} : Canonical (s.copyRead core arrival i va) := by
  unfold State.copyRead
  split
  · exact h
  · extract_lets m table
    have kept (pages) : Canonical (table pages) := .ite h h
    refine .ite (.ite (kept _) h) ?_
    split
    · split
      · exact .ite (kept _) h
      · exact h
    · split
      · exact h
      · exact .ite h h

theorem copyWrite (h : Canonical s) {core arrival i va} : Canonical (s.copyWrite core arrival i va) := by
  unfold State.copyWrite
  split
  · exact h
  · extract_lets m
    split
    · exact h
    · refine .ite h ?_
      extract_lets rd got d put noted
      have written : Canonical noted := .ite h.putCopy.noteCode h.putCopy.frame
      exact written.frame

theorem moveCopy (h : Canonical s) {core c} : Canonical (s.moveCopy core c) := by
  unfold State.moveCopy
  extract_lets +onlyGivenNames part r s0
  have ordered : Canonical s0 := h.orderLines
  split
  · exact ordered.frame
  · extract_lets m vals s1 pas s2 f q
    have moved : Canonical s1 := ordered.foldl (fun _ k => k.putCopy) vals
    have noted : Canonical s2 := .ite moved.unpoisonAll.noteCode.orderLines moved.frame
    have sent : Canonical q.1 := by
      simp only [q]
      split
      · exact noted.sendRemote
      · exact noted
    exact sent.frame

theorem endCopy (h : Canonical s) {core c} : Canonical (s.endCopy core c) := by
  unfold State.endCopy
  extract_lets k live s1 s2 s3 s4 gone sched s5
  have flagged : Canonical s1 := .ite h.frame h
  have released : Canonical s4 := .ite flagged.frame.releaseLog flagged.frame
  have ended : Canonical s5 := .ite released.frame released
  exact ended.rouse

/-! ### The events of the copy engine -/

theorem copyCommandStart (h : Canonical s) {core i} : nextCanonical (execCopyCommandStart core i s) := by
  unfold execCopyCommandStart
  split
  · exact nextCanonical_ite h.frame.prepareCopy h
  · exact h

theorem copyCommandFinish (h : Canonical s) {core i} : nextCanonical (execCopyCommandFinish core i s) := by
  unfold execCopyCommandFinish
  split
  · exact h
  · rename_i c eq
    refine nextCanonical_ite h.prepareCopy (nextCanonical_ite h (nextCanonical_ite h.askRoom ?_))
    extract_lets r done
    have finishes {t} (k : Canonical t) : Canonical (done t) := by
      simp only [done]
      split
      · exact .ite k.endCopy k
      · exact k
    refine nextCanonical_ite (finishes h) ?_
    split
    · exact h.copyTrap
    · exact finishes h.moveCopy

theorem cpyWaitEnter (h : Canonical s) {core} : nextCanonical (execCpyWaitEnter core s) := by
  unfold execCpyWaitEnter
  split
  · exact h
  · exact nextCanonical_ite h (rouse (.ite h.setWait h))

/-! ### The matrix engine -/

theorem engEff (h : Canonical s) {op e} : Canonical (engEff op e s) := by
  unfold Machine.engEff
  extract_lets part logged s1 key s2 s3
  have reserved : Canonical s1 := .ite h.reserveLog h
  have counted : Canonical s2 := .ite reserved.countAtomic reserved
  have outstanding : Canonical s3 := .ite counted.frame counted
  exact outstanding.frame

theorem engTrap (h : Canonical s) {core pc t} : Canonical (s.engTrap core pc t) := h.meetUe.takeTrap

theorem matrixOpStart (h : Canonical s) {core path} : nextCanonical (execMatrixOpStart core path s) := by
  unfold execMatrixOpStart
  split
  · exact h
  · extract_lets part
    split
    · exact h.engTrap
    · exact h.enterReplay
    · exact h.enterReplay
    · exact h.learn.frame

theorem drainElem (h : Canonical s) {core d x} : Canonical (s.drainElem core d x).1 := by
  unfold State.drainElem
  split
  · extract_lets pas r
    split
    · exact h
    · exact h.storeBytes
  · exact h

theorem engFlags (h : Canonical s) {core flags} : Canonical (s.engFlags core flags) := by
  unfold State.engFlags
  split
  · exact h.orBlockFlags
  · exact h

theorem drainUnits (h : Canonical s) {core d keep} : Canonical (s.drainUnits core d keep) := by
  unfold State.drainUnits
  extract_lets l r
  have drained : Canonical r.1 := by
    refine foldl_fst (fun _ _ k => ?_) l (x := (s, 0)) h
    exact k.drainElem
  exact engFlags (.ite drained.noteCode drained.frame)

theorem drain (h : Canonical s) {core pc d written} : Canonical (s.drain core pc d written).1 := by
  unfold State.drain
  extract_lets part t
  have drained : Canonical t := h.drainUnits
  split
  · exact drained.unpoisonAll.orderLines.sendRemote
  · exact drained

theorem engPerform (h : Canonical s) {core e image run} : Canonical (s.engPerform core e image run).1 := by
  unfold State.engPerform
  extract_lets pages table part img t
  have ordered : Canonical t := by
    simp only [t]
    split
    · exact .ite h.orderLines h
    · exact h
  split
  case h_6 | h_7 => exact ordered.frame.engFlags
  case h_8 =>
    split
    · exact ordered.drain
    · exact ordered
  all_goals exact ordered

theorem engAll (h : Canonical s) {core run l} : Canonical (s.engAll core run l).1 := by
  induction l generalizing s with
  | nil => exact h
  | cons x l ih => exact ih h.engPerform

theorem engRelease (h : Canonical s) {core e} : Canonical (s.engRelease core e) := .ite (releaseLog (.ite h.frame h)) (.ite h.frame h)

theorem matrixOpComplete (h : Canonical s) {core path} : nextCanonical (execMatrixOpComplete core path s) := by
  unfold execMatrixOpComplete
  refine nextCanonical_ite h ?_
  split
  · exact h
  · refine nextCanonical_ite h.askRoom ?_
    extract_lets done e x
    have finishes {t} (k : Canonical t) : Canonical (done t) := by
      simp only [done]
      split
      · exact .ite (k.frame.foldl (fun _ k => k.engRelease) _).rouse k
      · exact k
    refine nextCanonical_ite (finishes h) ?_
    split
    · exact h.engTrap
    · exact finishes h.engAll.frame

theorem engineRead (h : Canonical s) {core path pa} : Canonical (s.engineRead core path pa) := by
  unfold State.engineRead
  split
  · exact h
  · exact .ite h h

theorem drainPart (h : Canonical s) {core unit} : Canonical (s.drainPart core unit) := by
  unfold State.drainPart
  split
  · exact h
  · split
    · split
      · exact h
      · exact .ite h h.drainUnits.frame
    · exact h

theorem endSeq (h : Canonical s) {e} : Canonical (s.endSeq e) := h.depart.frame.leaveBlock

end Canonical

end Sys2Proof.Laws
end

section
/-!
SUPPORT. Every form of the instruction word keeps the canonical form of memory, and so does its issue, alone or in a bundle (spec/11 R302; spec/03 R83).
-/
namespace Sys2Proof.Laws

open Sys2Proof Sys2Proof.Machine

set_option Elab.async false

/-- The gate and the effect of a meaning keep the canonical form. -/
structure KeepsCanonical (m : Sem) : Prop where
  gate : ∀ {e s}, Canonical s → gateCanonical (m.gate e s)
  eff : ∀ {e s}, Canonical s → Canonical (m.eff e s)

theorem keepsCanonical_mk {op : Nat} {w : IWord} {gate : Env → State → Gate} {eff : Env → State → State} {room : Env → State → LogRoom}
    (asks : ∀ {e s}, Canonical s → gateCanonical (gate e s)) (keeps : ∀ {e s}, Canonical s → Canonical (eff e s)) :
    KeepsCanonical ⟨op, w, gate, eff, room⟩ := ⟨asks, keeps⟩

/-! ### Families of forms -/

theorem computeSem_keepsCanonical (op : Nat) (w : IWord) (out : Env → Out) : KeepsCanonical (computeSem op w out) :=
  ⟨fun _ => trivial, fun h => h.commit⟩

theorem accessSem_keepsCanonical (op : Nat) (w : IWord) (mk : Env → State → Access) : KeepsCanonical (accessSem op w mk) :=
  ⟨fun _ => globalGate_canonical _ _ _, fun h => h.issueAccess⟩

theorem unitSem_keepsCanonical (op : Nat) (w : IWord) {pre : Env → Gate} (mk : Env → State → Access) (asks : ∀ e, gateCanonical (pre e)) :
    KeepsCanonical (unitSem op w pre mk) :=
  ⟨fun _ => gateCanonical_ite trivial (gateCanonical_then (asks _) (globalGate_canonical _ _ _)), fun h => .ite h h.issueAccess⟩

theorem arriveSem_keepsCanonical (op : Nat) (w : IWord) (level : Nat) : KeepsCanonical (arriveSem op w level) :=
  ⟨fun _ => arriveGate_canonical _ _ _ _, fun h => h.arriveEff⟩

theorem waitSem_keepsCanonical (op : Nat) (w : IWord) (level : Nat) : KeepsCanonical (waitSem op w level) :=
  ⟨fun _ => phaseGate_canonical _ _ _ _ _, fun h => h.waitEff⟩

theorem syncSem_keepsCanonical (op : Nat) (w : IWord) (level : Nat) : KeepsCanonical (syncSem op w level) := ⟨fun h => h.syncGate, fun h => h.syncEff⟩

theorem engSem_keepsCanonical (op : Nat) (w : IWord) (mk : IWord → Env → EngOp) (pre : Env → Option Trap) : KeepsCanonical (engSem op w mk pre) :=
  ⟨fun _ => engGate_canonical _ _ _ _, fun h => h.engEff⟩

theorem trapSem_keepsCanonical (op : Nat) (w : IWord) (t : Env → Trap) : KeepsCanonical (trapSem op w t) :=
  ⟨fun _ => gateCanonical_ite trivial trivial, fun h => h⟩

theorem branchSem_keepsCanonical (op : Nat) (w : IWord) : KeepsCanonical (branchSem op w) where
  gate _ := by
    unfold branchSem
    dsimp only
    split
    · exact traceGate_canonical _ _ _
    · exact traceGate_canonical _ _ _
    · trivial
  eff h := by
    unfold branchSem
    dsimp only
    split
    · exact h.branchSimt
    · exact .ite h.goto h
    · exact h.goto

theorem uniformSem_keepsCanonical (op : Nat) (w : IWord) {gate : Env → Gate} (taken : Env → Bool) (target : Env → Nat) {before : Env → State → State}
    (asks : ∀ e, gateCanonical (gate e)) (keeps : ∀ {e s}, Canonical s → Canonical (before e s)) :
    KeepsCanonical (uniformSem op w gate taken target before) :=
  ⟨fun _ => gateCanonical_then (asks _) (moveGate_canonical _ _ _), fun h => .ite (keeps h).goto (keeps h)⟩

/-! ### Single forms -/

theorem semJoin_keepsCanonical (w : IWord) : KeepsCanonical (semJoin w) :=
  ⟨fun _ => gateCanonical_ite (traceGate_canonical _ _ _) trivial, fun h => .ite h.frame.trace h⟩

theorem semExit_keepsCanonical (w : IWord) : KeepsCanonical (semExit w) where
  gate _ := by
    refine gateCanonical_ite (decisionGate_canonical _ _ _) ?_
    split
    · exact gateCanonical_ite (traceGate_canonical _ _ _) trivial
    · trivial
  eff h := by
    refine .ite h.endWarp ?_
    split
    · exact .ite h.frame.trace h
    · exact h

theorem semLoopPush_keepsCanonical (w : IWord) : KeepsCanonical (semLoopPush w) where
  gate h := by
    refine gateCanonical_then (lpLoop_canonical _ _ _) ?_
    refine gateCanonical_ite ?_ ?_
    · exact gateCanonical_then h.afterEnd_toGate (traceGate_canonical _ _ _)
    · exact gateCanonical_ite trivial trivial
  eff h := by
    refine .ite ?_ h
    split
    · exact (h.afterEnd_at ‹_›).goto
    · exact h

theorem semLbreak_keepsCanonical (w : IWord) : KeepsCanonical (semLbreak w) where
  gate h := by
    unfold semLbreak
    dsimp only
    split
    · trivial
    · exact gateCanonical_then h.afterEnd_toGate (traceGate_canonical _ _ _)
  eff h := by
    unfold semLbreak
    dsimp only
    split
    · exact h
    · split
      · exact (h.afterEnd_at ‹_›).frame.goto
      · exact h

theorem semLpret_keepsCanonical (w : IWord) : KeepsCanonical (semLpret w) where
  gate _ := by
    unfold semLpret
    dsimp only
    split
    · trivial
    · exact moveGate_canonical _ _ _
  eff h := by
    unfold semLpret
    dsimp only
    split
    · exact h
    · exact h.frame.goto

theorem semSqbind_keepsCanonical (w : IWord) : KeepsCanonical (semSqbind w) where
  gate {e s} h := by
    refine gateCanonical_ite trivial ?_
    have checked := h.bindCheck (w := w) (e := e)
    split
    case h_1 eq =>
      rw [eq] at checked
      exact checked
    case h_2 => trivial
  eff h := .ite h h.bindEff

theorem lpBreak_canonical (w : IWord) (e : Env) : gateCanonical (lpBreak w e) := gateCanonical_ite trivial trivial

theorem modeVliwGate_canonical (e : Env) (s : State) : gateCanonical (modeVliwGate e s) :=
  gateCanonical_ite trivial (gateCanonical_ite trivial (gateCanonical_ite trivial (gateCanonical_ite trivial trivial)))

theorem modeSimtGate_canonical (e : Env) (s : State) : gateCanonical (modeSimtGate e s) :=
  gateCanonical_ite trivial (gateCanonical_ite trivial (gateCanonical_ite trivial (gateCanonical_ite trivial trivial)))

theorem fenceGate_canonical (w : IWord) (e : Env) (s : State) : gateCanonical (fenceGate w e s) :=
  gateCanonical_ite trivial (gateCanonical_ite trivial trivial)

/-- Every form keeps the canonical form of memory. -/
theorem form_keepsCanonical {i : Instr} {m : Sem} (means : semOf i = some m) : KeepsCanonical m := by
  cases i with
  | act w => cases means; exact keepsCanonical_mk (fun _ => gateCanonical_ite trivial trivial) fun h => h.commit.frame
  | sftload w => cases means; exact keepsCanonical_mk (fun _ => globalGate_canonical _ _ _) fun h => h.sftEff
  | lds w => cases means; exact keepsCanonical_mk (fun _ => scratchGate_canonical _ _ _ _ _) fun h => h.ldsEff
  | ldsx w => cases means; exact keepsCanonical_mk (fun _ => scratchGate_canonical _ _ _ _ _) fun h => h.ldsxEff
  | sts w => cases means; exact keepsCanonical_mk (fun _ => fillGate_canonical _ _ _ (scratchGate_canonical _ _ _ _ _)) fun h => h.stsEff
  | stsx w => cases means; exact keepsCanonical_mk (fun _ => fillGate_canonical _ _ _ (scratchGate_canonical _ _ _ _ _)) fun h => h.stsxEff
  | feset w => cases means; exact keepsCanonical_mk (fun _ => fillGate_canonical _ _ _ (scratchGate_canonical _ _ _ _ _)) fun h => h.frame
  | feclr w => cases means; exact keepsCanonical_mk (fun _ => scratchGate_canonical _ _ _ _ _) fun h => h.frame
  | ld w | st w | ldb w | stb w => cases means; exact accessSem_keepsCanonical _ _ _
  | pref w => cases means; exact keepsCanonical_mk (fun _ => gateCanonical_ite trivial trivial) fun h => h.prefEff
  | cinvLine w => cases means; exact keepsCanonical_mk (fun _ => trivial) fun h => h.cinvLineEff
  | cinvTiles w | cinvAll w => cases means; exact keepsCanonical_mk (fun _ => trivial) fun h => .ite h.frame h
  | atom w | cas w => cases means; exact keepsCanonical_mk (fun _ => atomGate_canonical _ _ _ _ _) fun h => h.issueAccess.charge
  | fence w => cases means; exact keepsCanonical_mk (fun _ => fenceGate_canonical _ _ _) fun h => h.fenceEff
  | ula w | sqacc w => cases means; exact unitSem_keepsCanonical _ _ _ fun _ => trivial
  | sqrecLd w | sqrecSt w | sqrecHist w | sqrecCinc w | sqrecCget w =>
    cases means; exact unitSem_keepsCanonical _ _ _ fun _ => lpRecord_canonical _ _ _
  | barArrive w | mbarArrive w => cases means; exact arriveSem_keepsCanonical _ _ _
  | barWait w | mbarWait w => cases means; exact waitSem_keepsCanonical _ _ _
  | barSync w | mbarSync w => cases means; exact syncSem_keepsCanonical _ _ _
  | barq w | cquery w | clk w => cases means; exact keepsCanonical_mk (fun _ => trivial) fun h => h.commit
  | racqP w | racqC w | mbarRacqP w | mbarRacqC w => cases means; exact keepsCanonical_mk (fun _ => racqGate_canonical _ _ _ _) fun h => h.racqEff
  | rcommit w | rrel w | mbarRcommit w | mbarRrel w => cases means; exact keepsCanonical_mk (fun _ => ringGate_canonical _ _ _ _) fun h => h.ringEff
  | warpsync w => cases means; exact keepsCanonical_mk (fun _ => trivial) fun h => h.setPc.setWait.frame
  | cpy w => cases means; exact keepsCanonical_mk (fun h => h.cpyGate) fun h => .ite h.enterCommand h
  | ctable w => cases means; exact keepsCanonical_mk (fun h => gateCanonical_ite h.enterGate trivial) fun h => .ite h.enterCommand h
  | cseal w => cases means; exact keepsCanonical_mk (fun _ => trivial) fun h => h.csealEff
  | cwait w | mwait w => cases means; exact keepsCanonical_mk (fun _ => gateCanonical_ite trivial trivial) fun h => h
  | mload w | mperm w | mzero w | mma w | mladr w | mscale w | mscaleClr w | mdrain w => cases means; exact engSem_keepsCanonical _ _ _ _
  | mend w => cases means; exact keepsCanonical_mk (fun _ => gateCanonical_ite trivial (decisionGate_canonical _ _ _)) fun h => h.endSeq
  | bra w | brx w => cases means; exact branchSem_keepsCanonical _ _
  | call w => cases means; exact uniformSem_keepsCanonical _ _ _ _ (fun _ => trivial) fun h => h.sendS
  | ret w => cases means; exact uniformSem_keepsCanonical _ _ _ _ (fun _ => trivial) fun h => h
  | join w => cases means; exact semJoin_keepsCanonical w
  | exit w => cases means; exact semExit_keepsCanonical w
  | loopDec w => cases means; exact uniformSem_keepsCanonical _ _ _ _ (fun _ => lpLoop_canonical _ _ _) fun h => .ite h.sendS.countTaken h.sendS
  | loopPush w => cases means; exact semLoopPush_keepsCanonical w
  | lbreak w => cases means; exact semLbreak_keepsCanonical w
  | lbreakZ w | lbreakNz w => cases means; exact uniformSem_keepsCanonical _ _ _ _ (lpBreak_canonical _) fun h => h
  | modeVliw w => cases means; exact keepsCanonical_mk (fun _ => modeVliwGate_canonical _ _) fun h => h.frame
  | modeSimt w => cases means; exact keepsCanonical_mk (fun _ => modeSimtGate_canonical _ _) fun h => h.frame
  | nop w => cases means; exact keepsCanonical_mk (fun _ => trivial) fun h => h
  | sleep w => cases means; exact keepsCanonical_mk (fun _ => gateCanonical_ite trivial trivial) fun h => h.setSlept
  | getsr w => cases means; exact keepsCanonical_mk (fun _ => gateCanonical_ite trivial trivial) fun h => h.commit
  | setsr w => cases means; exact keepsCanonical_mk (fun _ => gateCanonical_ite trivial trivial) fun h => .ite h.openSft.frame h
  | trap w | svc w | bkpt w => cases means; exact trapSem_keepsCanonical _ _ _
  | tretRetry w | tretNext w => cases means; exact keepsCanonical_mk (fun h => h.tretGate) fun h => h.tretEff
  | logw w => cases means; exact keepsCanonical_mk (fun _ => gateCanonical_ite trivial trivial) fun h => .ite h.userRecord h
  | launch w => cases means; exact keepsCanonical_mk (fun _ => launchGate_canonical _ _ _) fun h => h.launchEff
  | sqrecWchk w => cases means; exact keepsCanonical_mk (fun h => h.wchkGate) fun h => h.wchkEff
  | sqbind w => cases means; exact semSqbind_keepsCanonical w
  | lpcall w => cases means; exact keepsCanonical_mk (fun h => h.callGate) fun h => h.callEff
  | lpret w => cases means; exact semLpret_keepsCanonical w
  | _ => cases means <;> exact computeSem_keepsCanonical _ _ _

/-! ### The issue of a word and of a bundle -/

theorem runWord_canonical {m : Sem} (keeps : KeepsCanonical m) {c : Cur} {s : State} (h : Canonical s) : Canonical (runWord m c s) := by
  unfold runWord
  extract_lets e stop n gate logged counted refused
  have stops : gateCanonical stop := by
    refine gateCanonical_then (modeCheck_canonical _ _ _) ?_
    split
    · trivial
    · exact interlock_canonical _ _ _ _
  have holds : gateCanonical gate := by
    refine gateCanonical_then stops ?_
    exact gateCanonical_ite trivial (keeps.gate h)
  clear_value gate
  split
  · have issued : Canonical counted := by
      simp only [counted]
      split
      · exact h.logDecisions
      · exact h.logDecisions.account
    exact keeps.eff issued.advance
  · exact h.setWait
  · exact Canonical.setWait holds
  · have trapped : Canonical refused := by
      simp only [refused]
      split
      · exact h
      · exact h.account
    exact trapped.raise

theorem firstHold_canonical {l : List (Slot × Gate)} (all : ∀ x ∈ l, gateCanonical x.2) {t : State} {r : Wait} (held : firstHold l = some (t, r)) :
    Canonical t := by
  induction l with
  | nil => cases held
  | cons x l ih =>
    obtain ⟨sl, g⟩ := x
    have rest := ih fun x hx => all x (List.mem_cons_of_mem _ hx)
    cases g with
    | hold u q =>
      cases held
      exact all _ List.mem_cons_self
    | ok | wait | trap => exact rest held

theorem bundleGates_canonical {ops : List SlotOp} (keeps : ∀ o ∈ ops, KeepsCanonical o.sem) {c : Cur} {s : State} (h : Canonical s) :
    ∀ x ∈ bundleGates ops c s, gateCanonical x.2 := by
  unfold bundleGates
  extract_lets envs mode lp key pend coll
  have modes : ∀ x ∈ mode, gateCanonical x.2 := by
    intro x hx
    obtain ⟨y, -, rfl⟩ := List.mem_map.mp hx
    exact modeCheck_canonical _ _ _
  split
  · exact fun x hx => modes x (List.mem_filter.mp hx).1
  · split
    · exact modes
    · split
      · simp [gateCanonical]
      · split
        · intro x hx
          obtain ⟨y, -, found⟩ := List.mem_filterMap.mp hx
          split at found
          · obtain ⟨r, -, rfl⟩ := Option.map_eq_some_iff.mp found
            trivial
          · cases found
        · intro x hx
          obtain ⟨y, hy, rfl⟩ := List.mem_map.mp hx
          obtain ⟨o, ho, rfl⟩ := List.mem_map.mp hy
          exact (keeps o ho).gate h

theorem bundleEffects_canonical {l : List (SlotOp × Env)} (keeps : ∀ x ∈ l, KeepsCanonical x.1.sem) {s : State} (h : Canonical s) :
    Canonical (bundleEffects l s) := by
  induction l generalizing s with
  | nil => exact h
  | cons x l ih => exact ih (fun y hy => keeps y (List.mem_cons_of_mem _ hy)) ((keeps x List.mem_cons_self).eff h)

theorem mem_of_mem_effectOrder {l : List (SlotOp × Env)} {x : SlotOp × Env} (h : x ∈ effectOrder l) : x ∈ l := by
  obtain ⟨k, -, hx⟩ := List.mem_flatMap.mp h
  exact (List.mem_filter.mp hx).1

theorem runBundle_canonical {ops : List SlotOp} (keeps : ∀ o ∈ ops, KeepsCanonical o.sem) {ports : Ports} {c : Cur} {s : State} (h : Canonical s) :
    Canonical (runBundle ops ports c s) := by
  unfold runBundle
  extract_lets gates e n slots envs leaves s1 s2
  split
  · exact .ite h.frame h.trapItem
  · split
    · exact h.setWait
    · refine .ite h.frame ?_
      split
      · exact h.trapItem
      · split
        · rename_i t r held
          exact (firstHold_canonical (bundleGates_canonical keeps h) held).setWait
        · have issued : Canonical s2 := by
            refine bundleEffects_canonical (fun x hx => ?_) h.logDecisions.account.takePorts.serviceSlot.frame
            obtain ⟨o, ho, rfl⟩ := List.mem_map.mp (mem_of_mem_effectOrder hx)
            exact keeps o ho
          split
          · exact issued.endItem ‹_›
          · exact h.trapItem

theorem runEmpty_canonical {header : Word64} {c : Cur} {s : State} (h : Canonical s) : Canonical (runEmpty header c s) := by
  unfold runEmpty
  extract_lets e n ports total last s1 s2
  have issued : Canonical s2 := h.logDecisions.account.takePorts.serviceSlot.frame
  refine .ite h.trapItem (.ite h.trapItem (.ite issued ?_))
  split
  · exact issued.endItem ‹_›
  · exact h.trapItem

theorem runSem_canonical {m : Sem} (keeps : KeepsCanonical m) {s : State} (h : Canonical s) : nextCanonical (runSem m s) := by
  unfold runSem
  split
  · exact h
  · split
    · exact runBundle_canonical (by simpa using keeps) h
    · exact runWord_canonical keeps h

theorem slotOps_keepCanonical (b : BundleBits) (rows : Nat) : ∀ o ∈ b.slotOps rows, KeepsCanonical o.sem := by
  intro o ho
  obtain ⟨x, -, found⟩ := List.mem_filterMap.mp ho
  split at found
  · obtain ⟨m, means, rfl⟩ := Option.map_eq_some_iff.mp found
    exact form_keepsCanonical means
  · cases found

theorem issueBundle_canonical {b : BundleBits} {c : Cur} {s : State} (h : Canonical s) : Canonical (issueBundle b c s) :=
  .ite h (.ite (runBundle_canonical (slotOps_keepCanonical b _) h) (.ite h.frame h.trapItem))

end Sys2Proof.Laws
end

section
/-!
SUPPORT. The canonical form of memory through the launch scheduler and the host's accesses (spec/11 R302; spec/14 R355 to R370; spec/18 R397 to R416).
-/
namespace Sys2Proof.Laws

open Sys2Proof Sys2Proof.Machine

set_option Elab.async false

namespace Canonical

variable {s t : State}

/-! ### Places and blocks -/

theorem corrects (h : Canonical s) (l : List Nat) : Canonical (l.foldl State.correct s) := h.foldl (fun _ k => k.correct) l

theorem schedMeets (h : Canonical s) {part write va n place} : Canonical (s.schedMeets part write va n place) := by
  unfold State.schedMeets
  split
  · exact h.memoryUe
  · have walked : Canonical ((unitsOf va n).foldl (fun s a => s.correctWalk part a) s) := h.foldl (fun _ k => k.correctWalk) _
    exact .ite walked (walked.corrects _)
  · exact h

theorem createWarp (h : Canonical s) {launch r bid core wid} : Canonical (s.createWarp launch r bid core wid) := h.frame

theorem placeBlock (h : Canonical s) {launch core} : Canonical (s.placeBlock launch core) := by
  unfold State.placeBlock
  split
  · exact h
  · extract_lets +onlyGivenNames r bid n size base seq b sched s1 s2 s3 s4
    have counted : Canonical s1 := h.frame
    have cleared : Canonical s2 := counted.openSft.frame
    have created : Canonical s3 := cleared.foldl (fun _ k => k.createWarp) _
    have started : Canonical s4 := .ite created.frame created
    exact started.rouse

theorem placeCluster (h : Canonical s) {launch cores} (placed : s.placeCluster launch cores = some t) : Canonical t := by
  unfold State.placeCluster at placed
  split at placed
  · cases placed
  · extract_lets k at placed
    split at placed
    · cases placed
      exact (h.foldl (fun _ k => k.placeBlock) cores).frame
    · cases placed

theorem placeAll (h : Canonical s) {launch n cores} (placed : placeAll launch n cores s = some t) : Canonical t := by
  induction n generalizing s cores with
  | zero => cases placed
  | succ n ih =>
    unfold Machine.placeAll at placed
    split at placed
    · cases placed
    · split at placed
      · cases placed
        exact h
      · split at placed
        · cases placed
        · exact ih (h.placeCluster ‹_›) placed

theorem place (h : Canonical s) {launch aged cores} (placed : s.place launch aged cores = some t) : Canonical t := by
  unfold State.place at placed
  split at placed
  · cases placed
  · split at placed
    · obtain ⟨u, all, rfl⟩ := Option.map_eq_some_iff.mp placed
      exact (h.placeAll all).frame
    · exact h.placeCluster placed

theorem placement (h : Canonical s) {k p cores} (placed : placement s k p cores = some t) : Canonical t := by
  unfold Machine.placement at placed
  split at placed
  · cases placed
  · extract_lets part at placed
    split at placed
    · cases placed
    · split at placed
      · cases placed
      · rename_i u found
        split at placed
        · cases placed
          exact h.place found
        · cases placed

theorem popRecord (h : Canonical s) {k} : Canonical (s.popRecord k) := h.of_mem (popRecord_workKept s k).mem

theorem blockPlace (h : Canonical s) {launch cores} : nextCanonical (execBlockPlace launch cores s) := by
  unfold execBlockPlace
  split
  · exact h
  · split
    · exact h
    · rename_i t found
      have placed : Canonical t := h.placement found
      refine nextCanonical_ite h ?_
      extract_lets +onlyGivenNames sched u
      have served : Canonical u := placed.frame
      split
      · exact .ite served.popRecord served
      · exact served

theorem recordAging (h : Canonical s) {q} : nextCanonical (execRecordAging q s) := by
  unfold execRecordAging
  split
  · exact nextCanonical_ite h.frame h
  · exact h

/-! ### Completions -/

theorem sendBytes (h : Canonical s) {l} : Canonical (s.sendBytes l).1 := by
  unfold State.sendBytes
  split
  · exact h
  · exact h

theorem writeCompletion (h : Canonical s) {c place} : Canonical (s.writeCompletion c place).1 := by
  unfold State.writeCompletion
  extract_lets n v r
  have written : Canonical r.1 := by
    simp only [r]
    split
    · split
      · exact h.sendBytes
      · exact h.unitWrite
    · exact h
  exact written.frame

theorem commandDone (h : Canonical s) {q seq irq} : Canonical (s.commandDone q seq irq) := .ite h h

theorem close (h : Canonical s) {x} : Canonical (s.close x) := by
  unfold State.close
  extract_lets t
  have counted : Canonical t := by
    simp only [t]
    split
    · exact h.addCounter
    · exact h
  split
  · exact counted.commandDone
  · exact counted

theorem closeSoon (h : Canonical s) {x} : Canonical (s.closeSoon x) := by
  unfold State.closeSoon
  refine .ite h.close ?_
  refine frame (s := match x.signal with | some (c, _) => (tevParts s c).foldl State.forget s | none => s) ?_
  split
  · exact h.forgets _
  · exact h

theorem closeAll (h : Canonical s) : Canonical s.closeAll := .ite h (h.frame.foldl (fun _ k => k.close) _)

theorem completeLaunch (h : Canonical s) {n} : Canonical (s.completeLaunch n) := by
  unfold State.completeLaunch
  split
  · exact h
  · extract_lets +onlyGivenNames r place
    clear_value place
    split
    · exact h.postFault.frame
    · exact h.schedMeets.writeCompletion.frame.closeSoon

theorem launchComplete (h : Canonical s) {n} : nextCanonical (execLaunchComplete n s) := by
  unfold execLaunchComplete
  split
  · exact h
  · exact nextCanonical_ite h.completeLaunch h

theorem refuse (h : Canonical s) {q p status detail} : Canonical (s.refuse q p status detail) := h.frame.popRecord.completeLaunch

theorem admitWith (h : Canonical s) {q p memb} : Canonical (s.admitWith q p memb) := by
  unfold State.admitWith
  split
  · exact h.refuse
  · exact .ite h.frame h.refuse

theorem admission (h : Canonical s) {q p} : Canonical (s.admission q p) := by
  unfold State.admission
  split
  · exact h.refuse
  · refine .ite h.admitWith ?_
    split
    · exact h.schedMeets.admitWith
    · exact h.refuse
    · exact h.memoryUe.refuse
    · exact h
    · exact h.postFault.frame

theorem launchAdmission (h : Canonical s) {q} : nextCanonical (execLaunchAdmission q s) := by
  unfold execLaunchAdmission
  split
  · exact nextCanonical_ite h.admission h
  · exact h

theorem tailNotify (h : Canonical s) {p} : nextCanonical (execTailNotify p s) := by
  unfold execTailNotify
  split
  · exact h
  · split
    · exact h
    · exact nextCanonical_ite h h.frame.consumeDevice

/-! ### Stores and reads of the host -/

theorem storeLine (h : Canonical s) {code access line l} : Canonical (s.storeLine code access line l) := by
  unfold State.storeLine
  extract_lets mine pas
  split
  · exact h.memoryUe
  · exact h.storeBytes.unpoisonAll.order

theorem hostStore (h : Canonical s) {code access l} : Canonical (s.hostStore code access l) := (h.foldl (fun _ k => k.storeLine) _).noteCode

theorem countReads (h : Canonical s) {lines} : Canonical (s.countReads lines) := by
  refine h.foldl (fun line k => ?_) lines
  split
  · exact k.memoryUe
  · exact k.correct

theorem orderReads (h : Canonical s) {code lines} : Canonical (s.orderReads code lines) := h.foldl (fun _ k => k.order) lines

theorem hostAct (h : Canonical s) {code access pa n f} : Canonical (s.hostAct code access pa n f) := by
  unfold State.hostAct
  extract_lets pas
  split
  · exact h.memoryUe
  · exact h.correct.storeBytes.noteCode.order

theorem completeCommand (h : Canonical s) {q status detail} : Canonical (s.completeCommand q status detail) := by
  unfold State.completeCommand
  split
  · exact h
  · exact h.writeCompletion.frame.closeSoon

/-! ### The commands of a host queue -/

theorem hostQueueConsume (h : Canonical s) {q} : nextCanonical (execHostQueueConsume q s) :=
  nextCanonical_ite h (nextCanonical_ite h (nextCanonical_ite h (ite h.frame.completeCommand h.frame)))

theorem qtail (h : Canonical s) {port q v} : nextCanonical (execQtail port q v s) := nextCanonical_ite h.frame h

theorem launchCommand (h : Canonical s) {q} : nextCanonical (execLaunchCommand q s) := by
  unfold execLaunchCommand
  split
  · exact nextCanonical_ite h h
  · exact h

theorem hcopy (h : Canonical s) {q} : nextCanonical (execHcopy q s) := by
  unfold execHcopy
  split
  · exact h
  · exact h

theorem moveHcopy (h : Canonical s) {q src dst n} : Canonical (s.moveHcopy q src dst n) := h.countReads.orderReads.hostStore.sendBytes.frame

theorem hcopyDone (h : Canonical s) {q} : nextCanonical (execHcopyDone q s) := by
  unfold execHcopyDone
  split
  · exact h
  · exact nextCanonical_ite h (nextCanonical_ite (ite h.completeCommand h) (nextCanonical_ite h.completeCommand (nextCanonical_ite h
      (nextCanonical_ite h.askRoom (ite h.moveHcopy.completeCommand h.moveHcopy)))))

theorem hcopyPart (h : Canonical s) {q i} : Canonical (s.hcopyPart q i) := by
  unfold State.hcopyPart
  split
  · exact h
  · exact .ite h (.ite h (.ite h h.countReads.orderReads.hostStore.frame))

theorem signal (h : Canonical s) {q} : nextCanonical (execSignal q s) := by
  unfold execSignal
  split
  · refine nextCanonical_ite h.addCounter.completeCommand ?_
    split
    · exact (h.forgets _).frame
    · exact nextCanonical_ite h h.addCounter.completeCommand
  · exact h

theorem wait (h : Canonical s) {q} : nextCanonical (execWait q s) := by
  unfold execWait
  split
  · exact nextCanonical_ite h.completeCommand h
  · exact h

theorem bind (h : Canonical s) {q} : nextCanonical (execBind q s) := by
  unfold execBind
  split
  · exact nextCanonical_ite h.completeCommand h.frame.completeCommand
  · exact h

theorem wsmode (h : Canonical s) {q} : nextCanonical (execWsmode q s) := by
  unfold execWsmode
  split
  · exact nextCanonical_ite h (nextCanonical_ite h.completeCommand h)
  · exact h

theorem wsmodeApply (h : Canonical s) {die} : nextCanonical (execWsmodeApply die s) := by
  unfold execWsmodeApply
  split
  · exact h
  · exact nextCanonical_ite h.frame.completeCommand h

theorem logctl (h : Canonical s) {q} : nextCanonical (execLogctl q s) := by
  unfold execLogctl
  split
  · exact h.frame.completeCommand
  · exact h

/-! ### The lease, BAR2 and the peers -/

theorem heartbeat (h : Canonical s) : Canonical s.heartbeat := by
  refine h.foldl (fun kv k => ?_) _
  split
  · exact k.request
  · exact k

/-- The two host memories change places. -/
theorem swapped (h : Canonical s) {p : Prop} [Decidable p] : Memory.wf (if p then s.mem else swapHosts s.mem) = true := by
  split
  · exact h
  · exact swapHosts_wf s.mem

theorem claim (h : Canonical s) {port v} : nextCanonical (execClaim port v s) := by
  refine nextCanonical_ite ?_ h
  refine heartbeat (frame (s := { s with mem := if port = s.host.owner then s.mem else swapHosts s.mem }) ?_)
  exact h.swapped

theorem leaseWrite (h : Canonical s) {port v} : nextCanonical (execLeaseWrite port v s) := nextCanonical_ite h h

theorem leaseWarning (h : Canonical s) : nextCanonical (execLeaseWarning s) := nextCanonical_ite h.frame.heartbeat h

theorem leaseExpiry (h : Canonical s) : nextCanonical (execLeaseExpiry s) := nextCanonical_ite h h

theorem hostBar2Write (h : Canonical s) {port offset bytes} : nextCanonical (execHostBar2Write port offset bytes s) :=
  nextCanonical_ite h (nextCanonical_ite h (nextCanonical_ite h.askRoom (nextCanonical_ite h h.hostStore.sendBytes)))

theorem bar2Read (h : Canonical s) {port offset n} : Canonical (s.bar2Read port offset n) :=
  .ite h (.ite h.askRoom (.ite h h.countReads.orderReads.frame))

theorem hostAtomic (h : Canonical s) {port offset op wide v} : nextCanonical (execHostAtomic port offset op wide v s) :=
  nextCanonical_ite h (nextCanonical_ite h.askRoom h.hostAct)

theorem remoteOp (h : Canonical s) {peer op} : Canonical (s.remoteOp peer op) := by
  cases op with
  | store a l => exact h.hostStore
  | bits a mask v => exact h.hostStore
  | atomic a k wide v => exact .ite h h.hostAct
  | cas a wide c v => exact h.hostAct
  | addOn a df kind v => exact h.hostAct
  | signal c amount => exact .ite h.addCounter h

theorem remoteOpArrive (h : Canonical s) {port peer op} : nextCanonical (execRemoteOpArrive port peer op s) :=
  nextCanonical_ite h (nextCanonical_ite h.askRoom (nextCanonical_ite h h.remoteOp))

/-! ### Accesses -/

theorem fullEmptyWaitSatisfied (h : Canonical s) {core i} : nextCanonical (execFullEmptyWaitSatisfied core i s) := by
  unfold execFullEmptyWaitSatisfied
  split
  · exact nextCanonical_ite h.tryPerform.rouse h
  · exact h

theorem variableLatencyResult (h : Canonical s) {i} : nextCanonical (execVariableLatencyResult i s) := by
  unfold execVariableLatencyResult
  split
  · exact nextCanonical_ite h.tryPerform.rouse h
  · exact h

theorem asyncWritePerformed (h : Canonical s) {i} : nextCanonical (execAsyncWritePerformed i s) := by
  unfold execAsyncWritePerformed
  split
  · exact nextCanonical_ite h.tryPerform.rouse h
  · exact h

theorem remoteFlags (h : Canonical s) {a flags} : Canonical (s.remoteFlags a flags) := by
  unfold State.remoteFlags
  refine .ite h.flagAccess ?_
  split
  · exact h.orBlockFlags
  · exact h

theorem remoteAck (h : Canonical s) {i values} : nextCanonical (execRemoteAck i values s) := by
  unfold execRemoteAck
  split
  · split
    · exact nextCanonical_ite h h.remoteFlags.complete.rouse
    · exact h
  · exact h

theorem remoteTimeout (h : Canonical s) {i} : nextCanonical (execRemoteTimeout i s) := by
  unfold execRemoteTimeout
  split
  · split
    · exact nextCanonical_ite h.accessTrap.finish h
    · exact h
  · exact h

theorem sftloadTableWrite (h : Canonical s) {core} : nextCanonical (execSftloadTableWrite core s) := by
  unfold execSftloadTableWrite
  split
  · exact h
  · extract_lets s1 s2 s3 watched
    have performed : Canonical s2 := by
      simp only [s2]
      split
      · exact h.openSft.tryPerform
      · exact h.openSft
    exact rouse (.ite performed.frame.setWait performed.frame)

theorem modeVliwContextTaken (h : Canonical s) {g sl} : nextCanonical (execModeVliwContextTaken g sl s) := by
  unfold execModeVliwContextTaken
  split
  · exact nextCanonical_ite h.frame.rouse h
  · exact h

theorem sleepExpiry (h : Canonical s) {p} : nextCanonical (execSleepExpiry p s) := by
  unfold execSleepExpiry
  split
  · exact nextCanonical_ite h.setWait.setSlept.rouse h
  · exact h

theorem bundleIssue (h : Canonical s) {header slots pool} : nextCanonical (execBundleIssue header slots pool s) := by
  unfold execBundleIssue
  split
  · exact h
  · split
    · exact issueBundle_canonical h
    · exact issueBundle_canonical h
    · exact h

theorem emptyRun (h : Canonical s) {header} : nextCanonical (execEmptyRun header s) := by
  unfold execEmptyRun
  split
  · exact h
  · refine nextCanonical_ite h ?_
    split
    · exact runEmpty_canonical h
    · exact runEmpty_canonical h
    · exact h

end Canonical

end Sys2Proof.Laws
end

section
/-!
SUPPORT. The canonical form of memory through reset, power, upkeep, partitions, replays, services and the debugger (spec/11 R302; spec/18 R402, R411;
spec/19 R417 to R437; spec/20 R442 to R451; spec/21 R452 to R459; spec/22 R462 to R469).
-/
namespace Sys2Proof.Laws

open Sys2Proof Sys2Proof.Machine

set_option Elab.async false

/-- What the retry of a replayed item leaves has canonical memory. -/
def retryCanonical : Retry → Prop
  | .done t => Canonical t
  | .again t _ _ _ _ => Canonical t

namespace Canonical

variable {s : State}

/-! ### Reset and power -/

theorem cleared (h : Canonical s) : Canonical s.cleared := h.swapped

theorem moduleReset (h : Canonical s) {readable} : nextCanonical (execModuleReset readable s) := by
  unfold execModuleReset
  extract_lets +onlyGivenNames code c
  have clears : Canonical c := h.cleared
  split
  · split
    · exact bootMem_wf clears
    · exact clears
  · exact clears

theorem throttle (h : Canonical s) {die n} : Canonical (throttle die n s) := by
  induction n generalizing s with
  | zero => exact h
  | succ n ih =>
    unfold Machine.throttle
    refine .ite h ?_
    split
    · exact h
    · exact ih h.frame

theorem release (h : Canonical s) {die} : Canonical (release die s) := by
  unfold Machine.release
  refine .ite h ?_
  split
  · exact h
  · exact .ite h.frame h

theorem windowBoundary (h : Canonical s) {die temperature energy} : nextCanonical (execWindowBoundary die temperature energy s) := by
  unfold execWindowBoundary
  refine nextCanonical_ite h ?_
  extract_lets +onlyGivenNames t enters s1 s2
  have moved : Canonical s1 := h.frame
  have noted : Canonical s2 := .ite moved.rasAdd moved
  exact nextCanonical_ite (noted.foldl (fun _ k => k.frame) _) noted.throttle.release

/-! ### Upkeep -/

theorem scrub (h : Canonical s) {line} : Canonical (s.scrub line) := .ite h (.ite h.frame.memoryUe h.correct)

theorem refreshWindowOpen (h : Canonical s) {die} : nextCanonical (execRefreshWindowOpen die s) := by
  unfold execRefreshWindowOpen
  split
  · exact nextCanonical_ite (foldl (fun _ k => k.scrub) _ h.frame) h
  · exact h

theorem refreshWindowEnd (h : Canonical s) {die} : nextCanonical (execRefreshWindowEnd die s) := nextCanonical_ite h.flushLate.frame h

theorem patrolScrub (h : Canonical s) {line} : nextCanonical (execPatrolScrub line s) := by
  unfold execPatrolScrub
  split
  · exact h.scrub
  · exact h.scrub
  · exact h

theorem dramRowRepair (h : Canonical s) {line spare} : nextCanonical (execDramRowRepair line spare s) := by
  unfold execDramRowRepair
  extract_lets +onlyGivenNames pa die clean go
  have scrubbed : Canonical clean := h.foldl (fun _ k => k.scrub) _
  have repaired (cls) : Canonical (go cls) := by
    simp only [go]
    split
    · have marked : Canonical (s.rowDone line) := h.frame
      refine .ite ?_ marked.rasAdd
      exact marked.rasAdd.frame
    · refine .ite h ?_
      exact scrubbed.frame.rasAdd
  refine nextCanonical_ite h ?_
  split
  · exact repaired 5
  · exact repaired 6
  · exact repaired 4
  · exact h

theorem weightStoreBankRepair (h : Canonical s) {die bank} : nextCanonical (execWeightStoreBankRepair die bank s) :=
  nextCanonical_ite h (nextCanonical_ite h.frame.rasAdd (nextCanonical_ite h h.frame.rasAdd))

theorem runnerLaneSpare (h : Canonical s) {port lane} : nextCanonical (execRunnerLaneSpare port lane s) := by
  unfold execRunnerLaneSpare
  refine nextCanonical_ite h ?_
  extract_lets +onlyGivenNames n spare s1 s2
  have widened : Canonical s1 := h.frame
  have counted : Canonical s2 := .ite widened.frame widened
  exact counted.rasAdd

theorem flitReplay (h : Canonical s) {port} : nextCanonical (execFlitReplay port s) := nextCanonical_ite h h.countCe

theorem corespareGo (h : Canonical s) {port die v} : nextCanonical (execCorespareGo port die v s) :=
  nextCanonical_ite h (nextCanonical_ite h.frame.rasAdd h)

theorem setFar (h : Canonical s) {pair state moved} : Canonical (s.setFar pair state moved) := h.frame.rasAdd

theorem fmctlDrain (h : Canonical s) {port pair} : nextCanonical (execFmctlDrain port pair s) := nextCanonical_ite h.setFar h

theorem fmctlRestore (h : Canonical s) {port pair} : nextCanonical (execFmctlRestore port pair s) := nextCanonical_ite h.setFar h

theorem farMemoryUnitMove (h : Canonical s) {pair} : nextCanonical (execFarMemoryUnitMove pair s) := nextCanonical_ite (nextCanonical_ite h.setFar h) h

theorem regWrite (h : Canonical s) {offset v} : Canonical (s.regWrite offset v) := by
  unfold State.regWrite
  refine .ite h (.ite h (.ite ?_ (.ite h (.ite h (.ite h h)))))
  split
  · exact h
  · exact h
  · exact h

/-! ### Partitions -/

theorem completes (h : Canonical s) (l : List Nat) : Canonical (l.foldl State.completeLaunch s) := h.foldl (fun _ k => k.completeLaunch) l

theorem endLaunches (h : Canonical s) {p f} : Canonical (s.endLaunches p f) := h.of_mem (endLaunches_workKept s p f).mem

theorem removePart (h : Canonical s) {p} : Canonical (s.removePart p) := h

theorem partitionCreate (h : Canonical s) {q} : nextCanonical (execPartitionCreate q s) := by
  unfold execPartitionCreate
  split
  · exact h
  · refine nextCanonical_ite h.completeCommand (nextCanonical_ite h.completeCommand (nextCanonical_ite h.completeCommand ?_))
    exact (h.frame.foldl (fun _ k => k.frame) _).completeCommand

theorem partitionDestroy (h : Canonical s) {q} : nextCanonical (execPartitionDestroy q s) := by
  unfold execPartitionDestroy
  split
  · exact h
  · extract_lets p
    split
    · exact h.completeCommand
    · exact nextCanonical_ite h.completeCommand h.removePart.completeCommand
    · exact (h.endLaunches.frame.completes _).removePart.completeCommand

theorem preempt (h : Canonical s) {p} : Canonical (s.preempt p) := h.foldl (fun _ k => k.rouse.foldl (fun _ k => k.frame) _) _

theorem startHalt (h : Canonical s) {p q target} : Canonical (s.startHalt p q target) := h.frame.preempt

theorem partitionSave (h : Canonical s) {q} : nextCanonical (execPartitionSave q s) := by
  unfold execPartitionSave
  split
  · exact h
  · exact nextCanonical_ite h (nextCanonical_ite h.completeCommand h.startHalt)

theorem partitionSaveResume (h : Canonical s) {q} : nextCanonical (execPartitionSaveResume q s) := by
  unfold execPartitionSaveResume
  split
  · exact h
  · exact nextCanonical_ite h (nextCanonical_ite h.completeCommand (nextCanonical_ite h.completeCommand (nextCanonical_ite h.completeCommand h.startHalt)))

theorem landNow (h : Canonical s) {g key} : Canonical (s.landNow g key) := h

theorem takeYield (h : Canonical s) {g} : Canonical (s.takeYield g) := by
  unfold State.takeYield
  split
  · exact h
  · exact .ite h.landNow h.landNow.raise

theorem stopRunning (h : Canonical s) {g} : Canonical (s.stopRunning g) := h.takeYield.frame

theorem loseWork (h : Canonical s) {p} : Canonical (s.loseWork p) := h.endLaunches.rasAdd

theorem without (h : Canonical s) {p} : Canonical (s.without p) := h

theorem save (h : Canonical s) {p lost} : Canonical (s.save p lost) := by
  unfold State.save
  extract_lets +onlyGivenNames sh s1
  have left : Canonical s1 := without (p := p) (ite h.loseWork h)
  refine .ite ?_ left.frame
  extract_lets +onlyGivenNames s2
  have unlocked : Canonical s2 := left.foldl (fun _ k => k.frame) _
  exact unlocked.frame

theorem resume (h : Canonical s) {p new lost} : Canonical (s.resume p new lost) := by
  unfold State.resume
  extract_lets +onlyGivenNames x old d locked s1 s2 sched s3
  have left : Canonical s1 := .ite h.loseWork h
  have active : Canonical s3 := left.frame
  split
  · exact active.frame
  · exact active.foldl (fun _ k => k.frame) _

theorem goOn (h : Canonical s) {p} : Canonical (s.goOn p) := h.frame.foldl (fun _ k => k.frame) _

theorem partitionResume (h : Canonical s) {q lost} : nextCanonical (execPartitionResume q lost s) := by
  unfold execPartitionResume
  split
  · exact h
  · split
    · exact h.completeCommand
    · exact h.resume.completeCommand

theorem partitionHaltComplete (h : Canonical s) {p loss} : nextCanonical (execPartitionHaltComplete p loss s) := by
  unfold execPartitionHaltComplete
  extract_lets +onlyGivenNames x
  refine nextCanonical_ite h ?_
  extract_lets +onlyGivenNames t
  have stopped : Canonical t := h.foldl (fun _ k => k.stopRunning) _
  refine nextCanonical_ite stopped ?_
  split
  · exact stopped.goOn.completeCommand
  · extract_lets +onlyGivenNames u
    have saved : Canonical u := stopped.save
    split
    · exact saved.resume.completeCommand
    · exact saved.completeCommand

theorem discard (h : Canonical s) {p} : nextCanonical (execDiscard p s) := by
  unfold execDiscard
  split
  · exact h
  · exact h.endLaunches.frame

/-! ### Replays -/

theorem retryAccess (h : Canonical s) {i} : retryCanonical (retryAccess s i) := by
  unfold Machine.retryAccess
  split
  · exact h
  · split
    · rename_i t b eq
      have resolved : Canonical t := h.resolve_ok eq
      have listed {l} : Canonical { t.learn b.core b.pages with accs := l } := resolved.learn
      exact readRecords (.ite listed.watchLate listed)
    · exact h
    · exact h.accessTrap

theorem retryFetch (h : Canonical s) {p : Party} {va code} : retryCanonical (retryFetch s p va code) := by
  unfold Machine.retryFetch
  split
  · exact ite h.learn.setWait.rouse h.learn
  · exact h
  · exact h.raise

theorem itemSpend (h : Canonical s) {core item} : Canonical (s.itemSpend core item) := by cases item <;> exact h

theorem retryRecord (h : Canonical s) {core i e} : Canonical (s.retryRecord core i e) := by
  unfold State.retryRecord
  extract_lets p t
  have spent : Canonical t := .ite (itemSpend (releaseLog h)) h
  exact .ite spent spent.decision

theorem retryItem (h : Canonical s) {core i e} : Canonical (s.retryItem core i e) := by
  unfold State.retryItem
  extract_lets put settle
  have puts {t} (k : Canonical t) : Canonical (put t) := k
  have settles {r} (k : retryCanonical r) : Canonical (settle r) := by
    cases r with
    | done t => exact k
    | again t n lv va acc => exact puts (enterReplay k)
  split
  · exact settles h.retryAccess
  · rename_i p va code eq
    have fetched := Canonical.retryFetch (s := s) h (p := p) (va := va) (code := code)
    split
    case h_1 eq =>
      rw [eq] at fetched
      exact .ite (releaseLog fetched) fetched
    case h_2 => exact settles fetched
  · exact puts h.frame.prepareCopy
  · split
    · exact h
    · split
      · exact h.learn
      · exact puts h.enterReplay
      · exact puts h.enterReplay
      · exact h.engTrap

theorem fillReplay (h : Canonical s) {n core} : Canonical (State.fillReplay n core s) := by
  induction n generalizing s with
  | zero => exact h
  | succ n ih =>
    unfold State.fillReplay
    split
    · exact h
    · exact .ite h (ih h.frame.retryItem)

theorem replayRetry (h : Canonical s) {core i} : nextCanonical (execReplayRetry core i s) := by
  unfold execReplayRetry
  split
  · exact h
  · refine nextCanonical_ite h ?_
    exact h.request.retryRecord.frame.retryItem.fillReplay

/-! ### Services -/

theorem serviceRunStart (h : Canonical s) {g} : nextCanonical (execServiceRunStart g s) := by
  unfold execServiceRunStart
  split
  · exact h
  · exact nextCanonical_ite h.takeYield h.takeYield.frame

theorem serviceRunLimit (h : Canonical s) {g} : nextCanonical (execServiceRunLimit g s) := by
  unfold execServiceRunLimit
  split
  · exact nextCanonical_ite h h.endRun.meetUe.startDiscard
  · exact h

/-! ### The debugger -/

theorem haltContext (h : Canonical s) {g sl} : Canonical (s.haltContext g sl) := .ite (.ite h.stopRunning.frame h) h

theorem command (h : Canonical s) {key op mask} : Canonical (s.command key op mask) := by
  unfold State.command
  split
  · exact h
  · extract_lets context
    refine .ite h ?_
    split
    · exact .ite h.haltContext h
    · exact .ite h h
    · exact .ite h h
    · exact .ite h h
    · exact h

theorem slotPut (h : Canonical s) {core key o u l} : Canonical (s.slotPut core key o u l) := by
  unfold State.slotPut
  split
  · exact h
  · split
    · exact .ite (ite h.openSft h).frame h
    · exact .ite h h
    · exact h.command
    · exact h

/-- The address of the window's first byte is a number that the kernel would count down from one by one, so the two functions that subtract it stand here
under names of their own. -/
theorem windowPut (h : Canonical s) {u l} : Canonical (s.windowPut u l) := by
  obtain ⟨put, puts⟩ : ∃ put, put = State.windowPut := ⟨_, rfl⟩
  obtain ⟨core, cores⟩ : ∃ core, core = windowCore := ⟨_, rfl⟩
  obtain ⟨slot, slots⟩ : ∃ slot, slot = windowSlot := ⟨_, rfl⟩
  rw [← puts]
  delta State.windowPut at puts
  rw [← cores, ← slots] at puts
  rw [puts]
  dsimp only
  split
  · exact h
  · split
    · exact h.slotPut
    · exact .ite h h

theorem windowLane (h : Canonical s) {a l} : Canonical (s.windowLane a l) := h.storeBytes.foldl (fun _ k => k.windowPut) _

theorem performWindow (h : Canonical s) {a} : Canonical (s.performWindow a) := by
  unfold State.performWindow
  extract_lets +onlyGivenNames vas pas
  split
  · exact h.accessTrap
  · exact (h.foldl (fun _ k => k.windowLane) _).unpoisonAll.record.sendOrFinish

theorem windowEvent (h : Canonical s) {i op} : nextCanonical (windowEvent i op s) := by
  unfold Machine.windowEvent
  split
  · exact h
  · exact nextCanonical_ite h h.performWindow.rouse

theorem sampleGroup (h : Canonical s) {g} : Canonical (s.sampleGroup g) := by
  unfold State.sampleGroup
  extract_lets +onlyGivenNames core part x
  refine .ite h ?_
  split
  · exact h.stopRecord
  · exact .ite h h.reserveLog.appendLog.frame

theorem samplePeriod (h : Canonical s) {core} : nextCanonical (execSamplePeriod core s) := nextCanonical_ite h h.sampleGroup.sampleGroup.frame

end Canonical

/-! ### Every instruction and every event -/

/-- A form issues with its meaning. -/
theorem exec_of_semOf {i : Instr} {m : Sem} (means : semOf i = some m) (s : State) : exec i s = runSem m s := by
  cases i <;> cases means <;> rfl

/-- What an instruction or an event does keeps the canonical form of memory. -/
theorem exec_canonical {s : State} (h : Canonical s) (i : Instr) : nextCanonical (exec i s) := by
  cases means : semOf i with
  | some m =>
    rw [exec_of_semOf means]
    exact runSem_canonical (form_keepsCanonical means) h
  | none =>
    cases i with
    | moduleReset r => exact h.moduleReset
    | sftloadTableWrite c => exact h.sftloadTableWrite
    | fullEmptyWaitSatisfied c n => exact h.fullEmptyWaitSatisfied
    | variableLatencyResult n => exact h.variableLatencyResult
    | asyncWritePerformed n => exact h.asyncWritePerformed
    | cpyWaitEnter c => exact h.cpyWaitEnter
    | copyCommandStart c n => exact h.copyCommandStart
    | copyCommandFinish c n => exact h.copyCommandFinish
    | matrixOpStart c p => exact h.matrixOpStart
    | matrixOpComplete c p => exact h.matrixOpComplete
    | modeVliwContextTaken g sl => exact h.modeVliwContextTaken
    | sleepExpiry p => exact h.sleepExpiry
    | tailNotify p => exact h.tailNotify
    | bundleIssue header slots pool => exact h.bundleIssue
    | emptyRun header => exact h.emptyRun
    | replayRetry c n => exact h.replayRetry
    | discard p => exact h.discard
    | blockPlace l cores => exact h.blockPlace
    | launchAdmission q => exact h.launchAdmission
    | recordAging q => exact h.recordAging
    | launchComplete l => exact h.launchComplete
    | qtail port q v => exact h.qtail
    | hostQueueConsume q => exact h.hostQueueConsume
    | launchCommand q => exact h.launchCommand
    | hcopy q => exact h.hcopy
    | hcopyDone q => exact h.hcopyDone
    | signal q => exact h.signal
    | wait q => exact h.wait
    | bind q => exact h.bind
    | wsmode q => exact h.wsmode
    | wsmodeApply d => exact h.wsmodeApply
    | logctl q => exact h.logctl
    | partitionCreate q => exact h.partitionCreate
    | partitionDestroy q => exact h.partitionDestroy
    | partitionSave q => exact h.partitionSave
    | partitionResume q lost => exact h.partitionResume
    | partitionSaveResume q => exact h.partitionSaveResume
    | partitionHaltComplete p loss => exact h.partitionHaltComplete
    | claim port v => exact h.claim
    | leaseWrite port v => exact h.leaseWrite
    | leaseWarning => exact h.leaseWarning
    | leaseExpiry => exact h.leaseExpiry
    | hostBar2Write port offset bytes => exact h.hostBar2Write
    | hostAtomic port offset op wide v => exact h.hostAtomic
    | remoteOpArrive port peer op => exact h.remoteOpArrive (port := port)
    | remoteAck n values => exact h.remoteAck
    | remoteTimeout n => exact h.remoteTimeout
    | serviceRunStart g => exact h.serviceRunStart
    | serviceRunLimit g => exact h.serviceRunLimit
    | deadlineExpiry g => exact nextCanonical_ite h h
    | coreWake c cause => exact nextCanonical_ite h (nextCanonical_ite h h)
    | refreshWindowOpen d => exact h.refreshWindowOpen
    | refreshWindowEnd d => exact h.refreshWindowEnd
    | patrolScrub line => exact h.patrolScrub
    | dramRowRepair line spare => exact h.dramRowRepair
    | weightStoreBankRepair d bank => exact h.weightStoreBankRepair
    | runnerLaneSpare port lane => exact h.runnerLaneSpare
    | windowBoundary d temperature energy => exact h.windowBoundary
    | samplePeriod c => exact h.samplePeriod
    | dcmdHalt n | dcmdRelease n | dcmdStep1 n | dcmdStepy n | debugWindowWrite n => exact h.windowEvent
    | corespareGo port d v => exact h.corespareGo
    | fmctlDrain port pair => exact h.fmctlDrain
    | fmctlRestore port pair => exact h.fmctlRestore
    | farMemoryUnitMove pair => exact h.farMemoryUnitMove
    | farMemoryModuleRemoved pair | farMemoryModuleSeated pair => exact nextCanonical_ite h h
    | tdctlSnap port | tdctlLive port | tdctlClear port => exact nextCanonical_ite h h
    | registerWrite port offset v => exact nextCanonical_ite h.regWrite h
    | fixedLatencyResult g sl => show nextCanonical (execFixedLatencyResult g sl s); unfold execFixedLatencyResult; split <;> exact h
    | eviction what => cases what <;> exact h
    | logBufferRoom p kind => exact nextCanonical_ite h h
    | flitReplay port => exact h.flitReplay
    | _ => cases means

end Sys2Proof.Laws
end

section
/-!
SUPPORT. The canonical form of memory through the attempts of the parties, the end of a cycle and a step (spec/11 R302; spec/03 R83 to R94; spec/20 R444 to
R449).
-/
namespace Sys2Proof.Laws

open Sys2Proof Sys2Proof.Machine

set_option Elab.async false

/-- The state in which an attempt is over, or in which its item runs, has canonical memory. -/
def prepCanonical : Prep → Prop
  | .done t => Canonical t
  | .run t _ => Canonical t

theorem prepCanonical_ite {p : Prop} [Decidable p] {x y : Prep} (h : prepCanonical x) (k : prepCanonical y) : prepCanonical (if p then x else y) := by
  split
  · exact h
  · exact k

namespace Canonical

variable {s : State}

/-! ### The next item of a party -/

theorem trapWord (h : Canonical s) {p pc locked t} : Canonical (s.trapWord p pc locked t) := by
  unfold State.trapWord
  split
  · exact h.raise
  · exact h.accountTrap.raise

theorem fetchAt_ok (h : Canonical s) {core part locked va n t v} (eq : Machine.fetchAt s core part locked va n = .ok t v) : Canonical t := by
  have fetched := h.fetchAt (core := core) (part := part) (locked := locked) (va := va) (n := n)
  rwa [eq] at fetched

theorem prepareWord (h : Canonical s) {p view rows pc locked lp} : prepCanonical (prepareWord s p view rows pc locked lp) := by
  unfold Machine.prepareWord
  extract_lets core part decoded
  have decodes {t} (k : Canonical t) (x y) : prepCanonical (decoded t x y) := by
    simp only [decoded]
    split
    · exact k.frame
    · exact k.trapWord
  refine prepCanonical_ite h.trapWord ?_
  split
  · exact h.trapWord
  · exact h.fetchFault
  · exact h.fetchHeld
  · rename_i t x eq
    have read : Canonical t := h.fetchAt_ok eq
    refine prepCanonical_ite (decodes read _ _) (prepCanonical_ite read.trapWord ?_)
    split
    · exact read.trapWord
    · exact read.fetchFault
    · exact read.fetchHeld
    · exact decodes (read.fetchAt_ok ‹_›) _ _

theorem preparePath (h : Canonical s) {g sl i} : prepCanonical (preparePath s g sl i) := by
  unfold Machine.preparePath
  extract_lets key w p
  split
  · exact h
  · split
    · exact h.stop
    · split
      · exact h.stop.frame
      · exact h.prepareWord

theorem stallSlot (h : Canonical s) {p pc key} : Canonical (s.stallSlot p pc key) := h.account.takePorts.serviceSlot.frame

theorem prepareBundle (h : Canonical s) {p pc header locked lp} : prepCanonical (prepareBundle s p pc header locked lp) := by
  unfold Machine.prepareBundle
  extract_lets n m size go
  have runs {t} (k : Canonical t) (v) : prepCanonical (go t v) := k.frame
  refine prepCanonical_ite h.trapWord (prepCanonical_ite (runs h 0) ?_)
  split
  · exact h.trapWord
  · exact h.fetchFault
  · exact h.fetchHeld
  · exact runs (h.fetchAt_ok ‹_›) _

theorem breakContext (h : Canonical s) {p key x header n} : Canonical (s.breakContext p key x header n) := h.stop.frame

theorem prepareItem (h : Canonical s) {p key} : prepCanonical (prepareItem s p key) := by
  unfold Machine.prepareItem
  extract_lets w
  split
  · exact h
  · refine prepCanonical_ite h.stallSlot ?_
    extract_lets lp go
    have goes {t} (k : Canonical t) (header) : prepCanonical (go t header) := by
      simp only [go]
      split
      · exact k.breakContext
      · refine prepCanonical_ite k.frame ?_
        exact prepareBundle k.frame
    refine prepCanonical_ite (goes h _) (prepCanonical_ite h.trapWord ?_)
    split
    · exact h.trapWord
    · exact h.fetchFault
    · exact h.fetchHeld
    · exact goes (h.fetchAt_ok ‹_›) _

theorem prepareService (h : Canonical s) {g} : prepCanonical (prepareService s g) := by
  unfold Machine.prepareService
  extract_lets +onlyGivenNames key
  split
  · exact h
  · extract_lets poff starts s1
    have counted : Canonical s1 := .ite h.frame h
    exact prepCanonical_ite counted.endRun.endPredicate counted.prepareItem

theorem prepare (h : Canonical s) {p} : prepCanonical (prepare s p) := by
  unfold Machine.prepare
  split
  · exact h.preparePath
  · exact h.prepareItem
  · exact h.prepareService
  · split
    · exact h.prepareWord
    · exact h

/-! ### After an attempt -/

theorem stepPath (h : Canonical s) {g sl i issued} : Canonical (s.stepPath g sl i issued) := by
  unfold State.stepPath
  extract_lets key
  split
  · exact h
  · exact .ite h (.ite h (.ite h (.ite h h.stop)))

theorem endPath (h : Canonical s) {g sl i} : Canonical (s.endPath g sl i) := by
  unfold State.endPath
  extract_lets +onlyGivenNames key now issued s1
  have tried : Canonical s1 := .ite h h.frame
  exact tried.stepPath

theorem stepThread (h : Canonical s) {g sl issued} : Canonical (s.stepThread g sl issued) := by
  unfold State.stepThread
  extract_lets key runs hold
  have holds : Canonical (hold s) := h.frame
  split
  · exact h
  · have stepy : Canonical (s.takeYield g) := h.takeYield
    exact .ite h (.ite (.ite h.haltContext h)
      (.ite (.ite holds (.ite h (.ite h (.ite stepy.frame h.stop)))) (.ite h (.ite holds (.ite h (.ite h h.stop))))))

theorem endThread (h : Canonical s) {g sl slots ran} : Canonical (s.endThread g sl slots ran) := by
  unfold State.endThread
  extract_lets +onlyGivenNames key now issued s1 blocked fresh s2
  have tried : Canonical s1 := .ite h h.frame
  have ended : Canonical s2 := .ite tried.frame tried
  exact ended.stepThread

theorem attempt (h : Canonical s) {p} : Canonical (s.attempt p) := by
  unfold State.attempt
  extract_lets +onlyGivenNames go
  have goes {t} (k : Canonical t) : Canonical (go t) := by
    simp only [go]
    have prepared := k.prepare (p := p)
    split
    case h_1 eq =>
      rw [eq] at prepared
      exact prepared
    case h_2 u i eq =>
      rw [eq] at prepared
      have issued := exec_canonical prepared i
      split
      case h_1 ends =>
        rw [ends] at issued
        exact issued
      case h_2 => exact k
  clear_value go
  split
  · exact (goes h).endPath
  · extract_lets ran s1
    have started : Canonical s1 := .ite h h.frame
    exact (goes started).endThread
  · exact .ite (goes h) (goes h).frame
  · exact (goes h).frame

/-! ### The end of a cycle -/

theorem tickTree (h : Canonical s) : Canonical s.tickTree := h.foldl (fun _ k => k.frame) _

theorem tickActive (h : Canonical s) {g} : Canonical (s.tickActive g) := by
  unfold State.tickActive
  extract_lets +onlyGivenNames l ready room t leaving
  have filled : Canonical t := h.foldl (fun _ k => k.frame) _
  exact .ite h (filled.foldl (fun _ k => k.frame) _)

theorem tickWaits (h : Canonical s) {g} : Canonical (s.tickWaits g) := by
  unfold State.tickWaits
  extract_lets +onlyGivenNames x
  refine .ite h (foldl (fun _ k => ?_) _ h)
  exact .ite k k.frame

theorem tickLanes (h : Canonical s) : Canonical s.tickLanes := by
  unfold State.tickLanes
  extract_lets +onlyGivenNames s1 s2
  have counted : Canonical s1 := h.frame
  have waited : Canonical s2 := counted.foldl (fun _ k => k.tickWaits.tickActive) _
  exact waited.frame

theorem tickCores (h : Canonical s) : Canonical s.tickCores := by
  unfold State.tickCores
  extract_lets t
  have clocked : Canonical t := h.frame
  refine foldl (fun _ k => ?_) _ clocked
  exact .ite k k.frame

theorem tick (h : Canonical s) : Canonical s.tick := .ite h h.closeAll.tickTree.tickLanes.tickCores.frame

/-! ### One step -/

theorem rereadScratch (h : Canonical s) {key result lane byte} : Canonical (s.rereadScratch key result lane byte) := by
  unfold State.rereadScratch
  extract_lets w
  split
  · exact h
  · split
    · exact h
    · exact .ite h h

theorem copyError (h : Canonical s) {core arrival va hard} : Canonical (s.copyError core arrival va hard) := by
  unfold State.copyError
  split
  · exact h
  · exact .ite h (.ite h.countUe.chargeCopy h.countCe)

theorem actPart (h : Canonical s) {p} : Canonical (s.actPart p) := by
  cases p with
  | pipe id => exact h.pipe
  | access id lane va => exact h.accessPart
  | copyRead core arrival point va => exact h.copyRead
  | copyWrite core arrival point va => exact h.copyWrite
  | drain core unit => exact h.drainPart
  | engineRead core path pa => exact h.engineRead
  | scratchRead key result lane byte => exact h.rereadScratch
  | hcopy q i => exact h.hcopyPart

theorem arrayError (h : Canonical s) {p cls hard} : Canonical (s.arrayError p cls hard) := .ite h (.ite h.countUe.takeTrap h.countCe)

theorem actInput (h : Canonical s) {x} : Canonical (s.actInput x) := by
  cases x with
  | bar2 bytes => exact .ite h h
  | refuseAtomic id => exact h.refuseAtomic
  | upset line hard => exact .ite h h
  | arrayError p cls hard => exact h.arrayError
  | copyError core arrival va hard => exact h.copyError
  | bar2Read port offset n => exact h.bar2Read

theorem act (h : Canonical s) (a : Action) : nextCanonical (s.act a) := by
  cases a with
  | event i => exact exec_canonical h i
  | part p => exact h.actPart
  | input x => exact h.actInput
  | attempt p => exact h.attempt
  | tornAttempt p =>
    have torn : Canonical { s with torn := true } := h
    exact torn.attempt.frame
  | tick => exact h.tick

/-- Choosing an action takes at most an entry of the agenda. -/
theorem action (h : Canonical s) : Canonical (action s).1 := by
  unfold Machine.action
  split
  · split
    · exact h
    · exact h
    · exact h.frame
  · split
    · exact h
    · exact h

end Canonical

/-- What a step leaves has canonical memory. -/
theorem step_canonical {s : State} (h : Canonical s) : nextCanonical (step s) := h.action.act (action s).2

/-- Settles O20: memory is written only through `memWrite`, `memPut` and the swap of host memory, each of which keeps the canonical form, and every operation
that a step is made of either leaves memory or writes it through those. -/
theorem memoryStaysCanonical : Obligations.MemoryStaysCanonical := by
  unfold Obligations.MemoryStaysCanonical
  intro s t h next
  have stepped := step_canonical h
  rwa [next] at stepped

end Sys2Proof.Laws
end

section
/-!
SUPPORT. The events of the copy engine and of the matrix engine under their conditions (spec/12 R337, R338, R342; spec/07 R211; spec/13 R346).
-/
namespace Sys2Proof.Laws

open Sys2Proof Sys2Proof.Machine

/-- A trap that is looked for before the first byte alone does not come when there is none of it then. -/
theorem trapAtFirst_none {α : Type} {parts : List α} {trap : Option Trap} (h : parts = [] → trap = none) :
    (if parts.isEmpty then trap else none) = none := by
  split
  case isTrue untouched => exact h (List.isEmpty_iff.mp untouched)
  case isFalse => rfl

/-! ### The copy engine -/

theorem exec_copyCommandStart {s : State} {core : Nat} {c : CopyCmd} (due : s.copyDue core = some c) :
    exec (.copyCommandStart core c.arrival) s =
      .next (((s.modCore core fun x => { x with copyStart := s.ccnt + 1 }).modCopy core c.arrival fun c => { c with moving := true }).prepareCopy core
        c.arrival) := by
  show execCopyCommandStart core c.arrival s = _
  simp only [execCopyCommandStart, due, if_true]

section Finish

variable {s : State} {core n : Nat} {c : CopyCmd} (found : (s.core core).copy? n = some c) (timed : copyTimed s core c = true)
  (noTable : copyTable s c = false)

include found timed noTable

/-- A command that nothing stops moves what is left of it, and ends at once when it left nothing for a peer. -/
theorem exec_copyCommandFinish_moves (room : copyBlocked s c = false) (still : c.moved = false)
    (homes : c.put = [] → homesTrap s c.pages c.wpages c.ranges.1 c.ranges.2 = none) {d : CopyCmd}
    (after : ((s.moveCopy core c).core core).copy? n = some d) (performed : ∀ j ∈ d.remote, (s.moveCopy core c).acc? j = none) :
    exec (.copyCommandFinish core n) s = .next ((s.moveCopy core c).endCopy core d) := by
  have allowed := trapAtFirst_none homes
  have gone : (d.remote.all fun j => ((s.moveCopy core c).acc? j).isNone) = true := by simpa using performed
  show execCopyCommandFinish core n s = _
  simp only [execCopyCommandFinish, found, timed, noTable, room, still, allowed, after, gone, Bool.not_true, Bool.false_eq_true, if_false, if_true]

/-- A command that has moved waits for no slice, and its time comes with the last of its writes. -/
theorem exec_copyCommandFinish_ends (moved : c.moved = true) : exec (.copyCommandFinish core n) s = .next (s.endCopy core c) := by
  have room : copyBlocked s c = false := by rw [copyBlocked, moved, Bool.not_true, Bool.false_and]
  have gone : (c.remote.all fun j => (s.acc? j).isNone) = true := by
    simp only [copyTimed, moved, if_true, Bool.and_eq_true] at timed
    exact timed.2
  show execCopyCommandFinish core n s = _
  simp only [execCopyCommandFinish, found, timed, noTable, room, moved, gone, Bool.not_true, Bool.false_eq_true, if_false, if_true]

end Finish

theorem exec_cpyWaitEnter {s : State} {core : Nat} {x : CopyWaiter} {r : List CopyWaiter} (first : s.copyWaiters core = x :: r)
    (free : (s.core core).copies.length < Config.copyEntries) :
    exec (.cpyWaitEnter core) s = .next ((if s.waitOf (x.party s) = .copyBuffer then s.setWait (x.party s) .none else s).rouse core 4) := by
  show execCpyWaitEnter core s = _
  simp only [execCpyWaitEnter, first, Nat.not_le.mpr free, if_false]

/-! ### What runs on a path -/

@[simp] theorem run_setRun (g : Engine) (path : Nat) (r : Option EngRun) : (g.setRun path r).run path = r := by
  match path with
  | 0 | 1 | _ + 2 => rfl

/-- The tiles, slots, panels and scale of an engine. -/
def engineData (g : Engine) : Tbl TileBits × Tbl (BitVec 65536) × Tbl Panel × Option (BitVec 5120) := (g.tiles, g.slots, g.panels, g.scale)

@[simp] theorem engineData_setRun (g : Engine) (path : Nat) (r : Option EngRun) : engineData (g.setRun path r) = engineData g := by
  match path with
  | 0 | 1 | _ + 2 => rfl

/-- A core's scratchpad and what its engine holds, which the operations of the engine work on. -/
def matrixData (c : Core) : Tbl (BitVec 128) × Tbl TileBits × Tbl (BitVec 65536) × Tbl Panel × Option (BitVec 5120) := (c.scratch, engineData c.engine)

theorem eq_of_matrixData {c d : Core} (h : matrixData c = matrixData d) :
    c.scratch = d.scratch ∧ c.engine.tiles = d.engine.tiles ∧ c.engine.slots = d.engine.slots ∧ c.engine.panels = d.engine.panels ∧
      c.engine.scale = d.engine.scale := by
  simpa only [matrixData, engineData, Prod.mk.injEq] using h

theorem matrixData_setRun (s : State) (core path : Nat) (r : Option EngRun) (k : Nat) :
    matrixData ((s.modEngine core fun g => g.setRun path r).core k) = matrixData (s.core k) := by
  unfold State.modEngine
  by_cases own : core = k
  · rw [← own, State.modCore_core, matrixData, engineData_setRun, matrixData]
  · rw [State.modCore_core_ne s _ own]

/-! ### Steps that keep the engines -/

/-- A core's engine, its scratchpad, and what its clock has lost. -/
def engineParts (c : Core) : Engine × Tbl (BitVec 128) × Nat × Nat := (c.engine, c.scratch, c.lost, c.lostGated)

/-- Memory stays, and so do the engine, the scratchpad and the clock of every core. -/
structure EnginesKept (s t : State) : Prop where
  mem : t.mem = s.mem
  cores : ∀ k, engineParts (t.core k) = engineParts (s.core k)

namespace EnginesKept

variable {s t u : State}

theorem refl (s : State) : EnginesKept s s := ⟨rfl, fun _ => rfl⟩

theorem trans (h : EnginesKept s t) (k : EnginesKept t u) : EnginesKept s u := ⟨k.mem.trans h.mem, fun n => (k.cores n).trans (h.cores n)⟩

theorem ite {p : Prop} [Decidable p] (h : EnginesKept s t) (k : EnginesKept s u) : EnginesKept s (if p then t else u) := by
  split
  · exact h
  · exact k

theorem foldl {α : Type} {f : State → α → State} (step : ∀ s x, EnginesKept s (f s x)) (l : List α) (s : State) : EnginesKept s (l.foldl f s) := by
  induction l generalizing s with
  | nil => exact refl s
  | cons x l ih => exact (step s x).trans (ih _)

theorem of_eq (mem : t.mem = s.mem) (cores : t.cores = s.cores) : EnginesKept s t := ⟨mem, fun _ => by rw [State.core, cores, State.core]⟩

theorem modCore (s : State) (c : Nat) {f : Core → Core} (keeps : ∀ x, engineParts (f x) = engineParts x) : EnginesKept s (s.modCore c f) where
  mem := rfl
  cores k := by
    by_cases own : c = k
    · rw [← own, State.modCore_core, keeps]
    · rw [State.modCore_core_ne s f own]

theorem engine (h : EnginesKept s t) (k : Nat) : (t.core k).engine = (s.core k).engine := congrArg (·.1) (h.cores k)

theorem data (h : EnginesKept s t) (k : Nat) : matrixData (t.core k) = matrixData (s.core k) :=
  congrArg (fun x => (x.2.1, engineData x.1)) (h.cores k)

/-- The cycle count of an engine stays when time does. -/
theorem ecyc (h : EnginesKept s t) (ccnt : t.ccnt = s.ccnt) (k : Nat) : t.ecyc k = s.ecyc k := by
  obtain ⟨-, -, lost, gated⟩ : (t.core k).engine = (s.core k).engine ∧ (t.core k).scratch = (s.core k).scratch ∧ (t.core k).lost = (s.core k).lost ∧
      (t.core k).lostGated = (s.core k).lostGated := by simpa [engineParts] using h.cores k
  rw [State.ecyc, State.ecyc, ccnt, lost, gated]

theorem rouse (s : State) (core cause : Nat) : EnginesKept s (s.rouse core cause) := ite (modCore s core fun _ => rfl) (refl s)

theorem correct (s : State) (line : Nat) : EnginesKept s (s.correct line) := by
  unfold State.correct
  split
  · unfold State.countCe
    dsimp only
    split <;> exact of_eq rfl rfl
  · exact refl s

theorem correctWalk (s : State) (part va : Nat) : EnginesKept s (s.correctWalk part va) := ite (refl s) (foldl correct _ s)

theorem learn (s : State) (core : Nat) (l : List TlbEntry) : EnginesKept s (s.learn core l) := by
  unfold State.learn
  have entered (t : State) : EnginesKept t (t.modCore core fun x => { x with tlb := tlbAdd 128 x.tlb l }) := modCore t core fun _ => rfl
  exact ((foldl (fun s (x : TlbEntry) => correctWalk s x.partition x.va) _ s).trans (entered _)).trans (of_eq rfl rfl)

theorem engRelease (s : State) (core : Nat) (e : EngEntry) : EnginesKept s (s.engRelease core e) := by
  have counted (launch : Nat) : EnginesKept s (if e.op.adds then s.outstanding core launch false else s) := ite (modCore s core fun _ => rfl) (refl s)
  have released (t : State) (part : Nat) : EnginesKept t (if e.reserved1 then t.releaseLog part 1 1 else t) := ite (of_eq rfl rfl) (refl t)
  exact (counted _).trans (released _ _)

end EnginesKept

/-! ### The start of an operation -/

/-- An operation that is due, and whose memory is reached, runs on its path with those that join its pass: beside its core, the state is that in which its
translations are learnt. -/
theorem exec_matrixOpStart {s : State} {core path : Nat} {e : EngEntry} {pages : List TlbEntry} (due : engDue s core path = some e)
    (reached : engReach s core (s.partyPart (.seq core)) e.op = .ok pages) :
    let u := s.learn core pages
    ∃ c r, exec (.matrixOpStart core path) s = .next (u.setCore core c) ∧ c.engine.run path = some r ∧
      r.entries = passOf u core (s.partyPart (.seq core)) (u.core core).engine e ∧ r.pages = pages ∧ r.moved = false ∧
      r.ends = u.ecyc core + (engCycles (u.core core).engine (u.ecyc core) e.op).1 := by
  show ∃ c r, execMatrixOpStart core path s = _ ∧ _
  simp only [execMatrixOpStart, due, reached]
  exact ⟨_, _, rfl, run_setRun _ path _, rfl, rfl, rfl, rfl⟩

/-- Its run ends as the engine stood before its translations were learnt. -/
theorem matrixOpStart_runs {s : State} {core path : Nat} {e : EngEntry} {pages : List TlbEntry} (due : engDue s core path = some e)
    (reached : engReach s core (s.partyPart (.seq core)) e.op = .ok pages) :
    ∃ t r, exec (.matrixOpStart core path) s = .next t ∧ t.mem = s.mem ∧ sameRegisters s t ∧ (t.core core).engine.run path = some r ∧
      r.entries = passOf (s.learn core pages) core (s.partyPart (.seq core)) ((s.learn core pages).core core).engine e ∧
      r.pages = pages ∧ r.moved = false ∧ r.ends = s.ecyc core + (engCycles (s.core core).engine (s.ecyc core) e.op).1 := by
  obtain ⟨c, r, starts, run, entries, on, still, ends⟩ := exec_matrixOpStart due reached
  have learnt := EnginesKept.learn s core pages
  have known := learn_undisturbed s core pages
  rw [learnt.ecyc known.ccnt, learnt.engine] at ends
  exact ⟨_, r, starts, known.mem, known.registers, by rw [State.setCore_core, run], entries, on, still, ends⟩

/-! ### The completion of what runs on a path -/

/-- The path is free, and its entries give back what they held. -/
def pathFreed (s : State) (core path : Nat) (l : List EngEntry) : State :=
  (l.foldl (fun v e => v.engRelease core e) (s.modEngine core fun g => g.setRun path none)).rouse core 4

theorem pathFreed_kept (s : State) (core path : Nat) (l : List EngEntry) :
    EnginesKept (s.modEngine core fun g => g.setRun path none) (pathFreed s core path l) :=
  (EnginesKept.foldl (fun v e => .engRelease v core e) l _).trans (.rouse _ core 4)

theorem pathFreed_mem (s : State) (core path : Nat) (l : List EngEntry) : (pathFreed s core path l).mem = s.mem := (pathFreed_kept s core path l).mem

theorem pathFreed_run (s : State) (core path : Nat) (l : List EngEntry) : ((pathFreed s core path l).core core).engine.run path = none := by
  rw [(pathFreed_kept s core path l).engine, State.modEngine, State.modCore_core, run_setRun]

theorem pathFreed_matrixData (s : State) (core path : Nat) (l : List EngEntry) (k : Nat) :
    matrixData ((pathFreed s core path l).core k) = matrixData (s.core k) :=
  ((pathFreed_kept s core path l).data k).trans (matrixData_setRun s core path none k)

/-- The operation whose memory a run reaches: that of its first entry. -/
def firstOp (r : EngRun) : EngOp := (r.entries.headD { id := 0, pc := 0, op := .mscale none, key := none, reserved1 := false }).op

/-- The state in which the entries of a run have had their effect, and it waits for what left for peers. -/
def performedRun (s : State) (core path : Nat) (r : EngRun) : State :=
  let x := s.engAll core r (r.entries.zip r.images)
  x.1.modEngine core fun g => g.setRun path (some { r with moved := true, remote := x.2 })

/-- The accesses to peers that the entries of a run wait for. -/
def remoteOf (s : State) (core : Nat) (r : EngRun) : List Nat := (s.engAll core r (r.entries.zip r.images)).2

/-- Whether every access of a list is performed. -/
def allPerformed (s : State) (l : List Nat) : Bool := l.all fun i => (s.acc? i).isNone

theorem performedRun_run (s : State) (core path : Nat) (r : EngRun) :
    ((performedRun s core path r).core core).engine.run path = some { r with moved := true, remote := remoteOf s core r } := by
  rw [performedRun, State.modEngine, State.modCore_core, run_setRun]
  rfl

section Complete

variable {s : State} {core path : Nat} {r : EngRun} (timed : engTimed s core path = true) (running : (s.core core).engine.run path = some r)

include timed running

theorem exec_matrixOpComplete_performs (room : engBlocked s core r = false) (still : r.moved = false)
    (homes : r.done = [] → engHomes s (firstOp r) r.pages = none) :
    let u := performedRun s core path r
    exec (.matrixOpComplete core path) s = .next (if allPerformed u (remoteOf s core r) then pathFreed u core path r.entries else u) := by
  unfold firstOp at homes
  have allowed := trapAtFirst_none homes
  have after := performedRun_run s core path r
  intro u
  show execMatrixOpComplete core path s = _
  simp only [execMatrixOpComplete, timed, running, room, still, allowed, Bool.not_true, Bool.false_eq_true, if_false]
  rw [show (s.engAll core r (r.entries.zip r.images)).1.modEngine core
    (fun g => g.setRun path (some { r with moved := true, remote := (s.engAll core r (r.entries.zip r.images)).2 })) = u from rfl, after]
  rfl

/-- A run that has had its effect waits for no slice, and its time comes with the last of its writes. -/
theorem exec_matrixOpComplete_ends (moved : r.moved = true) : exec (.matrixOpComplete core path) s = .next (pathFreed s core path r.entries) := by
  have room : engBlocked s core r = false := by rw [engBlocked, moved, Bool.not_true, Bool.false_and]
  have gone : (r.remote.all fun i => (s.acc? i).isNone) = true := by
    simp only [engTimed, running, moved, if_true, Bool.and_eq_true] at timed
    exact timed.2
  show execMatrixOpComplete core path s = _
  simp only [execMatrixOpComplete, timed, running, room, moved, gone, Bool.not_true, Bool.false_eq_true, if_false, if_true]
  rfl

end Complete

/-- The completion of a run changes memory, scratchpads and engines by its entries' effects alone. -/
theorem performedRun_freed (s : State) (core path : Nat) (r : EngRun) (b : Bool) :
    let x := s.engAll core r (r.entries.zip r.images)
    let u := performedRun s core path r
    let t := if b then pathFreed u core path r.entries else u
    t.mem = x.1.mem ∧ ∀ k, matrixData (t.core k) = matrixData (x.1.core k) := by
  intro x u t
  have performed (k : Nat) : matrixData (u.core k) = matrixData (x.1.core k) := matrixData_setRun x.1 core path _ k
  cases b with
  | false => exact ⟨rfl, performed⟩
  | true => exact ⟨pathFreed_mem u core path _, fun k => (pathFreed_matrixData u core path _ k).trans (performed k)⟩

/-- Settles O48: each event finds its command, its waiter or its run; a start only learns translations beside its core, and a path is freed by steps that keep
the engines. -/
theorem enginesComplete : Obligations.EnginesComplete := by
  refine ⟨fun _ _ _ => exec_copyCommandStart,
    fun _ _ _ _ found timed noTable room still homes _ => exec_copyCommandFinish_moves found timed noTable room still homes,
    fun _ _ _ _ => exec_copyCommandFinish_ends, fun _ _ _ _ => exec_cpyWaitEnter, fun _ _ _ _ _ => matrixOpStart_runs,
    fun s core path r _ timed running room still homes => ?performs, fun s core path r _ timed running moved =>
      ⟨_, exec_matrixOpComplete_ends timed running moved, pathFreed_mem s core path _, pathFreed_run s core path _⟩⟩
  case performs =>
    obtain ⟨mem, data⟩ := performedRun_freed s core path r (allPerformed (performedRun s core path r) (remoteOf s core r))
    refine ⟨_, exec_matrixOpComplete_performs timed running room still homes, mem, fun k => ?scratch, fun k => ?engine, rfl⟩
    case scratch => exact (eq_of_matrixData (data k)).1
    case engine => exact (eq_of_matrixData (data k)).2

end Sys2Proof.Laws
end

section
/-!
SUPPORT. The state right after reset (spec/21 R452; spec/00 R4).
-/
namespace Sys2Proof.Laws

open Sys2Proof Sys2Proof.Machine

/-- Settles O18: the fields of the reset state, whose tables are empty, so that every entry is the entry of an absent key. -/
theorem resetState : Obligations.ResetState :=
  ⟨rfl, rfl, rfl, rfl, rfl, rfl, rfl, rfl, fun _ => rfl, fun _ => ⟨rfl, rfl⟩, fun _ => rfl⟩

end Sys2Proof.Laws
end

section
/-!
SUPPORT. Traps that no handler takes: the partition's discard unit keeps the first of them (spec/19 R417, R420; spec/08 R220).
-/
namespace Sys2Proof.Laws

open Sys2Proof Sys2Proof.Machine

/-- The discard unit keeps the first trap that it is told of. -/
def discardNoted (launch : Nat) (record : BitVec 256) (x : Partition) : Partition :=
  match x.discarding with
  | none => { x with discarding := some (launch, record) }
  | some _ => x

theorem discarding_discardNoted (launch : Nat) (record : BitVec 256) (x : Partition) :
    (discardNoted launch record x).discarding = match x.discarding with | some y => some y | none => some (launch, record) := by
  unfold discardNoted
  cases noted : x.discarding with
  | none => rfl
  | some y => exact noted

theorem startDiscard_eq {part : Nat} (valid : part < Config.partitions) (s : State) (launch : Nat) (record : BitVec 256) :
    s.startDiscard part launch record = s.modPart part (discardNoted launch record) := if_neg (Nat.not_le.mpr valid)

/-- A warp whose results have landed and whose trap registers hold a record. -/
def recordTaken (record : BitVec 256) (w : Warp) : Warp := w.landAll.setRecord record

/-- No handler takes the trap: its cause discards, it comes from the locked instruction store, or the handler table has no valid entry for it. -/
def unhandled (c : Core) (vliw locked : Bool) (t : Trap) : Prop :=
  t.cause = causePAGEPERM ∨ t.cause = causeUE ∨ locked = true ∨ handlerEntry c t.cause vliw = none

/-- What the handler table holds matters only for a trap that does not discard by itself. -/
theorem unhandled_cases {c : Core} {vliw locked : Bool} {t : Trap} (h : unhandled c vliw locked t) (p : Party) :
    alwaysDiscards t p locked = true ∨ handlerEntry c t.cause vliw = none := by
  obtain cause | cause | locked | absent := h
  · exact .inl (by simp [alwaysDiscards, cause])
  · exact .inl (by simp [alwaysDiscards, cause])
  · exact .inl (by simp [alwaysDiscards, locked])
  · exact .inr absent

theorem takeTrap_path_discards {s : State} {g sl i pc : Nat} {locked : Bool} {t : Trap} (h : unhandled (s.core (g / 2)) false locked t)
    (free : (s.warp (warpKey g sl)).handler = none ∨ locked = true) :
    s.takeTrap (.path g sl i) pc locked t = (s.modWarp (warpKey g sl) (recordTaken (recordOf t i false pc s.ccnt))).startDiscard
      (s.partyPart (.path g sl i)) (s.partyLaunchNo (.path g sl i)) (recordOf t i false pc s.ccnt) := by
  have enters : ((s.warp (warpKey g sl)).handler.isSome && !locked) = false := by
    obtain free | locked := free
    · rw [free]; rfl
    · rw [locked]; exact Bool.and_false _
  simp only [State.takeTrap, enters, Bool.false_eq_true, if_false, partyCore]
  obtain discards | absent := unhandled_cases h (.path g sl i)
  · rw [discards]; rfl
  · rw [absent]; cases alwaysDiscards t (.path g sl i) locked <;> rfl

theorem takeTrap_thread_discards {s : State} {g sl pc : Nat} {locked : Bool} {t : Trap} (h : unhandled (s.core (g / 2)) true locked t) :
    s.takeTrap (.thread g sl) pc locked t = (s.modWarp (warpKey g sl) (recordTaken (recordOf t 0 true pc s.ccnt))).startDiscard
      (s.partyPart (.thread g sl)) (s.partyLaunchNo (.thread g sl)) (recordOf t 0 true pc s.ccnt) := by
  simp only [State.takeTrap, partyCore]
  obtain discards | absent := unhandled_cases h (.thread g sl)
  · rw [discards]; rfl
  · rw [absent]; cases alwaysDiscards t (.thread g sl) locked <;> rfl

/-- What a trap that no handler takes leaves: the discard unit of its partition holds a trap, and no context stands in a handler that did not before. -/
def discardHeld (s u : State) (part launch : Nat) (record : BitVec 256) : Prop :=
  u.mem = s.mem ∧ u.accs = s.accs ∧ u.cores = s.cores ∧ (∀ k, (u.warp k).handler = (s.warp k).handler ∧ (u.warp k).vliw = (s.warp k).vliw) ∧
  (∀ q, q ≠ part → u.part q = s.part q) ∧
  (u.part part).discarding = match (s.part part).discarding with | some x => some x | none => some (launch, record)

theorem startDiscard_held {part : Nat} (valid : part < Config.partitions) (s : State) (launch : Nat) (record : BitVec 256) :
    discardHeld s (s.startDiscard part launch record) part launch record := by
  rw [startDiscard_eq valid]
  refine ⟨rfl, rfl, rfl, fun k => ⟨rfl, rfl⟩, fun q other => State.modPart_part_ne s _ other.symm, ?_⟩
  rw [State.modPart_part, discarding_discardNoted]

/-- Writing the record into the issuer's warp beforehand enters no handler. -/
theorem recordTaken_held {part : Nat} (valid : part < Config.partitions) (s : State) (k launch : Nat) (record : BitVec 256) :
    discardHeld s ((s.modWarp k (recordTaken record)).startDiscard part launch record) part launch record := by
  obtain ⟨mem, accs, cores, warps, others, first⟩ := startDiscard_held valid (s.modWarp k (recordTaken record)) launch record
  refine ⟨mem, accs, cores, fun l => ?_, others, first⟩
  obtain ⟨handler, vliw⟩ := warps l
  exact ⟨handler.trans (State.modWarp_keeps s k l _ Warp.handler fun w => lands_keeps Warp.handler (fun _ _ _ _ => rfl) w _),
    vliw.trans (State.modWarp_keeps s k l _ Warp.vliw landAll_vliw)⟩

/-- Settles O33: whoever traps, the record goes to the partition's discard unit, which keeps the first. -/
theorem otherTrapsDiscard : Obligations.OtherTrapsDiscard := by
  intro s p pc locked t valid cause free
  cases p with
  | seq c => exact startDiscard_held valid s _ _
  | service g => exact startDiscard_held valid s _ _
  | path g sl i =>
    rw [takeTrap_path_discards cause free]
    exact recordTaken_held valid s _ _ _
  | thread g sl =>
    rw [takeTrap_thread_discards cause]
    exact recordTaken_held valid s _ _ _

end Sys2Proof.Laws
end

section
/-!
SUPPORT. Every instruction, every event and every step answers a next state (spec/19 R417, R420).
-/
namespace Sys2Proof.Laws

open Sys2Proof Sys2Proof.Machine

/-- The outcome is a next state. -/
def nexts (o : Host.Outcome State Fault Refusal) : Prop := ∃ t, o = .next t

theorem nexts_next (s : State) : nexts (.next s) := ⟨s, rfl⟩

theorem nexts_ite {p : Prop} [Decidable p] {o o' : Host.Outcome State Fault Refusal} (h : nexts o) (k : nexts o') : nexts (if p then o else o') := by
  split
  · exact h
  · exact k

/-- A form goes on whether its gate lets it issue, has it wait, or has it trap: each is a state of its own. -/
theorem runSem_nexts (m : Sem) (s : State) : nexts (runSem m s) := by
  unfold runSem
  split
  case h_1 => exact nexts_next s
  case h_2 => split <;> exact nexts_next _

/-- An event goes on whether its conditions hold or not. The events are told apart by the choices that their meanings make: tests alone, tests of what one
lookup finds, and lookups within lookups. -/
theorem event_nexts {i : Instr} (event : semOf i = none) (s : State) : nexts (exec i s) := by
  cases i with
  | qtail | hostQueueConsume | claim | leaseWrite | leaseWarning | leaseExpiry | hostBar2Write | hostAtomic | remoteOpArrive | registerWrite | corespareGo
  | fmctlDrain | fmctlRestore | tdctlSnap | tdctlLive | tdctlClear | deadlineExpiry | coreWake | refreshWindowEnd | windowBoundary | samplePeriod
  | weightStoreBankRepair | runnerLaneSpare | flitReplay | farMemoryUnitMove | farMemoryModuleRemoved | farMemoryModuleSeated | logBufferRoom =>
    apply_rules [nexts_next, nexts_ite]
  | eviction what => cases what <;> exact nexts_next _
  | launchCommand | hcopy | hcopyDone | wait | bind | wsmode | wsmodeApply | logctl | partitionCreate | partitionSave | partitionSaveResume =>
    unfold exec
    simp only [execLaunchCommand, execHcopy, execHcopyDone, execWait, execBind, execWsmode, execWsmodeApply, execLogctl, execPartitionCreate,
      execPartitionSave, execPartitionSaveResume]
    split <;> apply_rules [nexts_next, nexts_ite]
  | moduleReset | discard | recordAging | launchAdmission | launchComplete | replayRetry | serviceRunStart | serviceRunLimit | refreshWindowOpen | patrolScrub
  | fixedLatencyResult | sleepExpiry | modeVliwContextTaken =>
    unfold exec
    simp only [execModuleReset, execDiscard, execRecordAging, execLaunchAdmission, execLaunchComplete, execReplayRetry, execServiceRunStart, execServiceRunLimit,
      execRefreshWindowOpen, execPatrolScrub, execFixedLatencyResult, execSleepExpiry, execModeVliwContextTaken]
    split <;> apply_rules [nexts_next, nexts_ite]
  | fullEmptyWaitSatisfied | variableLatencyResult | asyncWritePerformed | sftloadTableWrite | cpyWaitEnter | copyCommandStart
  | dcmdHalt | dcmdRelease | dcmdStep1 | dcmdStepy | debugWindowWrite =>
    unfold exec
    simp only [execFullEmptyWaitSatisfied, execVariableLatencyResult, execAsyncWritePerformed, execSftloadTableWrite, execCpyWaitEnter,
      execCopyCommandStart, execDcmdHalt, execDcmdRelease, execDcmdStep1, execDcmdStepy, execDebugWindowWrite, windowEvent]
    split <;> apply_rules [nexts_next, nexts_ite]
  | remoteAck | remoteTimeout =>
    unfold exec
    simp only [execRemoteAck, execRemoteTimeout]
    split
    · split
      · exact nexts_ite (nexts_next _) (nexts_next _)
      · exact nexts_next s
    · exact nexts_next s
  | signal q =>
    unfold exec
    simp only [execSignal]
    split
    · refine nexts_ite (nexts_next _) ?_
      split
      · exact nexts_next _
      · exact nexts_ite (nexts_next s) (nexts_next _)
    · exact nexts_next s
  | partitionResume | partitionDestroy | tailNotify =>
    unfold exec
    simp only [execPartitionResume, execPartitionDestroy, execTailNotify]
    split
    · exact nexts_next s
    · split <;> apply_rules [nexts_next, nexts_ite]
  | bundleIssue | matrixOpStart =>
    unfold exec
    simp only [execBundleIssue, execMatrixOpStart]
    split
    · exact nexts_next s
    · split <;> exact nexts_next _
  | emptyRun =>
    unfold exec
    simp only [execEmptyRun]
    split
    · exact nexts_next s
    · refine nexts_ite (nexts_next s) ?_
      split <;> exact nexts_next _
  | dramRowRepair line spare =>
    refine nexts_ite (nexts_next s) ?_
    split <;> exact nexts_next _
  | blockPlace n cores =>
    unfold exec
    simp only [execBlockPlace]
    split
    · exact nexts_next s
    · split
      · exact nexts_next s
      · refine nexts_ite (nexts_next s) ?_
        split <;> exact nexts_next _
  | copyCommandFinish core n =>
    unfold exec
    simp only [execCopyCommandFinish]
    split
    · exact nexts_next s
    · refine nexts_ite (nexts_next _) (nexts_ite (nexts_next _) (nexts_ite (nexts_next _) (nexts_ite (nexts_next _) ?_)))
      split <;> exact nexts_next _
  | matrixOpComplete core path =>
    unfold exec
    simp only [execMatrixOpComplete]
    refine nexts_ite (nexts_next s) ?_
    split
    · exact nexts_next s
    · refine nexts_ite (nexts_next _) (nexts_ite (nexts_next _) ?_)
      split <;> exact nexts_next _
  | partitionHaltComplete p loss =>
    refine nexts_ite (nexts_next s) (nexts_ite (nexts_next _) ?_)
    split
    · exact nexts_next _
    · split <;> exact nexts_next _
  | _ => cases event

/-- What an instruction or an event does is a next state. -/
theorem exec_nexts (i : Instr) (s : State) : nexts (exec i s) := by
  cases means : semOf i with
  | some m =>
    rw [exec_of_semOf means]
    exact runSem_nexts m s
  | none => exact event_nexts means s

/-- Beside an event, an action is a part, an input, an attempt or the end of a cycle, none of which can stop. -/
theorem act_nexts (s : State) (a : Action) : nexts (s.act a) := by
  cases a with
  | event i => exact exec_nexts i s
  | part | input | attempt | tornAttempt | tick => exact nexts_next _

/-- Settles O21: a step performs the action that it chooses, and every action goes on. -/
theorem everyStepGoesOn : Obligations.EveryStepGoesOn := ⟨fun s => act_nexts (action s).1 (action s).2, exec_nexts⟩

end Sys2Proof.Laws
end

section
/-!
SUPPORT. The host queues: the doorbell, the consumption of an entry, and the commands once what they wait for has come (spec/18 R404 to R408; spec/10 R283, R284;
spec/21 R456; spec/22 R473).
-/
namespace Sys2Proof.Laws

open Sys2Proof Sys2Proof.Machine

/-- The queue that an update names, after it. -/
@[simp] theorem modQueue_queue (s : State) (q : Nat) (f : HostQueue → HostQueue) : (s.modQueue q f).queue q = f (s.queue q) := Tbl.getD_set_self _ _ _ _

section Events

variable {s : State} {q : Nat} {e : BitVec 2048}

/-! ### The doorbell and the head of a queue -/

theorem exec_qtail {port : Nat} {v : Word64} (ready : s.ready = true) (owner : port = s.host.owner) (valid : q < Config.hostQueues)
    (forward : (v.toNat % 2 ^ 32 + 2 ^ 32 - (s.queue q).tail) % 2 ^ 32 < 2 ^ 31) :
    exec (.qtail port q v) s = .next (s.modQueue q fun x => { x with tail := v.toNat % 2 ^ 32 }) := by
  show execQtail port q v s = _
  simp only [execQtail, ready, owner, valid, forward, decide_true, Bool.and_self, if_true]

/-- A queue that has consumed the entry `e` at its head. -/
def entryTaken (now : Nat) (e : BitVec 2048) (y : HostQueue) : HostQueue :=
  { y with consumed := vbits e 32 32, head := (y.head + 1) % 2 ^ 32, current := some e, serves := y.part, arrived := now, mark := none, copying := false,
           moved := false, remote := [], ahead := [] }

/-- An entry in sequence becomes the command that the queue performs. -/
theorem exec_hostQueueConsume (due : consumes s q = true) (inDepth : ((s.queue q).tail + 2 ^ 32 - (s.queue q).head) % 2 ^ 32 ≤ 2 ^ (s.queue q).dlog)
    (entry : entryAt s (s.queue q) = e) (sequence : vbits e 32 32 = ((s.queue q).consumed + 1) % 2 ^ 32)
    (formed : malformed (s.modQueue q (entryTaken s.ccnt e)) (s.queue q).part e = false) :
    exec (.hostQueueConsume q) s = .next (s.modQueue q (entryTaken s.ccnt e)) := by
  have within : (s.queue q).beyond = false := decide_eq_false (Nat.not_lt.mpr inDepth)
  have next : (vbits e 32 32 != ((s.queue q).consumed + 1) % 2 ^ 32) = false := bne_eq_false_iff_eq.mpr sequence
  show execHostQueueConsume q s = _
  simp only [execHostQueueConsume, due, within, entry, next, Bool.not_true, Bool.false_eq_true, if_false]
  exact congrArg Host.Outcome.next (if_neg (by rw [Bool.not_eq_true]; exact formed))

/-! ### The commands -/

/-- A queue performs a command, whose entry it holds. -/
abbrev performs (s : State) (q cmd : Nat) (e : BitVec 2048) : Prop := (s.queue q).current = some e ∧ cmdOf e = cmd

theorem performing_eq_some {cmd : Nat} (performing : performs s q cmd e) : s.performing q cmd = some e := by
  obtain ⟨current, command⟩ := performing
  simp only [State.performing, current, command, if_true]

theorem exec_launchCommand (performing : performs s q 1 e) (free : s.sched.queues.getD q [] = []) :
    exec (.launchCommand q) s = .next (s.enqueue q
      ({ pendingOf (BitVec.ofNat 1024 (vbits e 1024 1024)) (s.queue q).serves (vbits e 32 32) (s.queue q).arrived with irq := e.getLsbD 16 }.mark s)) := by
  show execLaunchCommand q s = _
  simp only [execLaunchCommand, performing_eq_some performing, free, List.isEmpty_nil, if_true]

theorem exec_hcopy (performing : performs s q 2 e) :
    exec (.hcopy q) s = .next (s.modQueue q fun x => { x with copying := true }) := by
  show execHcopy q s = _
  simp only [execHcopy, performing_eq_some performing]

theorem exec_hcopyDone (performing : performs s q 2 e) (copying : (s.queue q).copying = true) (still : (s.queue q).moved = false)
    (allowed : hcopyRefused s (s.queue q) (opWord e 3) (opWord e 4) = false) (readable : rangeRefresh s (opWord e 2) (opWord e 4) = false)
    (writable : rangeRefresh s (opWord e 3) (opWord e 4) = false)
    (room : slicesBlocked s (hcopyLines (opWord e 2) (opWord e 3) (opWord e 4)) (hostCode s.host.owner) none = false) :
    let u := s.moveHcopy q (opWord e 2) (opWord e 3) (opWord e 4)
    exec (.hcopyDone q) s = .next (if (u.queue q).remote.isEmpty then u.completeCommand q 0 0 else u) := by
  show execHcopyDone q s = _
  simp only [execHcopyDone, performing_eq_some performing, copying, still, allowed, readable, writable, room, Bool.not_true, Bool.or_self, Bool.false_eq_true,
    if_false]

theorem exec_signal (performing : performs s q 3 e) (plain : tevParts s (opWord e 2) = []) :
    exec (.signal q) s = .next ((s.addCounter (opWord e 2) (opWord e 3)).completeCommand q 0 0) := by
  show execSignal q s = _
  simp only [execSignal, performing_eq_some performing, plain, List.isEmpty_nil, if_true]

theorem exec_wait (performing : performs s q 4 e) (met : counterMet s (opWord e 2) (opWord e 3) = true) :
    exec (.wait q) s = .next (s.completeCommand q 0 0) := by
  show execWait q s = _
  simp only [execWait, performing_eq_some performing, met, if_true]

theorem exec_bind (performing : performs s q 5 e) (allowed : bindRefused s (opWord e 2) = false) :
    exec (.bind q) s = .next ((s.bind (opWord e 2) (opWord e 3) (opWord e 4)).completeCommand q 0 0) := by
  show execBind q s = _
  simp only [execBind, performing_eq_some performing, allowed, Bool.false_eq_true, if_false]

/-- A queue has asked for nothing when no die holds a request of it. -/
theorem wsAsked_eq_false (none : ∀ d, ∀ x ∈ (s.die d).wsReq, x.1 ≠ q) : s.wsAsked q = false := by
  simp only [State.wsAsked, List.any_eq_false, List.any_eq_true, beq_iff_eq, not_exists, not_and]
  exact fun d _ => none d

theorem exec_wsmode (performing : performs s q 6 e) (fresh : ∀ d, ∀ x ∈ (s.die d).wsReq, x.1 ≠ q)
    (first : s.wsBehind q (opWord e 2) = false) :
    exec (.wsmode q) s = .next (if (s.die (opWord e 2)).wsReq = [] ∧ (s.die (opWord e 2)).wsWrite = (opWord e 3 == 1) then s.completeCommand q 0 0
      else s.modDie (opWord e 2) fun x => { x with wsReq := x.wsReq ++ [(q, opWord e 3 == 1)] }) := by
  show execWsmode q s = _
  simp only [execWsmode, performing_eq_some performing, wsAsked_eq_false fresh, first, Bool.or_self, Bool.false_eq_true, if_false, Bool.and_eq_true,
    List.isEmpty_iff, beq_iff_eq (a := (s.die (opWord e 2)).wsWrite)]
  split <;> rfl

theorem exec_wsmodeApply {d : Nat} {w : Bool} {r : List (Nat × Bool)} (oldest : (s.die d).wsReq = (q, w) :: r)
    (clear : (s.die d).wsWrite = w ∨ dieClear s d = true) :
    exec (.wsmodeApply d) s = .next ((s.modDie d fun x => { x with wsWrite := w, wsReq := r }).completeCommand q 0 0) := by
  have applies : ((s.die d).wsWrite == w || dieClear s d) = true := by simpa using clear
  show execWsmodeApply d s = _
  simp only [execWsmodeApply, oldest, applies, if_true]

theorem exec_logctl (performing : performs s q 7 e) :
    exec (.logctl q) s = .next ((s.modPart (opWord e 2) fun p =>
      { p with logs := if opWord e 5 = 0 then p.logs.erase (opWord e 3)
                       else p.logs.set (opWord e 3) { pa := opWord e 4, bytes := opWord e 5, wp := 0, reserved := 0, wanted := 0 } }).completeCommand q 0 0) := by
  show execLogctl q s = _
  simp only [execLogctl, performing_eq_some performing]

end Events

/-- Settles O56: an event of a queue runs once what it waits for has come, and a consumption is the one change `entryTaken` of its queue. -/
theorem hostQueuesComplete : Obligations.HostQueuesComplete := by
  refine ⟨fun s port q v => exec_qtail, fun s q due inDepth => ?consume, fun s q e performing free => ⟨_, exec_launchCommand performing free, ?_, ?_, ?_, ?_⟩,
    fun _ _ _ => exec_hcopy, fun _ _ _ => exec_hcopyDone, fun _ _ _ => exec_signal, fun _ _ _ => exec_wait, fun _ _ _ => exec_bind, fun _ _ _ => exec_wsmode,
    fun _ _ _ _ _ => exec_wsmodeApply, fun _ _ _ => exec_logctl⟩
  case consume =>
    intro e sequence formed
    refine ⟨_, exec_hostQueueConsume due inDepth rfl sequence formed, rfl, ?_⟩
    rw [modQueue_queue]
    exact ⟨rfl, rfl, rfl, rfl⟩
  all_goals (unfold Pending.mark; split <;> rfl)

end Sys2Proof.Laws
end

section
/-!
SUPPORT. The PARTITION command's operations and the lease's events under their conditions (spec/19 R430 to R434; spec/18 R400 to R402, R412).
-/
namespace Sys2Proof.Laws

open Sys2Proof Sys2Proof.Machine

/-! ### The lease -/

theorem request_steered (s : State) (g kind : Nat) : Steered s (s.request g kind) := by
  unfold State.request
  exact .ite (.ite (.refl s) ((Steered.modGroup s g _).trans (.rouse _ _ _))) (.refl s)

/-- The heartbeat only asks lane groups for service. -/
theorem heartbeat_steered (s : State) : Steered s s.heartbeat := by
  refine .foldl (fun s kv => ?_) _ s
  split
  · exact request_steered s _ 3
  · exact .refl s

section Lease

variable {s : State} {port : Nat} {v : Word64}

theorem live_iff : s.live = true ↔ s.ccnt < s.host.expiry := decide_eq_true_iff

theorem live_eq_false (lapsed : s.host.expiry ≤ s.ccnt) : s.live = false := decide_eq_false (Nat.not_lt.mpr lapsed)

/-- The module as a claim leaves it, before the heartbeat. -/
def claimed (s : State) (port : Nat) : State :=
  { s with mem := if port = s.host.owner then s.mem else swapHosts s.mem
           host := { s.host with owner := port, expiry := s.ccnt + 300000000, leased := true, warned := false,
                                 queues := s.host.queues.mapVals fun _ x => { x with en := false } } }.sendBoth 65

theorem exec_claim (ready : s.ready = true) (valid : port < 2) (key : v.toNat % 2 ^ 16 = 0xC1A1) (lapsed : s.host.expiry ≤ s.ccnt) :
    exec (.claim port v) s = .next (claimed s port).heartbeat := by
  show execClaim port v s = _
  simp only [execClaim, ready, valid, key, live_eq_false lapsed, decide_true, Bool.not_false, Bool.and_self, if_true]
  rfl

/-- A claim disables every queue; a queue that nothing has written is disabled as it is. -/
theorem claimed_queue_en (s : State) (port q : Nat) : ((claimed s port).queue q).en = false := by
  show ((s.host.queues.mapVals fun _ x => { x with en := false }).getD q State.queue0).en = false
  rw [Tbl.getD, Tbl.get?_mapVals]
  cases s.host.queues.get? q <;> rfl

/-- The memory of the other host changes places with that of the owner. -/
theorem memGet_swapHosts_eq (m : List Host.Cell) (a : Nat) : memGet (swapHosts m) a =
    if 2 ^ 44 ≤ a ∧ a < 2 ^ 45 then memGet m (a + 2 ^ 50)
    else if 2 ^ 44 + 2 ^ 50 ≤ a ∧ a < 2 ^ 45 + 2 ^ 50 then memGet m (a - 2 ^ 50) else memGet m a := by
  rw [memGet_swapHosts, otherPlace, apply_ite (memGet m), apply_ite (memGet m), otherHost]

theorem exec_leaseWrite (ready : s.ready = true) (owner : port = s.host.owner) (live : s.ccnt < s.host.expiry) : exec (.leaseWrite port v) s =
    .next { s with host := { s.host with expiry := min (v.toNat % 2 ^ 62) (s.ccnt + 30000000000), warned := false } } := by
  show execLeaseWrite port v s = _
  simp only [execLeaseWrite, ready, owner, live_iff.mpr live, decide_true, Bool.and_self, if_true]

theorem exec_leaseWarning (due : leaseWarns s = true) :
    exec .leaseWarning s = .next (({ s with host := { s.host with warned := true } } : State).sendVector 65).heartbeat := if_pos due

theorem exec_leaseExpiry (leased : s.host.leased = true) (lapsed : s.host.expiry ≤ s.ccnt) :
    exec .leaseExpiry s = .next { s with host := { s.host with leased := false } } := if_pos (by rw [leased, live_eq_false lapsed]; rfl)

end Lease

/-! ### The operations of PARTITION -/

section Operations

variable {s : State} {q : Nat} {e : BitVec 2048}

/-- A queue performs a PARTITION command with an operation. -/
abbrev performsPart (s : State) (q op : Nat) (e : BitVec 2048) : Prop := (s.queue q).current = some e ∧ cmdOf e = 8 ∧ opWord e 3 = op

theorem partOp_eq_some {op : Nat} (performing : performsPart s q op e) : s.partOp q op = some e := by
  obtain ⟨current, command, operation⟩ := performing
  simp only [State.partOp, performing_eq_some ⟨current, command⟩, operation, if_true]

theorem exec_partitionCreate (performing : performsPart s q 0 e) (absent : (s.part (opWord e 2)).state = .none)
    (free : setFree s (opWord e 2) (opWord e 4) = true) (formed : descBad s (descOf s (opWord e 2)) = false)
    (share : shareTaken s (opWord e 2) (descOf s (opWord e 2)) = false) :
    let d := descOf s (opWord e 2)
    let x : Partition := { State.part0 with state := .active, set := opWord e 4, desc := d, detmode := bit (opWord e 5) 0, cgate := bit (opWord e 5) 1 }
    exec (.partitionCreate q) s = .next (State.completeCommand ((setCores (opWord e 4)).foldl (fun u c => u.modCore c (·.forPartition (lockedImage s d)))
      { s with parts := Tbl.set s.parts (opWord e 2) x }) q 0 0) := by
  show execPartitionCreate q s = _
  simp only [execPartitionCreate, partOp_eq_some performing, absent, free, formed, share, bne_self_eq_false, Bool.not_true, Bool.or_self, Bool.false_eq_true,
    if_false]

theorem exec_partitionDestroy_active (performing : performsPart s q 1 e) (active : (s.part (opWord e 2)).state = .active)
    (idle : partBusy s (opWord e 2) = false) (still : (s.part (opWord e 2)).halting = false) :
    exec (.partitionDestroy q) s = .next ((s.removePart (opWord e 2)).completeCommand q 0 0) := by
  show execPartitionDestroy q s = _
  simp only [execPartitionDestroy, partOp_eq_some performing, active, idle, still, Bool.or_self, Bool.false_eq_true, if_false]

theorem exec_partitionDestroy_saved (performing : performsPart s q 1 e) (saved : (s.part (opWord e 2)).state = .saved) :
    let p := opWord e 2
    exec (.partitionDestroy q) s =
      .next (((((s.endLaunches p fun _ => { status := 5, detail := 0, trap := 0 }).endOver p).completeEnded p).removePart p).completeCommand q 0 0) := by
  show execPartitionDestroy q s = _
  simp only [execPartitionDestroy, partOp_eq_some performing, saved]

theorem removePart_part (s : State) (p : Nat) : (s.removePart p).part p = State.part0 := State.modPart_part (s.forget p) p fun _ => State.part0

theorem exec_partitionSave (performing : performsPart s q 2 e) (active : (s.part (opWord e 2)).state = .active)
    (still : (s.part (opWord e 2)).halting = false) (room : shadowRoom s (s.part (opWord e 2)).set = true) :
    exec (.partitionSave q) s = .next (s.startHalt (opWord e 2) q none) := by
  show execPartitionSave q s = _
  simp only [execPartitionSave, partOp_eq_some performing, active, still, room, bne_self_eq_false, Bool.false_and, Bool.not_true, Bool.or_self,
    Bool.false_eq_true, if_false]

theorem exec_partitionResume {lost : Bool} (performing : performsPart s q 3 e)
    (allowed : resumeCheck s (opWord e 2) (opWord e 4) = none) :
    exec (.partitionResume q lost) s = .next ((s.resume (opWord e 2) (opWord e 4) lost).completeCommand q 0 0) := by
  show execPartitionResume q lost s = _
  simp only [execPartitionResume, partOp_eq_some performing, allowed]

theorem exec_partitionSaveResume (performing : performsPart s q 4 e) (active : (s.part (opWord e 2)).state = .active)
    (still : (s.part (opWord e 2)).halting = false) (room : shadowRoom s (s.part (opWord e 2)).set = true)
    (disjoint : (s.part (opWord e 2)).set &&& opWord e 4 = 0) (free : setFree s (opWord e 2) (opWord e 4) = true)
    (fits : setFits (s.part (opWord e 2)).set (opWord e 4) = true) (formed : descBad s (descOf s (opWord e 2)) = false)
    (share : shareTaken s (opWord e 2) (descOf s (opWord e 2)) = false) :
    exec (.partitionSaveResume q) s = .next (s.startHalt (opWord e 2) q (some (opWord e 4))) := by
  show execPartitionSaveResume q s = _
  simp only [execPartitionSaveResume, partOp_eq_some performing, active, still, room, disjoint, free, fits, formed, share, bne_self_eq_false, Bool.false_and,
    Bool.not_true, Bool.or_self, Bool.false_eq_true, if_false]

section Halt

variable {p : Nat} {loss : ShadowLoss} (halting : (s.part p).halting = true) (calm : (s.part p).discarding = none) (yielded : haltingYields s p = [])
  (stopped : halted s p = true)

include halting calm yielded stopped

theorem exec_partitionHaltComplete_saves (target : (s.part p).target = none) :
    exec (.partitionHaltComplete p loss) s = .next ((s.save p (loss == .saving)).completeCommand (s.part p).byQueue 0 0) := by
  show execPartitionHaltComplete p loss s = _
  simp only [execPartitionHaltComplete, halting, calm, yielded, stopped, target, Option.isSome_none, Bool.not_true, Bool.or_self, Bool.false_eq_true, if_false,
    List.foldl_nil, Option.bind_none]

theorem exec_partitionHaltComplete_resumes {new : Nat} (target : (s.part p).target = some new) (allowed : resumeRefused s p new = none)
    (written : loss ≠ .saving) :
    exec (.partitionHaltComplete p loss) s = .next (((s.save p false).resume p new (loss == .resuming)).completeCommand (s.part p).byQueue 0 0) := by
  have kept : (loss == .saving) = false := beq_eq_false_iff_ne.mpr written
  show execPartitionHaltComplete p loss s = _
  simp only [execPartitionHaltComplete, halting, calm, yielded, stopped, target, Option.isSome_none, Bool.not_true, Bool.or_self, Bool.false_eq_true, if_false,
    List.foldl_nil, Option.bind_some, allowed, kept]

end Halt

end Operations

/-- Settles O57: an operation or an event runs once its conditions hold; a claim is `claimed` and a heartbeat, which only asks for service. -/
theorem partitionsAndLeaseComplete : Obligations.PartitionsAndLeaseComplete := by
  refine ⟨fun _ _ _ => exec_partitionCreate, fun _ _ _ => exec_partitionDestroy_active,
    fun s q e performing saved => ⟨exec_partitionDestroy_saved performing saved, fun k l launch own placed running =>
      endLaunches_launch?_of_ends _ launch own placed running⟩,
    removePart_part, fun _ _ _ => exec_partitionSave, fun _ _ _ _ => exec_partitionResume, fun _ _ _ => exec_partitionSaveResume,
    fun s p loss halting calm yielded stopped => ⟨exec_partitionHaltComplete_saves halting calm yielded stopped,
      fun new => exec_partitionHaltComplete_resumes halting calm yielded stopped⟩,
    fun s port v ready valid key lapsed => ?claim, fun _ _ _ => exec_leaseWrite, fun _ => exec_leaseWarning, fun _ => exec_leaseExpiry⟩
  case claim =>
    obtain ⟨ccnt, -, mem, -, -, -, -, host, -⟩ := (heartbeat_steered (claimed s port)).outside
    refine ⟨_, exec_claim ready valid key lapsed, by rw [host]; rfl, by rw [host]; rfl, live_iff.mpr ?_, fun q => ?_, fun own => ?_, fun other a => ?_⟩
    · rw [ccnt, host]
      show s.ccnt < s.ccnt + 300000000
      omega
    · rw [State.queue, host]
      exact claimed_queue_en s port q
    · exact mem.trans (if_pos own)
    · rw [mem, show (claimed s port).mem = swapHosts s.mem from if_neg other]
      exact memGet_swapHosts_eq s.mem a

end Sys2Proof.Laws
end

section
/-!
SUPPORT. Module reset, service runs, wake-ups, refresh windows, thermal windows and samples under their conditions (spec/21 R452 to R460; spec/19 R431, R437 to
R439; spec/10 R285; spec/20 R451).
-/
namespace Sys2Proof.Laws

open Sys2Proof Sys2Proof.Machine

/-! ### Module reset -/

/-- Flash that cannot be read, or that holds nothing, gives BOOTSTAT.CODE 5. -/
theorem imageCode_unread {s : State} {readable : Bool} (h : readable = false ∨ s.boot.flash = []) : imageCode s readable = 5 := by
  refine if_pos ?_
  obtain dark | empty := h
  · rw [dark]; rfl
  · rw [empty]; exact Bool.or_true _

/-- Whether the image is taken or rejected, ccnt starts again, nothing is resident or in flight, and BOOTSTAT says what became of the image. -/
theorem exec_moduleReset (s : State) (readable : Bool) :
    ∃ t, exec (.moduleReset readable) s = .next t ∧ t.ccnt = 0 ∧ t.warps = [] ∧ t.accs = [] ∧ t.boot.code = imageCode s readable := by
  show ∃ t, execModuleReset readable s = .next t ∧ _
  unfold execModuleReset
  dsimp only
  split
  · split
    case isTrue taken => exact ⟨_, rfl, rfl, rfl, rfl, taken.symm⟩
    case isFalse => exact ⟨_, rfl, rfl, rfl, rfl, rfl⟩
  · exact ⟨_, rfl, rfl, rfl, rfl, rfl⟩

/-! ### Service runs -/

section Service

variable {s : State} {g : Nat}

theorem takeYield_idle (idle : (s.group g).running = none) : s.takeYield g = s := by
  simp only [State.takeYield, State.runningOf, idle]

/-- With no context running, the service context starts at the entry of the oldest request. -/
theorem exec_serviceRunStart {k : Nat} (due : serviceDue s g = some k) (idle : (s.group g).running = none)
    (calm : (s.part (s.corePartition (g / 2))).discarding = none) :
    ∃ t, exec (.serviceRunStart g) s = .next t ∧ t.mem = s.mem ∧ (t.group g).service = some 0 ∧
      (t.warp (serviceKey g)).vliw =
        some { State.vliw0 with pc := lockedNat (s.core (g / 2)) (0xC0 + 8 * k) 8 / 2 ^ 32 % 2 ^ 14, locked := true } := by
  show ∃ t, execServiceRunStart g s = .next t ∧ _
  simp only [execServiceRunStart, due, takeYield_idle idle, calm, Option.isSome_none, Bool.false_eq_true, if_false]
  refine ⟨_, rfl, rfl, ?_, ?_⟩
  · rw [State.modGroup_group]
  · rw [State.modGroup_warp, State.setWarp_warp, bits, Nat.shiftRight_eq_div_pow]

/-- The UE of a run past its limit names no class, and is recorded with none. -/
theorem exec_serviceRunLimit {n : Nat} (run : (s.group g).service = some n) (past : 4096 ≤ n) : exec (.serviceRunLimit g) s =
    .next (((s.endRun g).rasAdd 0 ((s.endRun g).physCore (g / 2)) 0 2 0 (dieOf (g / 2))).startDiscard (s.corePartition (g / 2)) noLaunch
      (recordOf { cause := causeUE, info := 2 ^ 11, addr := 0 } 0 true (s.pcOf (.service g)) s.ccnt)) := by
  show execServiceRunLimit g s = _
  simp only [execServiceRunLimit, run, Nat.not_lt.mpr past, if_false]
  rfl

theorem exec_deadlineExpiry (out : (s.group g).deadline = some 0) (runs : (s.group g).running.isSome = true) (fresh : (s.group g).forced = false) :
    exec (.deadlineExpiry g) s = .next (s.modGroup g fun y => { y with forced := true }) := if_pos (by rw [out, runs, fresh]; rfl)

theorem exec_coreWake {c cause : Nat} (gated : (s.core c).gated = true) (reached : cause ∈ (s.core c).woken) : exec (.coreWake c cause) s =
    .next (s.modCore c fun x => { x with gated := false, woken := [], wakeAt := s.acyc c + 40, wakeStamp := s.ccnt, wakeCause := cause }) :=
  if_pos (by rw [gated, List.contains_iff_mem.mpr reached]; rfl)

end Service

/-! ### Refresh windows -/

section Refresh

variable {s : State} {d : Nat}

theorem exec_refreshWindowOpen (ready : s.ready = true) (valid : d < Config.dies) (window : s.ccnt % 16384 < 512)
    (fresh : (s.die d).refreshing ≠ some (s.ccnt % 2 ^ 20 / 16384)) :
    let b := s.ccnt % 2 ^ 20 / 16384
    exec (.refreshWindowOpen d) s = .next ((List.range 32).foldl (fun u i => u.scrub (bankLine d b (32 * (s.ccnt / 2 ^ 20 % 2 ^ 14) + i)))
      (s.modDie d fun x => { x with refreshing := some b })) := by
  have bank : refreshBank s = some (s.ccnt % 2 ^ 20 / 16384) := if_pos window
  have opens : ((s.die d).refreshing != some (s.ccnt % 2 ^ 20 / 16384)) = true := bne_iff_ne.mpr fresh
  show execRefreshWindowOpen d s = _
  simp only [execRefreshWindowOpen, bank, ready, valid, opens, decide_true, Bool.and_self, if_true]

theorem exec_refreshWindowEnd {b : Nat} (valid : d < Config.dies) (opened : (s.die d).refreshing = some b) (past : refreshBank s ≠ some b) :
    exec (.refreshWindowEnd d) s = .next ((State.flushLate s.late.length s).modDie d fun x => { x with refreshing := none }) := by
  have ends : (some b != refreshBank s) = true := bne_iff_ne.mpr past.symm
  show execRefreshWindowEnd d s = _
  simp only [execRefreshWindowEnd, valid, opened, ends, Option.isSome_some, decide_true, Bool.and_self, if_true]

end Refresh

/-! ### Records of errors -/

/-- A RAS record changes the error records and sends a vector; what reads neither is as it was. -/
theorem rasAdd_keeps {β : Type} (p : State → β) (hr : ∀ (s : State) r, p { s with ras := r } = p s)
    (hm : ∀ (s : State) m, p { s with host := { s.host with msix := m } } = p s) (s : State) (addr unit detail kind cls die : Nat) :
    p (s.rasAdd addr unit detail kind cls die) = p s := by
  unfold State.rasAdd
  dsimp only
  split
  · exact hr s _
  · exact (hm _ _).trans (hr s _)

@[simp] theorem rasAdd_mem (s : State) (addr unit detail kind cls die : Nat) : (s.rasAdd addr unit detail kind cls die).mem = s.mem :=
  rasAdd_keeps State.mem (fun _ _ => rfl) (fun _ _ => rfl) s addr unit detail kind cls die

@[simp] theorem rasAdd_die (s : State) (addr unit detail kind cls die d : Nat) : (s.rasAdd addr unit detail kind cls die).die d = s.die d :=
  rasAdd_keeps (State.die · d) (fun _ _ => rfl) (fun _ _ => rfl) s addr unit detail kind cls die

/-! ### Thermal windows -/

/-- The cores alone may change. -/
abbrev CoresOnly (s t : State) : Prop := t = { s with cores := t.cores }

namespace CoresOnly

variable {s t u : State}

theorem refl (s : State) : CoresOnly s s := rfl

theorem trans (h : CoresOnly s t) (k : CoresOnly t u) : CoresOnly s u := by
  rw [k, h]

theorem setClock (s : State) (core step : Nat) : CoresOnly s (s.setClock core step) := rfl

theorem mem (h : CoresOnly s t) : t.mem = s.mem := (congrArg State.mem h :)

theorem die (h : CoresOnly s t) (d : Nat) : t.die d = s.die d := (congrArg (State.die · d) h :)

theorem foldl {α : Type} {f : State → α → State} (step : ∀ s x, CoresOnly s (f s x)) (l : List α) (s : State) : CoresOnly s (l.foldl f s) := by
  induction l generalizing s with
  | nil => exact refl s
  | cons x l ih => exact (step s x).trans (ih _)

theorem throttle (d n : Nat) (s : State) : CoresOnly s (Machine.throttle d n s) := by
  induction n generalizing s with
  | zero => exact refl s
  | succ n ih =>
    unfold Machine.throttle
    split
    · exact refl s
    · split
      · exact refl s
      · exact (setClock s _ _).trans (ih _)

theorem release (d : Nat) (s : State) : CoresOnly s (Machine.release d s) := by
  unfold Machine.release
  split
  · exact refl s
  · split
    · exact refl s
    · dsimp only
      split
      · exact setClock s _ _
      · exact refl s

end CoresOnly

/-- A die whose window has ended with a temperature and an energy, and in a thermal state. -/
def windowEnded (state : Nat × Nat) (temperature energy : Nat) (x : Die) : Die :=
  { x with thermal := state.1, overWindows := state.2, temperature := temperature, energy := energy, window := x.window + 1 }

/-- A window boundary notes the window in its die, and then sets the clocks of cores. -/
theorem exec_windowBoundary {s : State} {d : Nat} (temperature energy : Nat) (ready : s.ready = true) (valid : d < Config.dies)
    (due : (s.die d).window < s.ccnt / 3000000) : ∃ t, exec (.windowBoundary d temperature energy) s = .next t ∧ t.mem = s.mem ∧
      t.die d = windowEnded (windowState s d temperature energy) temperature energy (s.die d) := by
  have boundary : windowDue s d = true := by simp only [windowDue, ready, valid, due, decide_true, Bool.and_self]
  let state := windowState s d temperature energy
  let noted := s.modDie d (windowEnded state temperature energy)
  let recorded := if (state.1 == 3 && (s.die d).thermal != 3) = true then noted.rasAdd 0 d 0 9 0 d else noted
  have mem : recorded.mem = s.mem := by
    unfold recorded
    split
    · exact rasAdd_mem noted _ _ _ _ _ _
    · rfl
  have die : recorded.die d = windowEnded state temperature energy (s.die d) := by
    unfold recorded
    split
    · rw [rasAdd_die, State.modDie_die]
    · exact State.modDie_die s d _
  have clocked {t : State} (h : CoresOnly recorded t) : t.mem = s.mem ∧ t.die d = windowEnded state temperature energy (s.die d) :=
    ⟨h.mem.trans mem, (h.die d).trans die⟩
  show ∃ t, execWindowBoundary d temperature energy s = .next t ∧ _
  simp only [execWindowBoundary, boundary, Bool.not_true, Bool.false_eq_true, if_false]
  split
  · exact ⟨_, rfl, clocked (.foldl (fun s c => .setClock s c 3) _ _)⟩
  · exact ⟨_, rfl, clocked ((CoresOnly.throttle d _ _).trans (.release d _))⟩

/-! ### Samples -/

/-- The sample of a cycle is written once. -/
theorem exec_samplePeriod {s : State} {core : Nat} (due : sampleDue s core = true) :
    ∃ t, exec (.samplePeriod core) s = .next t ∧ sampleDue t core = false := by
  refine ⟨_, if_neg (by rw [due]; exact Bool.false_ne_true), ?_⟩
  unfold sampleDue
  split
  · rw [State.modCore_core, State.modCore_ccnt, bne_self_eq_false, Bool.and_false]
  · rfl

/-- Settles O59: each event runs once its conditions hold; a window boundary is `windowEnded` of its die and changes of clocks. -/
theorem timersAndServiceComplete : Obligations.TimersAndServiceComplete := by
  refine ⟨fun s readable => ?reset, fun s g k due idle calm => ?start, fun _ _ _ => exec_serviceRunLimit, fun _ _ => exec_deadlineExpiry,
    fun _ _ _ => exec_coreWake, fun _ _ => exec_refreshWindowOpen, fun _ _ _ => exec_refreshWindowEnd,
    fun s d temperature energy ready valid due => ?window, fun _ _ => exec_samplePeriod⟩
  case reset =>
    obtain ⟨t, runs, ccnt, warps, accs, code⟩ := exec_moduleReset s readable
    exact ⟨t, runs, ccnt, warps, accs, code, fun unread => code.trans (imageCode_unread unread)⟩
  case start =>
    obtain ⟨t, runs, mem, service, context⟩ := exec_serviceRunStart due idle calm
    exact ⟨t, runs, mem, service, _, context, rfl, rfl⟩
  case window =>
    obtain ⟨t, runs, mem, die⟩ := exec_windowBoundary temperature energy ready valid due
    refine ⟨t, runs, mem, ?_⟩
    rw [die]
    exact ⟨rfl, rfl, rfl, rfl⟩

end Sys2Proof.Laws
end

section
/-!
SUPPORT. Scrubs, repairs, far-memory moves, evictions, room in a log buffer, and stores into the debug window (spec/22 R464 to R469, R474; spec/18 R414; spec/20
R443, R444; spec/10 R294).
-/
namespace Sys2Proof.Laws

open Sys2Proof Sys2Proof.Machine

section Upkeep

variable {s : State}

/-! ### The debug window -/

/-- A store that reaches the window and gives the command of an event is performed by that event. -/
theorem windowEvent_performs {n op : Nat} {a : Access} (found : s.acc? n = some a) (reaches : a.window s = true) (command : a.dcmd s = op)
    (here : a.sent = none) (ready : a.performable s = true) (calm : (s.part a.partition).discarding = none) :
    windowEvent n op s = .next ((s.performWindow a).rouse a.core 5) := by
  simp only [windowEvent, found, reaches, command, here, ready, calm, bne_self_eq_false, Option.isSome_none, Bool.not_true, Bool.or_self,
    Bool.false_eq_true, if_false]

/-! ### Scrubs and repairs -/

theorem exec_patrolScrub {line : Nat} (dram : (∃ d, homeOf s (64 * line) = .near d) ∨ homeOf s (64 * line) = .far) :
    exec (.patrolScrub line) s = .next (s.scrub line) := by
  show execPatrolScrub line s = _
  obtain ⟨d, near⟩ | far := dram
  · simp only [execPatrolScrub, near]
  · simp only [execPatrolScrub, far]

/-- The UNIT that a place of memory gives an address. -/
def homeUnit (pa : Nat) : Home → Nat
  | .weights d => bits (pa - 2 ^ 42 - d * 2 ^ 31) 12 6
  | .far => (pa - 2 ^ 40) / 4096 % 48
  | _ => 0

theorem unitOf_eq_homeUnit (s : State) (pa : Nat) : unitOf s pa = homeUnit pa (homeOf s pa) := by
  unfold unitOf homeUnit
  cases homeOf s pa <;> rfl

/-- The UNIT of an address is the same in every state: only the Pantry's homes depend on the state, and they have none. -/
theorem unitOf_eq (s t : State) (pa : Nat) : unitOf s pa = unitOf t pa := by
  simp only [unitOf_eq_homeUnit, homeOf, apply_ite (homeUnit pa)]
  simp only [homeUnit, ite_self]

/-- A line's memory and its class: far memory, near memory, a weight store. -/
def repairClass (s : State) (line cls : Nat) : Prop :=
  (homeOf s (64 * line) = .far ∧ cls = 6) ∨ ((∃ d, homeOf s (64 * line) = .near d) ∧ cls = 5) ∨ ((∃ d, homeOf s (64 * line) = .weights d) ∧ cls = 4)

/-- A row that is due, with a spare row: its lines are scrubbed, and the spare is taken. -/
def rowRepaired (s : State) (line r cls : Nat) : State :=
  ((((s.ras.upsets.map (·.1)).filter (sameRow line)).foldl State.scrub s).rowDone line).modDie (errDie s (64 * line))
    (fun x => { x with rows := r :: x.rows }) |>.rasAdd (64 * line) (unitOf s (64 * line)) r 5 cls (errDie s (64 * line))

theorem exec_dramRowRepair_spare {line r cls : Nat} (home : repairClass s line cls) (due : rowDue s line = true)
    (fresh : (s.die (errDie s (64 * line))).rows.contains r = false) : exec (.dramRowRepair line (some r)) s = .next (rowRepaired s line r cls) := by
  show execDramRowRepair line (some r) s = _
  unfold rowRepaired
  rw [unitOf_eq s (((s.ras.upsets.map (·.1)).filter (sameRow line)).foldl State.scrub s)]
  obtain ⟨far, rfl⟩ | ⟨⟨d, near⟩, rfl⟩ | ⟨⟨d, weights⟩, rfl⟩ := home
  · simp only [execDramRowRepair, due, far, fresh, Bool.not_true, Bool.false_eq_true, if_false]
  · simp only [execDramRowRepair, due, near, fresh, Bool.not_true, Bool.false_eq_true, if_false]
  · simp only [execDramRowRepair, due, weights, fresh, Bool.not_true, Bool.false_eq_true, if_false]

/-- A row that is due, with no spare row: it is recorded, and the bank of a weight store comes due. -/
def rowWorn (s : State) (line cls : Nat) : State :=
  let t := (s.rowDone line).rasAdd (64 * line) (unitOf s (64 * line)) noSpare 5 cls (errDie s (64 * line))
  if cls = 4 then t.modDie (errDie s (64 * line)) fun x => { x with worn := (unitOf s (64 * line) :: x.worn).eraseDups } else t

theorem exec_dramRowRepair_none {line cls : Nat} (home : repairClass s line cls) (due : rowDue s line = true) :
    exec (.dramRowRepair line none) s = .next (rowWorn s line cls) := by
  show execDramRowRepair line none s = _
  have unit (t : State) : unitOf t (64 * line) = unitOf s (64 * line) := unitOf_eq t s _
  obtain ⟨far, rfl⟩ | ⟨⟨d, near⟩, rfl⟩ | ⟨⟨d, weights⟩, rfl⟩ := home
  · simp only [execDramRowRepair, due, far, unit, Bool.not_true, Bool.false_eq_true, if_false]; rfl
  · simp only [execDramRowRepair, due, near, unit, Bool.not_true, Bool.false_eq_true, if_false]; rfl
  · simp only [execDramRowRepair, due, weights, unit, Bool.not_true, Bool.false_eq_true, if_false]; rfl

theorem rowWorn_mem (s : State) (line cls : Nat) : (rowWorn s line cls).mem = s.mem := by
  unfold rowWorn
  dsimp only
  split
  · exact rasAdd_mem (s.rowDone line) _ _ _ _ _ _
  · exact rasAdd_mem (s.rowDone line) _ _ _ _ _ _

theorem rowWorn_worn (s : State) (line : Nat) : unitOf s (64 * line) ∈ ((rowWorn s line 4).die (errDie s (64 * line))).worn := by
  unfold rowWorn
  dsimp only
  rw [if_pos rfl, State.modDie_die]
  exact List.mem_eraseDups.mpr List.mem_cons_self

theorem exec_weightStoreBankRepair {d bank : Nat} (valid : d < Config.dies) (worn : bank ∈ (s.die d).worn) (spare : (s.die d).banks.length < 2) :
    let n := (s.die d).bankMoved.getD bank 0 + 1
    exec (.weightStoreBankRepair d bank) s = .next (if n < bankUnits then s.modDie d fun x => { x with bankMoved := x.bankMoved.set bank n }
      else (s.modDie d fun x => { x with banks := bank :: x.banks, worn := x.worn.filter (· != bank), bankMoved := x.bankMoved.erase bank }).rasAdd 0 bank
        (s.die d).banks.length 6 4 d) := by
  have due : (s.die d).worn.contains bank = true := List.contains_iff_mem.mpr worn
  show execWeightStoreBankRepair d bank s = _
  simp only [execWeightStoreBankRepair, due, Nat.not_le.mpr valid, Nat.not_le.mpr spare, Bool.not_true, if_false]
  exact (apply_ite Host.Outcome.next _ _ _).symm

/-- The lanes of a Runner port are host state that no record of an error touches. -/
theorem rasAdd_lanes (s : State) (addr unit detail kind cls die : Nat) : (s.rasAdd addr unit detail kind cls die).host.lanes = s.host.lanes :=
  rasAdd_keeps (fun s => s.host.lanes) (fun _ _ => rfl) (fun _ _ => rfl) s addr unit detail kind cls die

theorem exec_runnerLaneSpare {port lane : Nat} (valid : port < runnerPorts) (ofPort : lane < 9) :
    ∃ t, exec (.runnerLaneSpare port lane) s = .next t ∧ t.mem = s.mem ∧ t.host.lanes.getD port 0 = min 2 (s.host.lanes.getD port 0 + 1) := by
  show ∃ t, execRunnerLaneSpare port lane s = .next t ∧ _
  simp only [execRunnerLaneSpare, Nat.not_le.mpr valid, Nat.not_le.mpr ofPort]
  refine ⟨_, rfl, ?_, ?_⟩
  · rw [rasAdd_mem]
    split <;> rfl
  · rw [rasAdd_lanes]
    split <;> exact Tbl.getD_set_self _ _ _ _

theorem exec_flitReplay {port : Nat} (valid : port < runnerPorts) : exec (.flitReplay port) s = .next (s.countCe (port % 4) 7 0 port) :=
  if_neg (Nat.not_le.mpr valid)

/-! ### Far memory -/

theorem exec_farMemoryUnitMove {n : Nat} (moving : s.far n = 1 ∨ s.far n = 3) :
    let k := s.ras.farMoved.getD n 0 + 1
    exec (.farMemoryUnitMove n) s = .next (if pairUnits n ≤ k then s.setFar n (if s.far n = 1 then 2 else 0) k
      else { s with ras := { s.ras with farMoved := s.ras.farMoved.set n k } }) :=
  (if_pos moving).trans (apply_ite Host.Outcome.next _ _ _).symm

/-- A module's removal: its pair is absent, and outside DRAINED its data is lost. -/
def moduleRemoved (s : State) (n : Nat) : State :=
  { s with ras := { s.ras with farAbsent := s.ras.farAbsent.set n true, farLost := if s.far n = 2 then s.ras.farLost else s.ras.farLost.set n true } }

theorem exec_farMemoryModuleRemoved {n : Nat} (valid : n < farPairs) : exec (.farMemoryModuleRemoved n) s = .next (moduleRemoved s n) :=
  if_neg (Nat.not_le.mpr valid)

theorem moduleRemoved_lost (s : State) (n : Nat) :
    (moduleRemoved s n).ras.farLost.getD n false = if s.far n = 2 then s.ras.farLost.getD n false else true := by
  show (if s.far n = 2 then s.ras.farLost else s.ras.farLost.set n true).getD n false = _
  split
  · rfl
  · exact Tbl.getD_set_self _ _ _ _

theorem exec_farMemoryModuleSeated {n : Nat} (valid : n < farPairs) :
    exec (.farMemoryModuleSeated n) s = .next { s with ras := { s.ras with farAbsent := s.ras.farAbsent.set n false } } := if_neg (Nat.not_le.mpr valid)

/-! ### Evictions -/

theorem dropLine_l1 (c : Core) (line : Nat) : (c.dropLine line).l1.get? line = none := by
  show (c.l1.erase line).get? line = none
  rw [Tbl.get?_erase, if_pos rfl]

end Upkeep

/-- Settles O60: each event runs once its conditions hold, and a row repair is `rowRepaired` or `rowWorn`. -/
theorem upkeepAndDebugComplete : Obligations.UpkeepAndDebugComplete := by
  refine ⟨fun n => ?window, fun _ _ => exec_patrolScrub, fun s line r cls home due => ?row,
    fun _ _ _ => exec_weightStoreBankRepair, fun _ _ _ => exec_runnerLaneSpare, fun _ _ => exec_flitReplay, fun _ _ => exec_farMemoryUnitMove,
    fun s n valid => ⟨⟨_, exec_farMemoryModuleRemoved valid, rfl, Tbl.getD_set_self _ _ _ _, moduleRemoved_lost s n⟩, exec_farMemoryModuleSeated valid⟩,
    fun _ _ _ => rfl, fun s c line => ⟨_, rfl, rfl, ?l1⟩, fun _ _ => ⟨_, rfl, rfl, rfl, rfl⟩, fun _ _ _ room => if_pos room⟩
  case window => exact ⟨fun _ _ => windowEvent_performs, fun _ _ => windowEvent_performs, fun _ _ => windowEvent_performs, fun _ _ => windowEvent_performs,
    fun _ _ => windowEvent_performs⟩
  case row =>
    intro d u fresh
    refine ⟨exec_dramRowRepair_spare home due fresh, _, exec_dramRowRepair_none home due, rowWorn_mem s line cls, fun weights => ?_⟩
    rw [weights]
    exact rowWorn_worn s line
  case l1 =>
    rw [State.modCore_core]
    exact dropLine_l1 _ line

end Sys2Proof.Laws
end

section
/-!
SUPPORT. What the host's stores and atomics leave in memory (spec/18 R397, R398; spec/11 R318; spec/22 R463).
-/
namespace Sys2Proof.Laws

open Sys2Proof Sys2Proof.Machine

/-! ### Errors that a store meets -/

/-- An uncorrectable error of memory is counted and recorded: memory and the partitions are as they were. -/
theorem memoryUe_keeps (s : State) (pa cls kind : Nat) : (s.memoryUe pa cls kind).mem = s.mem ∧ (s.memoryUe pa cls kind).parts = s.parts := by
  have counted (t : State) : ∀ die unit, (t.countUe die cls (pa / 64 * 64) unit kind).mem = t.mem ∧
      (t.countUe die cls (pa / 64 * 64) unit kind).parts = t.parts := fun die unit =>
    ⟨rasAdd_mem (t.modDie die _) _ _ _ _ _ _, rasAdd_keeps State.parts (fun _ _ => rfl) (fun _ _ => rfl) (t.modDie die _) _ _ _ _ _ _⟩
  have noted : (if 4 ≤ cls ∧ cls ≤ 6 then s.noteRow (pa / 64) true else s).mem = s.mem ∧
      (if 4 ≤ cls ∧ cls ≤ 6 then s.noteRow (pa / 64) true else s).parts = s.parts := by
    unfold State.noteRow
    split_ifs <;> exact ⟨rfl, rfl⟩
  unfold State.memoryUe
  exact ⟨(counted _ _ _).1.trans noted.1, (counted _ _ _).2.trans noted.2⟩

/-- No store meets an uncorrectable error: no far memory is lost, and no line is poisoned. -/
def faultless (s : State) : Prop := (∀ a, farGone s a = false) ∧ s.ras.poison = []

theorem faultless_of_writeUe {s : State} (taken : ∀ a, writeUe s [a] = none) (clean : s.ras.poison = []) : faultless s := by
  refine ⟨fun a => ?_, clean⟩
  have sound := taken a
  simp only [writeUe, List.findSome?_cons, List.findSome?_nil, writeUeAt] at sound
  cases gone : farGone s a with
  | false => rfl
  | true => simp [gone] at sound

theorem writeUe_faultless {s : State} (sound : faultless s) (pas : List Nat) : writeUe s pas = none := by
  obtain ⟨present, clean⟩ := sound
  refine List.findSome?_eq_none_iff.mpr fun a _ => ?_
  simp only [writeUeAt, present, clean, List.contains_nil, Bool.false_and, Bool.false_eq_true, if_false]

theorem unpoisonAll_clean {s : State} (clean : s.ras.poison = []) (pas : List Nat) : s.unpoisonAll pas = s := by
  have one (n : Nat) : s.unpoison n = s := if_neg (by rw [clean]; exact Bool.false_ne_true)
  unfold State.unpoisonAll
  induction (pas.map (· / 64)).eraseDups with
  | nil => rfl
  | cons n l ih => rw [List.foldl_cons, one, ite_self, ih]

/-- A store past every core changes memory alone. -/
theorem storeBytes_memory (s : State) (pas : List Nat) (vs : List Byte) : ∃ m, s.storeBytes none pas vs = { s with mem := m } := by
  induction pas generalizing s vs with
  | nil => exact ⟨s.mem, rfl⟩
  | cons pa pas ih =>
    cases vs with
    | nil => exact ⟨s.mem, rfl⟩
    | cons v vs => exact ih (s.storeByte none pa v) vs

/-! ### A line of a store -/

section StoreLine

variable {s : State} (code access line : Nat) (l : List (Nat × Byte))

/-- The bytes of a store that lie in a line. -/
def inLine (line : Nat) (l : List (Nat × Byte)) : List (Nat × Byte) := l.filter fun x => x.1 / 64 == line

/-- A store that meets an uncorrectable error in a line records it, and writes nothing there. -/
theorem storeLine_refused {c : Nat} (met : writeUe s ((inLine line l).map (·.1)) = some c) :
    s.storeLine code access line l = s.memoryUe (64 * line) c 2 := by
  have bytes : (l.filter fun x => x.1 / 64 == line) = inLine line l := rfl
  simp only [State.storeLine, bytes, met]

variable (off : unlogged s)

include off

/-- With no log on, a store that meets none writes its bytes of the line. -/
theorem storeLine_stores (taken : writeUe s ((inLine line l).map (·.1)) = none) : s.storeLine code access line l =
    (s.storeBytes none ((inLine line l).map (·.1)) ((inLine line l).map (·.2))).unpoisonAll ((inLine line l).map (·.1)) := by
  have bytes : (l.filter fun x => x.1 / 64 == line) = inLine line l := rfl
  have quiet : unlogged ((s.storeBytes none ((inLine line l).map (·.1)) ((inLine line l).map (·.2))).unpoisonAll ((inLine line l).map (·.1))) := by
    intro p k
    rw [logOn, State.part, (unpoisonAll_keeps _ _).2, (WritesOnly.storeBytes s none _ _).parts]
    exact off p k
  simp only [State.storeLine, bytes, taken, order_unlogged quiet]

theorem storeLine_parts : (s.storeLine code access line l).parts = s.parts := by
  cases met : writeUe s ((inLine line l).map (·.1)) with
  | some c =>
    rw [storeLine_refused code access line l met]
    exact (memoryUe_keeps s _ _ _).2
  | none =>
    rw [storeLine_stores code access line l off met]
    exact (unpoisonAll_keeps _ _).2.trans (WritesOnly.storeBytes s none _ _).parts

theorem storeLine_quiet : unlogged (s.storeLine code access line l) := fun p k => by
  rw [logOn, State.part, storeLine_parts code access line l off]
  exact off p k

theorem storeLine_other {a : Nat} (other : a ∉ l.map (·.1)) : memGet (s.storeLine code access line l).mem a = memGet s.mem a := by
  cases met : writeUe s ((inLine line l).map (·.1)) with
  | some c => rw [storeLine_refused code access line l met, (memoryUe_keeps s _ _ _).1]
  | none =>
    rw [storeLine_stores code access line l off met, (unpoisonAll_keeps _ _).1]
    exact storeBytes_other none _ fun found => other ((List.filter_sublist.map _).subset found)

variable (sound : faultless s)

include sound

theorem storeLine_faultless : s.storeLine code access line l = s.storeBytes none ((inLine line l).map (·.1)) ((inLine line l).map (·.2)) := by
  obtain ⟨m, stored⟩ := storeBytes_memory s ((inLine line l).map (·.1)) ((inLine line l).map (·.2))
  rw [storeLine_stores code access line l off (writeUe_faultless sound _)]
  exact unpoisonAll_clean (by rw [stored]; exact sound.2) _

theorem storeLine_sound : faultless (s.storeLine code access line l) := by
  obtain ⟨m, stored⟩ := storeBytes_memory s ((inLine line l).map (·.1)) ((inLine line l).map (·.2))
  rw [storeLine_faultless code access line l off sound, stored]
  exact sound

/-- A byte of a store reads back once its line is stored; the lines before and after leave it as it is. -/
theorem storeLine_get (distinct : (l.map (·.1)).Nodup) {x : Nat × Byte} (mine : x ∈ l) :
    memGet (s.storeLine code access line l).mem x.1 = if x.1 / 64 = line then x.2 else memGet s.mem x.1 := by
  rw [storeLine_faultless code access line l off sound]
  split
  case isTrue here =>
    have member : x ∈ inLine line l := List.mem_filter.mpr ⟨mine, beq_iff_eq.mpr here⟩
    have sub : ((inLine line l).map (·.1)).Nodup := distinct.sublist (List.filter_sublist.map _)
    obtain ⟨pre, post, parts⟩ := List.append_of_mem member
    rw [parts, List.map_append, List.map_cons, List.nodup_append, List.nodup_cons] at sub
    rw [parts]
    exact memGet_storeBytes_last (f := fun y : Nat × Byte => y.1) (g := fun y => y.2) none pre
      (fun z hz same => sub.2.1.1 (List.mem_map.mpr ⟨z, hz, same⟩)) s
  case isFalse other =>
    refine storeBytes_other none _ fun found => other ?_
    obtain ⟨y, hy, same⟩ := List.mem_map.mp found
    rw [← same]
    exact beq_iff_eq.mp (List.mem_filter.mp hy).2

end StoreLine

/-! ### A store of the host -/

section HostStore

variable (code access : Nat) {l : List (Nat × Byte)}

theorem foldl_storeLine_other {a : Nat} (other : a ∉ l.map (·.1)) (lines : List Nat) {s : State} (off : unlogged s) :
    memGet (lines.foldl (fun s line => s.storeLine code access line l) s).mem a = memGet s.mem a := by
  induction lines generalizing s with
  | nil => rfl
  | cons line lines ih => exact (ih (storeLine_quiet code access line l off)).trans (storeLine_other code access line l off other)

theorem foldl_storeLine_get (distinct : (l.map (·.1)).Nodup) {x : Nat × Byte} (mine : x ∈ l) (lines : List Nat) {s : State} (off : unlogged s)
    (sound : faultless s) :
    memGet (lines.foldl (fun s line => s.storeLine code access line l) s).mem x.1 = if x.1 / 64 ∈ lines then x.2 else memGet s.mem x.1 := by
  induction lines generalizing s with
  | nil => rfl
  | cons line lines ih =>
    rw [List.foldl_cons, ih (storeLine_quiet code access line l off) (storeLine_sound code access line l off sound),
      storeLine_get code access line l off sound distinct mine]
    by_cases later : x.1 / 64 ∈ lines
    · simp [later]
    · by_cases here : x.1 / 64 = line <;> simp [later, here]

/-- Noting stores for the cores' fetch leaves memory as it is. -/
theorem noteCode_mem (s : State) (core : Option Nat) (agent : Option (Nat × Nat × Nat)) (pas : List Nat) : (s.noteCode core agent pas).mem = s.mem := by
  unfold State.noteCode
  split <;> rfl

theorem hostStore_other {s : State} (off : unlogged s) {a : Nat} (other : a ∉ l.map (·.1)) : memGet (s.hostStore code access l).mem a = memGet s.mem a := by
  unfold State.hostStore
  rw [noteCode_mem]
  exact foldl_storeLine_other code access (fun found => other ((List.filter_sublist.map _).subset found)) _ off

/-- The bytes that memory serves read back. -/
theorem hostStore_get {s : State} (off : unlogged s) (sound : faultless s) (distinct : (l.map (·.1)).Nodup) {x : Nat × Byte} (mine : x ∈ l)
    (served : hostServed s x.1 = true) : memGet (s.hostStore code access l).mem x.1 = x.2 := by
  have member : x ∈ l.filter fun x => hostServed s x.1 := List.mem_filter.mpr ⟨mine, served⟩
  unfold State.hostStore
  rw [noteCode_mem]
  rw [foldl_storeLine_get code access (distinct.sublist (List.filter_sublist.map _)) member _ off sound,
    if_pos (List.mem_eraseDups.mpr (List.mem_map.mpr ⟨x, member, rfl⟩))]

end HostStore

theorem sendBytes_mem (s : State) (l : List (Nat × Byte)) : (s.sendBytes l).1.mem = s.mem := by
  unfold State.sendBytes
  split <;> rfl

/-! ### An atomic of the host -/

theorem leNat_lt (l : List Byte) : leNat l < 2 ^ (8 * l.length) := by
  induction l with
  | nil => exact Nat.one_pos
  | cons b l ih =>
    have byte := b.isLt
    rw [leNat, List.length_cons, Nat.mul_succ, Nat.pow_add]
    omega

theorem memNat_lt (s : State) (pa n : Nat) : memNat s pa n < 2 ^ (8 * n) := by
  have bound := leNat_lt (memRead s.mem pa n)
  rwa [memRead_eq, List.length_map, List.length_range, ← memRead_eq] at bound

/-- A number stored reads back, modulo its size. -/
theorem memNat_storeBytes (s : State) (core : Option Nat) (pa n v : Nat) :
    memNat (s.storeBytes core ((List.range n).map (pa + ·)) (natLe n v)) pa n = v % 2 ^ (8 * n) := by
  have stored : memRead (s.storeBytes core ((List.range n).map (pa + ·)) (natLe n v)).mem pa n = natLe n v := by
    refine List.ext_getElem (by rw [memRead_eq, List.length_map, List.length_range, length_natLe]) fun i inside _ => ?_
    have bound : i < n := by simpa [memRead_eq] using inside
    simp only [memRead_eq, List.getElem_map, List.getElem_range]
    rw [storeBytes_get core pa _ (length_natLe n v).symm bound, List.getD_eq_getElem?_getD, List.getElem?_eq_getElem, Option.getD_some]
  rw [memNat, stored, leNat_natLe]

/-- Correcting a line leaves the parties that lines were last recorded for. -/
theorem correct_lastParty (s : State) (line : Nat) : (s.correct line).ras.lastParty = s.ras.lastParty := by
  have recorded (t : State) (addr unit detail kind cls die : Nat) : (t.rasAdd addr unit detail kind cls die).ras.lastParty = t.ras.lastParty := by
    unfold State.rasAdd
    dsimp only
    split <;> rfl
  unfold State.correct
  split
  · unfold State.countCe
    dsimp only
    split
    · exact recorded _ _ _ _ _ _ _
    · rfl
  · rfl

/-- A line that no party has reached before is ordered without a record. -/
theorem order_first {s : State} {line : Nat} (first : s.ras.lastParty.get? line = none) (code access : Nat) (wrote : Bool) :
    s.order line code none wrote access = s := by
  have nowhere : orderPart s line none = none := by
    unfold orderPart
    rw [first]
  unfold State.order
  rw [nowhere]

/-- An atomic of the host at a line that no party has reached: its result takes the place of the old value, and no other byte changes. -/
theorem hostAct_mem {s : State} {pa n : Nat} (readable : readUe s ((List.range n).map (pa + ·)) = none) (first : s.ras.lastParty.get? (pa / 64) = none)
    (code access : Nat) (f : Nat → Nat) : (s.hostAct code access pa n f).mem =
      ((s.correct (pa / 64)).storeBytes none ((List.range n).map (pa + ·)) (natLe n (f (memNat s pa n)))).mem := by
  obtain ⟨m, stored⟩ := storeBytes_memory (s.correct (pa / 64)) ((List.range n).map (pa + ·)) (natLe n (f (memNat s pa n)))
  have unread (t : State) (pas : List Nat) : (t.noteCode none none pas).ras = t.ras := by
    unfold State.noteCode
    split <;> rfl
  unfold State.hostAct
  simp only [readable]
  rw [order_first, noteCode_mem]
  rw [unread, stored]
  exact (congrArg (Tbl.get? · (pa / 64)) (correct_lastParty s (pa / 64))).trans first

theorem hostAct_other {s : State} {pa n : Nat} (readable : readUe s ((List.range n).map (pa + ·)) = none) (first : s.ras.lastParty.get? (pa / 64) = none)
    (code access : Nat) (f : Nat → Nat) {a : Nat} (outside : a < pa ∨ pa + n ≤ a) : memGet (s.hostAct code access pa n f).mem a = memGet s.mem a := by
  rw [hostAct_mem readable first, storeBytes_other, (correct_undisturbed s _).mem]
  intro found
  obtain ⟨i, inside, rfl⟩ := List.mem_map.mp found
  have bound := List.mem_range.mp inside
  omega

theorem hostAct_value {s : State} {pa n : Nat} (readable : readUe s ((List.range n).map (pa + ·)) = none) (first : s.ras.lastParty.get? (pa / 64) = none)
    (code access : Nat) (f : Nat → Nat) : memNat (s.hostAct code access pa n f) pa n = f (memNat s pa n) % 2 ^ (8 * n) := by
  rw [← memNat_storeBytes (s.correct (pa / 64)) none pa n, memNat, memNat, hostAct_mem readable first]

end Sys2Proof.Laws
end

section
/-!
SUPPORT. The host's accesses and register commands, and operations of peers, under their conditions (spec/18 R397, R402, R413 to R415; spec/22 R468 to R472).
-/
namespace Sys2Proof.Laws

open Sys2Proof Sys2Proof.Machine

section Accesses

variable {s : State} {port offset : Nat}

/-! ### Stores through BAR2 -/

/-- The bytes of a store with their addresses. -/
def addressed (pa : Nat) (bytes : List Byte) : List (Nat × Byte) := ((List.range bytes.length).map (pa + ·)).zip bytes

theorem addressed_addresses (pa : Nat) (bytes : List Byte) : (addressed pa bytes).map (·.1) = (List.range bytes.length).map (pa + ·) :=
  List.map_fst_zip (by rw [List.length_map, List.length_range])

theorem addressed_distinct (pa : Nat) (bytes : List Byte) : ((addressed pa bytes).map (·.1)).Nodup := by
  rw [addressed_addresses]
  exact List.nodup_range.map fun i j same => Nat.add_left_cancel same

theorem mem_addressed (pa : Nat) {bytes : List Byte} {i : Nat} (inside : i < bytes.length) : (pa + i, bytes.getD i 0) ∈ addressed pa bytes := by
  refine List.mem_iff_getElem.mpr ⟨i, by simpa [addressed] using inside, ?_⟩
  simp [addressed, inside]

theorem not_mem_addressed {pa a : Nat} {bytes : List Byte} (outside : ∀ i < bytes.length, a ≠ pa + i) : a ∉ (addressed pa bytes).map (·.1) := by
  rw [addressed_addresses]
  intro found
  obtain ⟨i, inside, rfl⟩ := List.mem_map.mp found
  exact outside i (List.mem_range.mp inside) rfl

/-- The dies whose weight store refused a store stay marked. -/
theorem testBit_marks (l : List Nat) (w d : Nat) (marked : w.testBit d = true ∨ d ∈ l) : (l.foldl (fun w d => w ||| 2 ^ d) w).testBit d = true := by
  induction l generalizing w with
  | nil => simpa using marked
  | cons x l ih =>
    refine ih _ ?_
    rw [Nat.testBit_or, Nat.testBit_two_pow]
    obtain old | new := marked
    · simp [old]
    · obtain rfl | later := List.mem_cons.mp new
      · simp
      · exact .inr later

section Bar2Write

variable {bytes : List Byte} (ready : s.ready = true) (range : offset + bytes.length ≤ s.host.bar2Bytes)

include ready range

theorem exec_hostBar2Write (writable : readDies s (bar2Pa s offset) bytes.length = [])
    (room : hostBlocked s (hostCode port) (((addressed (bar2Pa s offset) bytes).map (·.1)).filter (hostServed s)) = false)
    (calm : ∀ x ∈ addressed (bar2Pa s offset) bytes, inRefresh s x.1 = false) :
    exec (.hostBar2Write port offset bytes) s =
      .next ((s.hostStore (hostCode port) 6 (addressed (bar2Pa s offset) bytes)).sendBytes (addressed (bar2Pa s offset) bytes)).1 := by
  have noWindow : ((addressed (bar2Pa s offset) bytes).any fun x => inRefresh s x.1) = false :=
    List.any_eq_false.mpr fun x hx => by rw [calm x hx]; exact Bool.false_ne_true
  have bytesAt : ((List.range bytes.length).map (bar2Pa s offset + ·)).zip bytes = addressed (bar2Pa s offset) bytes := rfl
  show execHostBar2Write port offset bytes s = _
  simp only [execHostBar2Write, ready, Nat.not_lt.mpr range, writable, bytesAt, room, noWindow, List.isEmpty_nil, Bool.not_true, decide_false, Bool.or_self,
    Bool.false_eq_true, if_false]

theorem exec_hostBar2Write_dropped {d : Nat} {r : List Nat} (reading : readDies s (bar2Pa s offset) bytes.length = d :: r) :
    exec (.hostBar2Write port offset bytes) s =
      .next { s with host := { s.host with wsdrop := (d :: r).foldl (fun w d => w ||| 2 ^ d) s.host.wsdrop } } := by
  show execHostBar2Write port offset bytes s = _
  simp only [execHostBar2Write, ready, Nat.not_lt.mpr range, reading, List.isEmpty_cons, Bool.not_true, Bool.not_false, decide_false, Bool.or_self,
    Bool.false_eq_true, if_false, if_true]

end Bar2Write

/-! ### Atomics and peers -/

/-- The new value of a host atomic of `n` bytes. -/
def hostAtomicNew (op : HostAtomicOp) (n operand old : Nat) : Nat :=
  match op with
  | .fetchAdd => (old + operand % 2 ^ (8 * n)) % 2 ^ (8 * n)
  | .swap => operand % 2 ^ (8 * n)
  | .cas c => if old = c.toNat % 2 ^ (8 * n) then operand % 2 ^ (8 * n) else old

theorem exec_hostAtomic {op : HostAtomicOp} {wide : Bool} {operand : Word64} {n : Nat} (size : n = if wide then 8 else 4) (ready : s.ready = true)
    (aligned : bar2Pa s offset % n = 0) (range : offset + n ≤ s.host.bar2Bytes) (home : atomicHome s (bar2Pa s offset) = true)
    (room : hostBlocked s (hostCode port) [bar2Pa s offset] = false) : exec (.hostAtomic port offset op wide operand) s =
      .next (s.hostAct (hostCode port) 6 (bar2Pa s offset) n (hostAtomicNew op n operand.toNat)) := by
  subst size
  show execHostAtomic port offset op wide operand s = _
  simp only [execHostAtomic, ready, aligned, Nat.not_lt.mpr range, home, room, bne_self_eq_false, Bool.not_true, decide_false, Bool.or_self,
    Bool.false_eq_true, if_false]
  cases op <;> rfl

/-- An atomic's result fits its place. -/
theorem hostAtomicNew_mod (op : HostAtomicOp) (n operand : Nat) {old : Nat} (fits : old < 2 ^ (8 * n)) :
    hostAtomicNew op n operand old % 2 ^ (8 * n) = hostAtomicNew op n operand old := by
  cases op with
  | fetchAdd => exact Nat.mod_mod _ _
  | swap => exact Nat.mod_mod _ _
  | cas c =>
    show (if _ then _ else _) % _ = if _ then _ else _
    split
    · exact Nat.mod_mod _ _
    · exact Nat.mod_eq_of_lt fits

/-- What an operation of a peer asks for beside room: an aligned place, or an event counter that no access in flight holds. -/
def remoteFits (s : State) (op : RemoteOp) : Prop :=
  match op with
  | .store _ _ => True
  | .signal c _ => tevBusy s c none = false
  | _ => (remoteSpan op).1 % (remoteSpan op).2 = 0

theorem exec_remoteOpArrive {peer : Nat} {op : RemoteOp} (ready : s.ready = true) (allowed : inbound s peer = true)
    (range : (remoteSpan op).1 + (remoteSpan op).2 ≤ windowBytes) (fits : remoteFits s op)
    (room : hostBlocked s (peerCode peer) ((List.range (remoteSpan op).2).map ((remoteSpan op).1 + ·)) = false) :
    exec (.remoteOpArrive port peer op) s = .next (s.remoteOp peer op) := by
  show execRemoteOpArrive port peer op s = _
  cases op with
  | store | bits | atomic | cas | addOn | signal =>
    simp only [remoteFits] at fits
    simp only [execRemoteOpArrive, ready, allowed, Nat.not_lt.mpr range, fits, room, beq_self_eq_true, Bool.not_true, decide_false, Bool.or_self,
      Bool.false_eq_true, if_false]

/-! ### Registers -/

/-- A pair of channels is alone when every other pair is at rest. -/
theorem farAlone_of_rest {n : Nat} (rest : ∀ k, k < farPairs → k ≠ n → s.far k = 0) : farAlone s n = true := by
  refine List.all_eq_true.mpr fun k hk => ?_
  by_cases same : k = n
  · simp [same]
  · simp [rest k (List.mem_range.mp hk) same]

section Registers

variable (ready : s.ready = true) (owner : port = s.host.owner)

include ready owner

theorem owner_writes : (s.ready && port == s.host.owner) = true := by rw [ready, owner, beq_self_eq_true]; rfl

theorem exec_registerWrite {v : Word64} : exec (.registerWrite port offset v) s = .next (s.regWrite offset v.toNat) := if_pos (owner_writes ready owner)

theorem exec_corespareGo {d : Nat} {v : Word64} (valid : d < Config.dies) (go : v.getLsbD 63 = true) :
    let logical := vbits v 48 7
    let phys := vbits v 32 7
    let u := s.modDie d fun x => { x with spareLogical := logical, sparePhys := phys }
    exec (.corespareGo port d v) s = .next (if spareOk u d logical phys then
        (u.modDie d fun x => { x with spareErr := false, spares := x.spares.set logical phys }).rasAdd 0 phys logical 4 0 d
      else u.modDie d fun x => { x with spareErr := true }) := by
  intro logical phys u
  show execCorespareGo port d v s = _
  rw [apply_ite Host.Outcome.next]
  refine if_neg ?_
  simp [ready, owner, go, Nat.not_le.mpr valid]

theorem exec_fmctlDrain {n : Nat} (valid : n < farPairs) (alone : farAlone s n = true) (present : s.far n = 0) :
    exec (.fmctlDrain port n) s = .next (s.setFar n 1 0) := if_pos (by simp [ready, owner, valid, alone, present])

theorem exec_fmctlRestore {n : Nat} (valid : n < farPairs) (alone : farAlone s n = true) (drained : s.far n = 2)
    (seated : s.ras.farAbsent.getD n false = false) : exec (.fmctlRestore port n) s = .next (s.setFar n 3 0) :=
  if_pos (by simp [ready, owner, valid, alone, drained, seated])

end Registers

end Accesses

/-- Settles O58: each event runs once its conditions hold; a store of the host leaves each byte at its own address, and an atomic its new value. -/
theorem hostAccessesComplete : Obligations.HostAccessesComplete := by
  refine ⟨fun s port offset bytes ready range writable => ?write, fun s port offset bytes d r ready range reading =>
      ⟨_, exec_hostBar2Write_dropped ready range reading, rfl, testBit_marks _ _ d (.inr List.mem_cons_self)⟩,
    fun s port offset op wide operand ready => ?atomic, fun s port peer op ready allowed range fits room => exec_remoteOpArrive ready allowed range fits room,
    fun s port offset v ⟨ready, owner⟩ => exec_registerWrite ready owner, fun s port d v ⟨ready, owner⟩ => exec_corespareGo ready owner,
    fun s port n ⟨ready, owner⟩ valid rest => ⟨exec_fmctlDrain ready owner valid (farAlone_of_rest rest),
      exec_fmctlRestore ready owner valid (farAlone_of_rest rest)⟩,
    fun s port ⟨ready, owner⟩ => ⟨if_pos (owner_writes ready owner), if_pos (owner_writes ready owner), if_pos (owner_writes ready owner)⟩⟩
  case write =>
    intro l room calm
    refine ⟨exec_hostBar2Write ready range writable room calm, fun off => ⟨fun a outside => ?_, fun taken clean i inside served => ?_⟩⟩
    · rw [sendBytes_mem]
      exact hostStore_other _ _ off (not_mem_addressed outside)
    · rw [sendBytes_mem]
      exact hostStore_get _ _ off (faultless_of_writeUe taken clean) (addressed_distinct _ _) (mem_addressed _ inside) served
  case atomic =>
    intro n pa aligned range home room readable first
    refine ⟨_, exec_hostAtomic rfl ready aligned range home room, fun a outside => hostAct_other readable first _ _ _ outside, ?_⟩
    rw [hostAct_value readable first, hostAtomicNew_mod _ _ _ (memNat_lt s _ _)]
    cases op with
    | fetchAdd => exact Nat.add_mod_mod _ _ _
    | swap => rfl
    | cas c => rfl

end Sys2Proof.Laws
end
